-- ==== Sys2Proof/Word.lean ====
section
/-! DEFINITION. The word types of the plant telegram protocol (section 1.10: bytes, 16-bit and 32-bit
big-endian fields) and the index lists the model folds over. -/

namespace Sys2Proof

/-- One byte of a telegram or of an instrument-bus transfer. -/
abbrev Byte := BitVec 8

/-- A 16-bit header or item field: a station address, a sequence, a reference id, a tag. -/
abbrev HWord := BitVec 16

/-- A 32-bit item field: a value, an aux field, an energy counter, a slot number. -/
abbrev Word := BitVec 32

/-- Every index below `n`, lowest first ("in index order", "in train number order"). -/
def fins : (n : Nat) → List (Fin n)
  | 0 => []
  | n + 1 => 0 :: (fins n).map Fin.succ

/-- A fixed table with `f` applied to every entry. -/
def tabMap {α β : Type} {n : Nat} (f : α → β) (v : Vector α n) : Vector β n :=
  ⟨(v.toList.map f).toArray, by simp⟩

end Sys2Proof
end

