-- ==== Sys2Proof/Config.lean ====
section
/-! DEFINITION. The free values of the model: constants with no body, one for each value that the
manual produces without stating it.  No proof can learn anything about them. -/

namespace Sys2Proof.Config

/-- What a 32-bit field carries for an exact amount outside its format.  The manual gives each field
32 bits and states no result beyond them. -/
opaque overflow32 : Int → BitVec 32

/-- The stored heat a store reads when the exact sum of R110 lies above the field's range
(section 6.1, field 17: 0 to 0xFFFFFFFE); the model keeps it within that range. -/
opaque storedHeatBeyondRange : Nat → Nat

/-- Aux A of a STATUS item that carries no refusal cause (R178 states aux A only for a refusal).
The argument is the counter `State.free`. -/
opaque statusCauseWord : Nat → BitVec 32

/-- Field values READ_STATE gives for a place of the fault ring or of the settlement history that holds
no record: block code, index, field. -/
opaque unoccupiedField : Nat → Nat → Nat → BitVec 32

/-- The bytes a management transfer had moved when an abort that carries no bus report ends it.
The argument is the counter `State.free`. -/
opaque movedBytes : Nat → List (BitVec 8)

/-- The last temperature of a usable layer that has never taken one (a scan point inherited from another
entry, R109).  The argument is the counter `State.free`. -/
opaque missingTemperature : Nat → Int

/-- The slot number that follows the last number of the 32-bit format. -/
opaque slotBeyondFormat : Nat → BitVec 32

end Sys2Proof.Config
end

