-- ==== Sys2Proof/Syntax.lean ====
section
/-! DEFINITION. The commands of the block: one constructor of `Instr` for each row of
spec/opcode_table.json, with what the row's event carries (a frame, a telegram, a management request,
the train or point a timer belongs to, what the instrument bus answered). -/

namespace Sys2Proof

/-- The two Ethernet ports (00_scope, Placement and connections). -/
inductive Port where
  | u
  | d
  deriving DecidableEq, Repr

/-- STATIONS entry index, 0 to 31 (section 1.7). -/
abbrev StationId := Fin 32
/-- Train number, T0 to T5. -/
abbrev TrainId := Fin 6
/-- Cavern number, C0 and C1. -/
abbrev CavernId := Fin 2
/-- Heat store number, H0 to H3. -/
abbrev StoreId := Fin 4
/-- LAYERS index, store × 16 + layer. -/
abbrev LayerId := Fin 64
/-- SCAN entry index, 0 to 47. -/
abbrev ScanId := Fin 48
/-- Duty number, 0 to 15. -/
abbrev DutyId := Fin 16

/-- One 24-byte item of a telegram (section 1.10, Item). -/
structure Item where
  kind    : Byte := 0
  refKind : Byte := 0
  refId   : HWord := 0
  value   : Word := 0
  auxA    : Word := 0
  auxB    : Word := 0
  auxC    : Word := 0
  flags   : HWord := 0
  tag     : HWord := 0
  deriving DecidableEq, Repr

/-- The header fields a sender chooses (section 1.10, Header); version, class, item count and item length
follow from the command and its items. -/
structure Header where
  dst   : HWord
  src   : HWord
  seq   : HWord
  flags : Byte := 0
  deriving DecidableEq, Repr

/-- A telegram that has passed the form check: class code, header fields, items and the padding after the
last item. -/
structure Telegram where
  cls   : Byte
  hdr   : Header
  items : List Item
  pad   : List Byte := []
  deriving DecidableEq, Repr

/-- The two Ethernet addresses of a frame (R1: frames that cross keep them). -/
structure Eth where
  dst : BitVec 48
  src : BitVec 48
  deriving DecidableEq, Repr

/-- A received frame as bytes: its addresses, its Ethernet type and its payload. -/
structure RawFrame where
  eth     : Eth
  type    : HWord
  payload : List Byte
  deriving DecidableEq, Repr

/-- One FIELD item of a management request: entry index (reference id), field number (aux A), value. -/
structure Field where
  index  : HWord
  number : Word
  value  : Word
  deriving DecidableEq, Repr

/-- The two pressure transmitters of a cavern. -/
inductive Transmitter where
  | a
  | b
  deriving DecidableEq, Repr

/-- How a scan transaction ended on the bus: every step made, with the bytes received (the third is used by
the three-byte format only), or an acknowledge read high (R157, R158). -/
inductive ScanEnd where
  | ok (b0 b1 b2 : Byte)
  | noAck
  deriving DecidableEq, Repr

/-- How a management transfer ended on the bus: every step made (with the bytes received, for a read), or an
acknowledge read high after the bytes given had moved (R157, R158). -/
inductive TransferEnd where
  | ok (received : List Byte)
  | noAck (moved : List Byte)
  deriving DecidableEq, Repr

/-- The commands of the DZ7140, in the order of spec/opcode_table.json. -/
inductive Instr where
  | powerOn (straps : BitVec 4)
  | frameCheckDiscard (port : Port) (f : RawFrame)
  | foreignFrame (port : Port) (f : RawFrame)
  | malformedTelegram (port : Port) (f : RawFrame)
  | droppedTelegram (port : Port) (eth : Eth) (t : Telegram)
  | dispatch (h : Header) (items : List Item)
  | schedule (h : Header) (items : List Item)
  | activation (h : Header) (item : Item)
  | timemark (h : Header) (item : Item)
  | poll (eth : Eth) (h : Header) (items : List Item) (pad : List Byte)
  | report (eth : Eth) (h : Header) (items : List Item) (pad : List Byte)
  | rollcallReply (h : Header) (items : List Item)
  | readEntries (h : Header) (table : Word) (first : HWord) (count : Word) (field : Word)
  | readState (h : Header) (block : Word) (index : HWord) (field : Word)
  | writeStations (h : Header) (fields : List Field)
  | writePermissions (h : Header) (fields : List Field)
  | writePositions (h : Header) (fields : List Field)
  | writeDuties (h : Header) (fields : List Field)
  | writeTrains (h : Header) (fields : List Field)
  | writeCaverns (h : Header) (fields : List Field)
  | writeBands (h : Header) (fields : List Field)
  | writeStores (h : Header) (fields : List Field)
  | writeLayers (h : Header) (fields : List Field)
  | writeScan (h : Header) (fields : List Field)
  | writeRoutes (h : Header) (fields : List Field)
  | writePart (h : Header) (fields : List Field)
  | fenceAll (h : Header)
  | fencePosition (h : Header) (p : HWord)
  | fenceDesk (h : Header) (d : HWord)
  | fenceDuty (h : Header) (u : HWord)
  | openGate (h : Header)
  | closeGate (h : Header)
  | restart (h : Header)
  | busTransferRead (h : Header) (address : HWord) (offset : Word) (count : Word)
  | busTransferWrite (h : Header) (address : HWord) (offset : Word) (count : Word) (fields : List Field)
  | busRecover (h : Header)
  | busRecoverAbort (h : Header) (moved : List Byte)
  | clearNotices (h : Header) (tier : Word) (low : Word) (high : Word)
  | setMask (h : Header) (tier : Word) (low : Word) (high : Word)
  | ptripAsserted
  | ptripDeasserted
  | rollCallPeriodExpiry
  | replyTimerExpiry
  | engageTimerExpiry (t : TrainId)
  | startTimerExpiry (t : TrainId)
  | stopTimerExpiry (t : TrainId)
  | trainStopRequest
  | pacingTimerExpiry (t : TrainId)
  | cavernStalenessTimerExpiry (c : CavernId) (x : Transmitter)
  | blindTimerExpiry (c : CavernId)
  | layerStalenessTimerExpiry (l : LayerId)
  | boundaryTimerExpiry
  | preReservationTimerExpiry
  | rampStepTimerExpiry
  | timeMarkTimerExpiry
  | holdTimerExpiry
  | scanIntervalTimerExpiry
  | clockLowTimerExpiry (moved : List Byte) (pulses : Nat)
  | dataLowTimerExpiry (moved : List Byte)
  | transactionStart (clockHigh dataHigh : Bool)
  | arbitrationLost (moved : List Byte)
  | scanTransactionComplete (r : ScanEnd)
  | managementTransferComplete (r : TransferEnd)
  | recoveryComplete (pulses : Nat) (freed : Bool)
  deriving DecidableEq, Repr

end Sys2Proof
end

