-- ==== Sys2Proof/Decode.lean ====
section
/-! DEFINITION. The bytes of a telegram (section 1.10): the form check of R2, the reading of a payload and its
writing.  No row of spec/opcode_table.json gives bits, so `decodeTableWord` answers none for every word. -/

namespace Sys2Proof

/-- The command a table word spells: no row of the table gives bits. -/
def decodeTableWord (_nbits _w : Nat) : Option Instr := none

/-! ### Reading -/

/-- Byte `i` of a payload (0 beyond its end; the form check has measured the length before any use). -/
def byteAt (p : List Byte) (i : Nat) : Byte := p.getD i 0

/-- Two bytes, big-endian. -/
def halfAt (p : List Byte) (i : Nat) : HWord := byteAt p i ++ byteAt p (i + 1)

/-- Four bytes, big-endian. -/
def wordAt (p : List Byte) (i : Nat) : Word := halfAt p i ++ halfAt p (i + 2)

/-- The item that begins a run of bytes (section 1.10, Item). -/
def parseItem (p : List Byte) : Item :=
  { kind := byteAt p 0, refKind := byteAt p 1, refId := halfAt p 2, value := wordAt p 4, auxA := wordAt p 8,
    auxB := wordAt p 12, auxC := wordAt p 16, flags := halfAt p 20, tag := halfAt p 22 }

/-- `n` items, one after another. -/
def parseItems : Nat → List Byte → List Item
  | 0, _ => []
  | n + 1, p => parseItem p :: parseItems n (p.drop 24)

/-- Whether an item count suits a class (R2, condition 7): ACTIVATION, TIMEMARK and DRIVE need exactly 1, MANAGE
and ROLLCALL_REPLY at least 1. -/
def countSuits (cls : Byte) (n : Nat) : Bool :=
  if cls = 0x06 ∨ cls = 0x07 ∨ cls = 0x02 then n == 1
  else if cls = 0x0A ∨ cls = 0x09 then 1 ≤ n
  else true

/-- The number of the first condition of R2 that holds, none where the telegram passes. -/
def formCheck (p : List Byte) : Option Nat :=
  let n := (byteAt p 9).toNat
  if p.length < 12 then some 1
  else if byteAt p 0 ≠ 1 then some 2
  else if ¬ (1 ≤ (byteAt p 1).toNat ∧ (byteAt p 1).toNat ≤ 14) then some 3
  else if 16 < n then some 4
  else if (halfAt p 10).toNat ≠ 24 * n then some 5
  else if p.length < 12 + 24 * n then some 6
  else if !countSuits (byteAt p 1) n then some 7
  else none

/-- The header fields of a payload of at least 12 bytes. -/
def parseHeader (p : List Byte) : Header :=
  { dst := halfAt p 2, src := halfAt p 4, seq := halfAt p 6, flags := byteAt p 8 }

/-- A payload that has passed the form check, read; bytes after the last item are padding. -/
def parseTelegram (p : List Byte) : Telegram :=
  let n := (byteAt p 9).toNat
  { cls := byteAt p 1, hdr := parseHeader p, items := parseItems n (p.drop 12), pad := p.drop (12 + 24 * n) }

/-! ### Writing -/

/-- Two bytes of a half word, big-endian. -/
def halfBytes (h : HWord) : List Byte := [h.extractLsb' 8 8, h.extractLsb' 0 8]

/-- Four bytes of a word, big-endian. -/
def wordBytes (w : Word) : List Byte := halfBytes (w.extractLsb' 16 16) ++ halfBytes (w.extractLsb' 0 16)

/-- The 24 bytes of an item. -/
def Item.toBytes (i : Item) : List Byte :=
  [i.kind, i.refKind] ++ halfBytes i.refId ++ wordBytes i.value ++ wordBytes i.auxA ++ wordBytes i.auxB
    ++ wordBytes i.auxC ++ halfBytes i.flags ++ halfBytes i.tag

/-- The 12 bytes of a header. -/
def headerBytes (cls : Byte) (h : Header) (n : Nat) : List Byte :=
  [1, cls] ++ halfBytes h.dst ++ halfBytes h.src ++ halfBytes h.seq ++ [h.flags, BitVec.ofNat 8 n]
    ++ halfBytes (BitVec.ofNat 16 (24 * n))

/-- The payload a telegram travels as (R9: version 1, item count and item length agree with the items). -/
def Telegram.toBytes (t : Telegram) : List Byte :=
  headerBytes t.cls t.hdr t.items.length ++ t.items.flatMap Item.toBytes ++ t.pad

end Sys2Proof
end

