-- ==== Sys2Proof/Machine/State.lean ====
section
/-! DEFINITION. What the DZ7140 holds: every table, record, list, timer, flag and setting the manual gives it,
as plain data, with the power-on values of the listings as field defaults, and the state after reset. -/

namespace Sys2Proof.Machine

/-! ### Names shared by several blocks -/

/-- CHARGE and GENERATE (codes 1 and 2, section 1.10). -/
inductive RunMode where
  | charge
  | generate
  deriving DecidableEq, Repr

/-- A mode that may be NONE (code 0): the engaged mode of a train, the IDLE direction of a cavern. -/
abbrev Mode := Option RunMode

/-- A subset of T0 to T5, bit n for train n. -/
abbrev TrainSet := BitVec 6

/-- A subset of GENERATE, CHARGE, RESERVE, in this bit order (section 2.4). -/
abbrev AllowSet := BitVec 3

/-- A fault cause code, 0 to 60 (section 10.1). -/
abbrev Cause := Fin 61

namespace Cause
abbrev malformed : Cause := 0
abbrev sourceUnknown : Cause := 1
abbrev classNotAllowed : Cause := 2
abbrev gateClosed : Cause := 3
abbrev refForbidden : Cause := 4
abbrev kindForbidden : Cause := 5
abbrev kindIllegal : Cause := 6
abbrev positionUnused : Cause := 7
abbrev positionNull : Cause := 8
abbrev positionForeign : Cause := 9
abbrev positionDenied : Cause := 10
abbrev dutyUnused : Cause := 11
abbrev dutyDenied : Cause := 12
abbrev trainUnconfigured : Cause := 13
abbrev notPermitted : Cause := 14
abbrev trainUnreachable : Cause := 15
abbrev trainState : Cause := 16
abbrev notManual : Cause := 17
abbrev modeMismatch : Cause := 18
abbrev queueFull : Cause := 19
abbrev pollHoldFull : Cause := 20
abbrev storeBlind : Cause := 21
abbrev override : Cause := 22
abbrev directionConflict : Cause := 23
abbrev heatShort : Cause := 24
abbrev envelopeStart : Cause := 25
abbrev engageTimeout : Cause := 26
abbrev startTimeout : Cause := 27
abbrev stopTimeout : Cause := 28
abbrev trainLocked : Cause := 29
abbrev trip : Cause := 30
abbrev tripLineActive : Cause := 31
abbrev resyncConflict : Cause := 32
abbrev unexpectedReport : Cause := 33
abbrev envelopeTrip : Cause := 34
abbrev pressureDisagree : Cause := 35
abbrev cavernBlind : Cause := 36
abbrev blindStop : Cause := 37
abbrev rateHold : Cause := 38
abbrev heatShortfall : Cause := 39
abbrev heatExhausted : Cause := 40
abbrev reservationFull : Cause := 41
abbrev slotGateClosed : Cause := 42
abbrev slotOutOfWindow : Cause := 43
abbrev slotFull : Cause := 44
abbrev dispatchFault : Cause := 45
abbrev slotMissed : Cause := 46
abbrev timeBackward : Cause := 47
abbrev timeStale : Cause := 48
abbrev activationLimited : Cause := 49
abbrev activationExpired : Cause := 50
abbrev busNoAck : Cause := 51
abbrev busArbLost : Cause := 52
abbrev busHung : Cause := 53
abbrev busFailed : Cause := 54
abbrev scanOverrun : Cause := 55
abbrev pointBad : Cause := 56
abbrev identityMismatch : Cause := 57
abbrev topologyExceeded : Cause := 58
abbrev unexpectedStation : Cause := 59
abbrev stationLost : Cause := 60
end Cause

/-- Fault categories with the codes 0 to 9 of section 10.1. -/
inductive Category where
  | admission
  | sequence
  | envelope
  | heat
  | schedule
  | reserve
  | time
  | bus
  | station
  | form
  deriving DecidableEq, Repr

/-! ### Link unit -/

/-- The payload of a frame waiting to leave: a telegram, or the bytes of a foreign frame. -/
inductive Payload where
  | telegram (t : Telegram)
  | raw (bytes : List Byte)
  deriving DecidableEq, Repr

/-- A frame in a transmit queue. -/
structure Frame where
  eth     : Eth
  type    : HWord
  payload : Payload
  deriving DecidableEq, Repr

/-- One port: its link, its transmit queue (at most 64 frames, R1) and its emission counter (R9). -/
structure PortState where
  up      : Bool := true
  tx      : List Frame := []
  counter : HWord := 0
  deriving DecidableEq, Repr

/-- The two ports. -/
structure Link where
  u : PortState := {}
  d : PortState := {}
  deriving DecidableEq, Repr

/-! ### Station unit (section 1.7, 1.8) -/

/-- Station roles, in the order of the STATIONS listing. -/
inductive Role where
  | safety
  | plant
  | desk
  | grid
  | clock
  | viewer
  | train
  | coupler
  deriving DecidableEq, Repr

/-- Enrolment of a downstream station. -/
inductive Enrolment where
  | unenrolled
  | enrolled
  | lost
  | rejected
  deriving DecidableEq, Repr

/-- One STATIONS entry with its dynamic fields (the depth is derived). -/
structure Station where
  inUse     : Bool := false
  address   : HWord := 0
  port      : Port := .u
  role      : Role := .viewer
  level     : Nat := 3
  manage    : Bool := false
  via       : Option StationId := none
  idHigh    : Word := 0
  idLow     : Word := 0
  enrolment : Enrolment := .unenrolled
  misses    : Nat := 0
  deriving DecidableEq, Repr

/-- Roll call (section 1.8). -/
structure RollCall where
  inRound : Bool := false
  cursor  : Nat := 0
  call    : Option (StationId × HWord) := none
  period  : Option Nat := none
  reply   : Option Nat := none
  deriving DecidableEq, Repr

/-! ### PART settings (section 11.3) -/

/-- The PART entry.  Durations are held in the unit of the listing. -/
structure Part where
  address       : HWord := 0x7F00
  ethHigh       : HWord := 0x0246
  ethLow        : Word := 0
  telegramType  : HWord := 0xD7A1
  foreignPass   : Bool := true
  rollPeriod    : Nat := 5
  replyTimeout  : Nat := 100
  missLimit     : Nat := 3
  failureLimit  : Nat := 3
  slotLength    : Nat := 300
  gateLead      : Nat := 3
  lookAhead     : Nat := 2
  preLead       : Nat := 60
  rampStep      : Nat := 10
  timeTolerance : Nat := 2
  markLimit     : Nat := 120
  holdTime      : Nat := 10
  fastBus       : Bool := false
  stretchLimit  : Nat := 10
  hangLimit     : Nat := 25
  scanInterval  : Nat := 1000
  safetyDest    : Option HWord := none
  plantDest     : Option HWord := none
  deskDest      : Option HWord := none
  deriving DecidableEq, Repr

/-! ### Translation unit (sections 2.4, 2.6) -/

/-- State of a POSITIONS entry. -/
inductive PosState where
  | unused
  | null
  | mapped
  deriving DecidableEq, Repr

/-- One POSITIONS entry. -/
structure Position where
  state : PosState := .unused
  duty  : DutyId := 0
  allow : AllowSet := 0
  desk  : Option StationId := none
  limit : Nat := 0
  deriving DecidableEq, Repr

/-- One DUTIES entry. -/
structure Duty where
  mapped : Bool := false
  train  : TrainId := 0
  allow  : AllowSet := 0
  limit  : Nat := 0
  deriving DecidableEq, Repr

/-- One entry of the translation cache. -/
structure CacheEntry where
  valid      : Bool := false
  isPosition : Bool := false
  key        : Nat := 0
  duty       : Option DutyId := none
  train      : TrainId := 0
  allow      : AllowSet := 0
  limit      : Nat := 0
  desk       : Option StationId := none
  deriving DecidableEq, Repr

/-! ### Train sequencer (chapter 3) -/

/-- Train kinds. -/
inductive TrainKind where
  | compressor
  | expander
  | reversible
  deriving DecidableEq, Repr

/-- The eight train states. -/
inductive TrainState where
  | unknown
  | standstill
  | engaging
  | starting
  | running
  | stopping
  | tripped
  | locked
  deriving DecidableEq, Repr

/-- TRAINS configuration fields 0 to 19. -/
structure TrainCfg where
  configured     : Bool := false
  controller     : StationId := 0
  kind           : TrainKind := .reversible
  cavern         : CavernId := 0
  store          : StoreId := 0
  ratedCharge    : Nat := 0
  ratedGenerate  : Nat := 0
  minStable      : Nat := 0
  rampRate       : Nat := 100
  reserveRamp    : Nat := 500
  reactiveLimit  : Nat := 0
  reheatApproach : Nat := 150
  heatGenerate   : Nat := 0
  heatCharge     : Nat := 0
  defaultEnergy  : Nat := 0
  engageTimeout  : Nat := 60
  startTimeout   : Nat := 600
  stopTimeout    : Nat := 900
  pacingGap      : Nat := 50
  ceiling        : Nat := 1
  deriving DecidableEq, Repr

/-- The timer of a train that may be running (field 42). -/
inductive TrainTimer where
  | engage
  | start
  | stop
  deriving DecidableEq, Repr

/-- Run states a controller reports (RUN_STATE codes 0 to 5). -/
inductive ReportedState where
  | standstill
  | engaging
  | starting
  | synchronised
  | stopping
  | tripped
  deriving DecidableEq, Repr

/-- Last-report fields 45 to 51; absent until an item has been taken. -/
structure LastReport where
  runState  : Option ReportedState := none
  mode      : Option Mode := none
  active    : Option Word := none
  reactive  : Option Word := none
  gen       : Option Word := none
  chg       : Option Word := none
  tripCause : Option Word := none
  deriving DecidableEq, Repr

/-- Dynamic fields 32 to 55 of a train record. -/
structure TrainRun where
  state     : TrainState := .unknown
  engaged   : Mode := none
  mode      : Mode := none
  auto      : Bool := false
  power     : Nat := 0
  reactive  : Int := 0
  reheat    : Int := 0
  failures  : Nat := 0
  lock      : Bool := false
  reset     : Bool := false
  timer     : Option (TrainTimer × Nat) := none
  lastCause : Option Cause := none
  report    : LastReport := {}
  age       : Option Nat := none
  slotGen   : Word := 0
  slotChg   : Word := 0
  tripLine  : Bool := false
  deriving DecidableEq, Repr

/-- One train record. -/
structure Train where
  cfg : TrainCfg := {}
  run : TrainRun := {}
  deriving DecidableEq, Repr

/-- A stop request of the heat account unit or the cavern envelope unit, waiting to be taken (R58). -/
structure StopRequest where
  train : TrainId
  cause : Cause
  deriving DecidableEq, Repr

/-! ### Drive queue (chapter 4) -/

/-- Kinds of drive entry, in the order of the queue listing. -/
inductive DriveKind where
  | power
  | reactive
  | reheat
  | engage
  | start
  | stop
  | tripReset
  deriving DecidableEq, Repr

/-- Origins with codes 0 to 3 (section 1.10). -/
inductive Origin where
  | admitted
  | schedule
  | reserve
  | sequencer
  deriving DecidableEq, Repr

/-- One queue entry.  `stamp` is the model's own: the order of placement, from which the polls it stands
ahead of are known (R86). -/
structure Entry where
  train   : TrainId
  kind    : DriveKind
  value   : Int
  origin  : Origin
  station : Option HWord := none
  seq     : Option HWord := none
  tag     : HWord := 0
  clamped : Bool := false
  merges  : Nat := 0
  stamp   : Nat := 0
  deriving DecidableEq, Repr

/-- A pending dispatch (R74). -/
structure Pending where
  value   : Nat
  origin  : Origin
  clamped : Bool
  deriving DecidableEq, Repr

/-- A held poll (R85). -/
structure HeldPoll where
  train : TrainId
  frame : Frame
  src   : HWord
  seq   : HWord
  stamp : Nat
  deriving DecidableEq, Repr

/-- The drive queue: entries oldest first, the per-train places, the poll hold list. -/
structure Queue where
  entries  : List Entry := []
  holds    : Vector (Option Entry) 6 := Vector.replicate 6 none
  pendings : Vector (Option Pending) 6 := Vector.replicate 6 none
  pacing   : Vector (Option Nat) 6 := Vector.replicate 6 none
  polls    : List HeldPoll := []
  stamp    : Nat := 0
  deriving DecidableEq, Repr

/-! ### Cavern envelope unit (chapter 5) -/

/-- CAVERNS configuration fields 0 and 3 to 10 (fields 1 and 2 are derived). -/
structure CavernCfg where
  configured : Bool := false
  minOp      : Nat := 0
  maxOp      : Nat := 30000
  hardMin    : Nat := 0
  hardMax    : Nat := 30000
  tolerance  : Nat := 100
  staleness  : Nat := 5
  blindLimit : Nat := 60
  rateWindow : Nat := 300
  deriving DecidableEq, Repr

/-- Selection condition (section 5.2). -/
inductive Condition where
  | agreed
  | disagreed
  | single
  | blind
  deriving DecidableEq, Repr

/-- The blind timer of a cavern (fields 31, 32). -/
inductive BlindTimer where
  | idle
  | running (ms : Nat)
  | expired
  deriving DecidableEq, Repr

/-- Dynamic fields 16 to 32 of a cavern record, and its two staleness timers. -/
structure CavernRun where
  condition    : Condition := .blind
  high         : Option Int := none
  low          : Option Int := none
  usableA      : Bool := false
  usableB      : Bool := false
  windowAge    : Option Nat := none
  windowHigh   : Option Int := none
  windowLow    : Option Int := none
  rise         : Nat := 0
  fall         : Nat := 0
  riseHold     : Bool := false
  fallHold     : Bool := false
  chargeBand   : Option (Fin 8) := none
  generateBand : Option (Fin 8) := none
  direction    : Mode := none
  holders      : TrainSet := 0
  blindTimer   : BlindTimer := .idle
  staleA       : Option Nat := none
  staleB       : Option Nat := none
  deriving DecidableEq, Repr

/-- One cavern record. -/
structure Cavern where
  cfg : CavernCfg := {}
  run : CavernRun := {}
  deriving DecidableEq, Repr

/-- One BANDS entry. -/
structure Band where
  bound    : Nat := 30000
  charge   : Nat := 0
  generate : Nat := 0
  maxRise  : Nat := 0
  maxFall  : Nat := 0
  deriving DecidableEq, Repr

/-! ### Heat account unit (chapter 6) -/

/-- STORES configuration fields 0 to 6. -/
structure StoreCfg where
  configured : Bool := false
  capacity   : Nat := 0
  minReserve : Nat := 0
  layerCount : Nat := 1
  staleness  : Nat := 10
  minGrant   : Nat := 0
  quantum    : Nat := 1000
  deriving DecidableEq, Repr

/-- Condition of a store (R110). -/
inductive StoreCondition where
  | good
  | degraded
  | blind
  deriving DecidableEq, Repr

/-- Dynamic fields 16 to 20 of a store record. -/
structure StoreRun where
  condition  : StoreCondition := .blind
  stored     : Nat := 0
  reservable : Nat := 0
  headroom   : Nat := 0
  usable     : Nat := 0
  deriving DecidableEq, Repr

/-- One store record. -/
structure Store where
  cfg : StoreCfg := {}
  run : StoreRun := {}
  deriving DecidableEq, Repr

/-- One LAYERS entry with its dynamic fields (scan point and usability are derived). -/
structure Layer where
  coefficient  : Nat := 0
  base         : Int := 0
  last         : Option Int := none
  contribution : Nat := 0
  stale        : Option Nat := none
  deriving DecidableEq, Repr

/-- Kind of a reservation. -/
inductive HeatKind where
  | draw
  | fill
  deriving DecidableEq, Repr

/-- Phase of a reservation. -/
inductive Phase where
  | current
  | next
  deriving DecidableEq, Repr

/-- One record of the reservation list (section 6.3). -/
structure Reservation where
  train    : TrainId
  store    : StoreId
  kind     : HeatKind
  phase    : Phase
  slot     : Option Word
  granted  : Nat
  consumed : Nat
  basis    : Nat
  counter  : Option Word
  deriving DecidableEq, Repr

/-! ### Schedule engine (chapter 7) -/

/-- The pre-reservation timer. -/
inductive PreTimer where
  | idle
  | running (ms : Nat)
  | done
  deriving DecidableEq, Repr

/-- Engine state and timers (section 7.1); SYNCHRONISED exactly while `active` is present.  `step` is the ramp step in
seconds as the ramp step timer's last start read it (R124). -/
structure Engine where
  active   : Option Word := none
  boundary : Option Nat := none
  pre      : PreTimer := .idle
  ramp     : Option Nat := none
  step     : Nat := 10
  mark     : Option Nat := none
  deriving DecidableEq, Repr

/-- State of a slot record. -/
inductive SlotState where
  | free
  | provisional
  | firm
  | active
  | closed
  deriving DecidableEq, Repr

/-- One commitment. -/
structure Commit where
  position : Fin 128
  power    : Int
  up       : Nat
  down     : Nat
  deriving DecidableEq, Repr

/-- Flags of a slot record and of a settlement record, in the member order of field 46. -/
structure SlotFlags where
  missed      : Bool := false
  undelivered : Bool := false
  partialData : Bool := false
  adjusted    : Bool := false
  deriving DecidableEq, Repr

/-- One record of the slot ring (section 7.2). -/
structure Slot where
  number      : Word := 0
  state       : SlotState := .free
  desk        : Option StationId := none
  gatePassed  : Bool := false
  commits     : List Commit := []
  targets     : Vector Int 6 := Vector.replicate 6 0
  flags       : SlotFlags := {}
  accumulator : Int := 0
  bases       : TrainSet := 0
  deriving DecidableEq, Repr

/-- One settlement record (R138). -/
structure Settlement where
  slot      : Word
  scheduled : Int
  generated : Nat
  charged   : Nat
  activated : Int
  deviation : Int
  flags     : SlotFlags
  deriving DecidableEq, Repr

/-! ### Reserve unit (chapter 8) -/

/-- Last outcome of the activation record (field 9). -/
inductive LastOutcome where
  | none
  | accepted
  | limited
  | ended
  | refusedUnsynchronised
  | refusedGate
  | refusedKind
  deriving DecidableEq, Repr

/-- The activation record (index 1 of the engine block). -/
structure Activation where
  active    : Bool := false
  id        : Option Word := none
  requested : Int := 0
  limited   : Int := 0
  applied   : Int := 0
  up        : Nat := 0
  down      : Nat := 0
  hold      : Option Nat := none
  outcome   : LastOutcome := .none
  since     : Nat := 0
  deriving DecidableEq, Repr

/-- The per-train part of the activation record (indices 2 to 7). -/
structure Share where
  share      : Int := 0
  carrier    : Bool := false
  unfinished : Bool := false
  aim        : Nat := 0
  deriving DecidableEq, Repr

/-! ### Instrument bus controller (chapter 9) -/

/-- Instrument formats. -/
inductive ScanFormat where
  | u16
  | s16
  | s24
  deriving DecidableEq, Repr

/-- Destination kinds of a scan entry. -/
inductive DestKind where
  | none
  | cavernA
  | cavernB
  | layer
  deriving DecidableEq, Repr

/-- One SCAN entry. -/
structure ScanEntry where
  inUse     : Bool := false
  address   : BitVec 7 := 0
  register  : Byte := 0
  format    : ScanFormat := .u16
  gain      : Int := 1000
  offset    : Int := 0
  destKind  : DestKind := .none
  destIndex : Nat := 0
  period    : Nat := 1
  deriving DecidableEq, Repr

/-- Quality of a point. -/
inductive Quality where
  | good
  | suspect
  | bad
  deriving DecidableEq, Repr

/-- Last result of a point. -/
inductive PointResult where
  | none
  | ok
  | noAck
  | arbLost
  | hung
  deriving DecidableEq, Repr

/-- One point record (section 9.6).  `staleAt` is the model's own (log entry 29): the age at which a staleness timer of
the last success expired, absent before. -/
structure Point where
  value    : Option Int := none
  quality  : Quality := .bad
  age      : Option Nat := none
  staleAt  : Option Nat := none
  failures : Nat := 0
  last     : PointResult := .none
  deriving DecidableEq, Repr

/-- The five bus states. -/
inductive BusState where
  | idle
  | scanActive
  | mgmtActive
  | recovering
  | failed
  deriving DecidableEq, Repr

/-- An accepted management transfer and the request it answers (R166). -/
structure Transfer where
  write    : Bool
  address  : BitVec 7
  register : Byte
  count    : Nat
  active   : Bool
  dst      : HWord
  seq      : HWord
  deriving DecidableEq, Repr

/-- The granted transaction: whether its start condition was issued, whether it waits to be made again after an
arbitration loss, the speed taken at its start, and, for a scan transaction, the fields it began with and whether a
write has cleared the entry's use (R163). -/
structure Txn where
  started   : Bool
  retry     : Bool
  fast      : Bool
  fields    : ScanEntry
  discarded : Bool
  deriving DecidableEq, Repr

/-- The controller (index 0 of the bus block), the periods of the scan entries as the last round's beginning read them
(R163), its guard timers, the transfer buffer, and the reply owed for a recovery that a request started (destination,
sequence). -/
structure Bus where
  state    : BusState := .idle
  entry    : Option ScanId := none
  attempt  : Nat := 1
  inRound  : Bool := false
  round    : Word := 0
  periods  : Vector Nat 48 := Vector.replicate 48 1
  cursor   : Nat := 0
  owedRound : Bool := false
  pulses   : Nat := 0
  interval : Option Nat := none
  txn      : Option Txn := none
  clockLow : Option Nat := none
  dataLow  : Option Nat := none
  transfer : Option Transfer := none
  buffer   : Vector Byte 32 := Vector.replicate 32 0
  owed     : Option (HWord × HWord) := none
  deriving DecidableEq, Repr

/-! ### Fault unit (chapter 10) -/

/-- One ROUTES entry. -/
structure Route where
  plant : Bool := false
  desk  : Bool := false
  deriving DecidableEq, Repr

/-- One fault record, fields 0 to 14 (section 10.2). -/
structure FaultRecord where
  number    : Word
  cause     : Cause
  category  : Category
  slot      : Option Word
  offset    : Option Nat
  train     : Option TrainId
  place     : Option Nat
  reference : Option Word
  duty      : Option DutyId
  station   : Option HWord
  seq       : Option HWord
  kind      : Option Byte
  detail    : Option Word
  tag       : Option HWord
  act       : Option Word
  deriving DecidableEq, Repr

/-- The fault ring with its counts (R170). -/
structure FaultLog where
  ring       : List FaultRecord := []
  overwrites : Nat := 0
  counter    : Word := 0
  deriving DecidableEq, Repr

/-- One notice tier (section 10.4); bit n stands for cause code n. -/
structure Tier where
  pending    : BitVec 61 := 0
  mask       : BitVec 61 := 0
  suppressed : Vector Nat 61 := Vector.replicate 61 0
  carried    : Vector Nat 61 := Vector.replicate 61 0
  deriving DecidableEq, Repr

/-- The notice tiers with codes 0 to 2. -/
abbrev TierId := Fin 3

/-! ### The whole block -/

/-- Everything the DZ7140 holds.  `pending` is the queue of commands waiting to be taken and `free` the count
the free values are read with (the model's own two fields). -/
structure State where
  pending      : List Instr := []
  stopRequests : List StopRequest := []
  link         : Link := {}
  part         : Part := {}
  gateOpen     : Bool := false
  ptrip        : Bool := false
  stations     : Vector Station 32 := Vector.replicate 32 {}
  roll         : RollCall := {}
  permissions  : Vector (BitVec 9) 192 := Vector.replicate 192 0
  positions    : Vector Position 128 := Vector.replicate 128 {}
  duties       : Vector Duty 16 := Vector.replicate 16 {}
  cache        : Vector CacheEntry 16 := Vector.replicate 16 {}
  lru          : Vector Bool 8 := Vector.replicate 8 false
  trains       : Vector Train 6 := Vector.replicate 6 {}
  queue        : Queue := {}
  caverns      : Vector Cavern 2 := Vector.replicate 2 {}
  bands        : Vector Band 16 := Vector.replicate 16 {}
  stores       : Vector Store 4 := Vector.replicate 4 {}
  layers       : Vector Layer 64 := Vector.replicate 64 {}
  reservations : List Reservation := []
  engine       : Engine := {}
  slots        : Vector Slot 48 := Vector.replicate 48 {}
  history      : List Settlement := []
  act          : Activation := {}
  shares       : Vector Share 6 := Vector.replicate 6 {}
  scan         : Vector ScanEntry 48 := Vector.replicate 48 {}
  points       : Vector Point 48 := Vector.replicate 48 {}
  bus          : Bus := {}
  routes       : Vector Route 61
  faults       : FaultLog := {}
  tiers        : Vector Tier 3 := Vector.replicate 3 {}
  free         : Nat := 0
  deriving DecidableEq, Repr

/-- No command of the table stops the block: there is no machine fault.  (What the manual calls a fault is a
record in the fault ring, R169; it is part of `State`.) -/
inductive Fault where
  deriving DecidableEq, Repr

/-- Why a command has no meaning. -/
inductive Refusal where
  /-- Raised by `exec` for a command of the table that has no meaning yet; safe: nothing is changed. -/
  | notModelled (mnemonic : String)
  deriving DecidableEq, Repr

/-- The power-on value of a ROUTES entry (section 10.3): fixed DESK routes read set in both fields, codes 3 to
22 and 45 delegate to PLANT, every other cause is clear in both. -/
def routePowerOn (c : Cause) : Route :=
  if 42 ≤ c.val ∧ c.val ≤ 44 then { plant := true, desk := true }
  else if (3 ≤ c.val ∧ c.val ≤ 22) ∨ c.val = 45 then { plant := true }
  else {}

/-- ROUTES after power-on. -/
def routesPowerOn : Vector Route 61 :=
  ⟨((fins 61).map routePowerOn).toArray, by decide⟩

/-- The machine right after reset (R185): every field at its power-on value, the roll-call period timer and the
scan interval timer running.  The straps read 0, PTRIP is not asserted and both links are up: log entry 12. -/
def State.reset : State :=
  { routes := routesPowerOn
    roll := { period := some 5000 }
    bus := { interval := some 1000 } }

end Sys2Proof.Machine
end

