-- ==== Sys2Proof/Machine/Operands.lean ====
section
/-! DEFINITION. How values travel (section 1.10, Field items): codes of enumerated values, flags, absent values,
signed and unsigned readings of a 32-bit field, legalising, and the reading of report items (R7, R20). -/

namespace Sys2Proof.Machine

/-! ### Codes: an enumerated value travels as its place in its listing (log entry 3) -/

/-- The value whose code is `w`, in a listing. -/
def ofCode {α : Type} (listing : List α) (w : Word) : Option α := listing[w.toNat]?

/-- The code of a value: its place in the listing. -/
def codeOf {α : Type} [DecidableEq α] (listing : List α) (x : α) : Nat := listing.findIdx (fun y => decide (y = x))

/-- Mode codes NONE 0, CHARGE 1, GENERATE 2 (section 1.10). -/
def modeListing : List Mode := [none, some .charge, some .generate]

/-- Reported run states (RUN_STATE codes 0 to 5). -/
def reportedListing : List ReportedState := [.standstill, .engaging, .starting, .synchronised, .stopping, .tripped]

/-- Ports U, D (STATIONS field 2). -/
def portListing : List Port := [.u, .d]

/-- Roles (STATIONS field 3). -/
def roleListing : List Role := [.safety, .plant, .desk, .grid, .clock, .viewer, .train, .coupler]

/-- Enrolment states (STATIONS field 16). -/
def enrolmentListing : List Enrolment := [.unenrolled, .enrolled, .lost, .rejected]

/-- States of a position (POSITIONS field 0). -/
def posStateListing : List PosState := [.unused, .null, .mapped]

/-- Train kinds (TRAINS field 2). -/
def kindListing : List TrainKind := [.compressor, .expander, .reversible]

/-- Train states (TRAINS field 32). -/
def trainStateListing : List TrainState :=
  [.unknown, .standstill, .engaging, .starting, .running, .stopping, .tripped, .locked]

/-- Running timers (TRAINS field 42). -/
def timerListing : List (Option TrainTimer) := [none, some .engage, some .start, some .stop]

/-- Origins ADMITTED 0, SCHEDULE 1, RESERVE 2, SEQUENCER 3 (section 1.10). -/
def originListing : List Origin := [.admitted, .schedule, .reserve, .sequencer]

/-- Selection conditions (CAVERNS field 16). -/
def conditionListing : List Condition := [.agreed, .disagreed, .single, .blind]

/-- Store conditions (STORES field 16). -/
def storeConditionListing : List StoreCondition := [.good, .degraded, .blind]

/-- Slot states (slots field 1). -/
def slotStateListing : List SlotState := [.free, .provisional, .firm, .active, .closed]

/-- Last outcomes of the activation record (field 9). -/
def outcomeListing : List LastOutcome :=
  [.none, .accepted, .limited, .ended, .refusedUnsynchronised, .refusedGate, .refusedKind]

/-- Formats (SCAN field 3). -/
def formatListing : List ScanFormat := [.u16, .s16, .s24]

/-- Destination kinds (SCAN field 6). -/
def destListing : List DestKind := [.none, .cavernA, .cavernB, .layer]

/-- Point qualities (points field 1). -/
def qualityListing : List Quality := [.good, .suspect, .bad]

/-- Last results of a point (points field 4). -/
def resultListing : List PointResult := [.none, .ok, .noAck, .arbLost, .hung]

/-- Bus states (bus field 0). -/
def busStateListing : List BusState := [.idle, .scanActive, .mgmtActive, .recovering, .failed]

/-- Categories (section 10.1, codes 0 to 9). -/
def categoryListing : List Category :=
  [.admission, .sequence, .envelope, .heat, .schedule, .reserve, .time, .bus, .station, .form]

/-! ### Values to fields -/

/-- The value an absent optional field travels as (section 1.10). -/
def absent : Word := 0xFFFFFFFF

/-- A number in a 32-bit field: two's complement where negative; a number of neither the signed nor the
unsigned format is a free value (log entry 5). -/
def num (i : Int) : Word :=
  if -2147483648 ≤ i ∧ i ≤ 4294967295 then BitVec.ofInt 32 i else Config.overflow32 i

/-- A natural number in a 32-bit field. -/
def nat (n : Nat) : Word := num n

/-- A flag. -/
def flag (b : Bool) : Word := if b then 1 else 0

/-- An optional number. -/
def optNum {α : Type} (f : α → Word) : Option α → Word
  | none => absent
  | some a => f a

/-- An enumerated value. -/
def code {α : Type} [DecidableEq α] (listing : List α) (x : α) : Word := nat (codeOf listing x)

/-- A set of at most 32 members as its bits. -/
def bits {n : Nat} (s : BitVec n) : Word := s.setWidth 32

/-- The two fields a set of causes travels as (section 10.1). -/
def causeLow (s : BitVec 61) : Word := s.setWidth 32

/-- Codes 32 to 60 of a set of causes. -/
def causeHigh (s : BitVec 61) : Word := (s.extractLsb' 32 29).setWidth 32

/-- The set of causes two fields name; bits beyond code 60 name none. -/
def causeSet (low high : Word) : BitVec 61 := (high.setWidth 29) ++ low

/-! ### Fields to values -/

/-- A number brought to the nearer end of its range (00_scope, Legalised). -/
def clampInt (lo hi x : Int) : Int := if x < lo then lo else if hi < x then hi else x

/-- A numeric field, read as a signed number and legalised (log entry 15). -/
def legalInt (lo hi : Int) (w : Word) : Int := clampInt lo hi w.toInt

/-- A numeric field of a range of natural numbers, legalised. -/
def legalNat (lo hi : Nat) (w : Word) : Nat := (legalInt lo hi w).toNat

/-- A flag: 0 or 1. -/
def readFlag (w : Word) : Option Bool := if w = 0 then some false else if w = 1 then some true else none

/-- A number that names an entry: refused above its table (log entry 15). -/
def readIndex (n : Nat) (w : Word) : Option (Fin n) := if h : w.toNat < n then some ⟨w.toNat, h⟩ else none

/-- An entry index or absent. -/
def readOptIndex (n : Nat) (w : Word) : Option (Option (Fin n)) :=
  if w = absent then some none else (readIndex n w).map some

/-- A set of at most `n` members: no bit beyond them. -/
def readSet (n : Nat) (w : Word) : Option (BitVec n) := if w.toNat < 2 ^ n then some (w.setWidth n) else none

/-- A station address or absent, the address legalised to 16 bits. -/
def readDest (w : Word) : Option HWord := if w = absent then none else some (BitVec.ofNat 16 (legalNat 0 65535 w))

/-! ### Items -/

/-- Item kind codes (section 1.10). -/
abbrev kPower : Byte := 0x01
abbrev kReactive : Byte := 0x02
abbrev kReheat : Byte := 0x03
abbrev kStart : Byte := 0x04
abbrev kStop : Byte := 0x05
abbrev kTrip : Byte := 0x06
abbrev kTripReset : Byte := 0x07
abbrev kAuto : Byte := 0x08
abbrev kManual : Byte := 0x09
abbrev kLock : Byte := 0x0A
abbrev kUnlock : Byte := 0x0B
abbrev kEngage : Byte := 0x0C
abbrev kField : Byte := 0x5F
abbrev kStatus : Byte := 0x60
abbrev kOutcome : Byte := 0x68

/-- Class codes (section 1.10). -/
abbrev cDispatch : Byte := 0x01
abbrev cDrive : Byte := 0x02
abbrev cPoll : Byte := 0x03
abbrev cReport : Byte := 0x04
abbrev cSchedule : Byte := 0x05
abbrev cActivation : Byte := 0x06
abbrev cTimemark : Byte := 0x07
abbrev cRollcall : Byte := 0x08
abbrev cRollcallReply : Byte := 0x09
abbrev cManage : Byte := 0x0A
abbrev cManageReply : Byte := 0x0B
abbrev cAdmitReply : Byte := 0x0C
abbrev cNotice : Byte := 0x0D
abbrev cSettlement : Byte := 0x0E

/-- The item kind code of a drive entry. -/
def driveCode : DriveKind → Byte
  | .power => kPower
  | .reactive => kReactive
  | .reheat => kReheat
  | .engage => kEngage
  | .start => kStart
  | .stop => kStop
  | .tripReset => kTripReset

/-- A FIELD item: entry index, field number, value. -/
def fieldItem (index : Nat) (number : Nat) (value : Word) : Item :=
  { kind := kField, refId := BitVec.ofNat 16 index, auxA := BitVec.ofNat 32 number, value := value }

/-- A FIELD item of a request, as the bytes of the telegram carry it. -/
def Field.toItem (f : Field) : Item := { kind := kField, refId := f.index, auxA := f.number, value := f.value }

/-- The FIELD items among the items after a request; items of other kinds are ignored (log entry 40). -/
def fieldsOf (items : List Item) : List Field :=
  items.filterMap fun i => if i.kind = kField then some { index := i.refId, number := i.auxA, value := i.value } else none

/-- Whether a reply is requested (header flags bit 0). -/
def wantsReply (h : Header) : Bool := h.flags.getLsbD 0

/-- The last item a reading accepts (R7: where a kind stands more than once, the last that counts as present). -/
def lastOf {α : Type} (f : Item → Option α) (items : List Item) : Option α := items.reverse.findSome? f

/-- The value of items of one kind. -/
def valueOf (k : Byte) (i : Item) : Option Word := if i.kind = k then some i.value else none

/-- What a REPORT hands on (R7): a RUN_STATE or MODE value that is no code counts as absent. -/
def readReport (items : List Item) : LastReport :=
  { runState := lastOf (fun i => (valueOf 0x20 i).bind (ofCode reportedListing)) items
    mode := lastOf (fun i => (valueOf 0x21 i).bind (ofCode modeListing)) items
    active := lastOf (valueOf 0x22) items
    reactive := lastOf (valueOf 0x23) items
    gen := lastOf (valueOf 0x24) items
    chg := lastOf (valueOf 0x25) items
    tripCause := lastOf (valueOf 0x26) items }

/-- A report laid over the last one: absent items keep their field (R66). -/
def LastReport.laidOver (old new : LastReport) : LastReport :=
  { runState := new.runState.or old.runState
    mode := new.mode.or old.mode
    active := new.active.or old.active
    reactive := new.reactive.or old.reactive
    gen := new.gen.or old.gen
    chg := new.chg.or old.chg
    tripCause := new.tripCause.or old.tripCause }

/-- Milliseconds of a number of seconds. -/
def seconds (n : Nat) : Nat := n * 1000

/-- Ages saturate at 0xFFFFFFFE (00_scope, section 3.1, 9.6). -/
def ageMax : Nat := 0xFFFFFFFE

end Sys2Proof.Machine
end

