-- ==== Sys2Proof/Machine/Ops.lean ====
section
/-! DEFINITION. The named operations over the state's tables, and what the link unit does with a frame handed to a
port (R1) and with a telegram the part originates (R9). -/

namespace Sys2Proof.Machine

/-- A fixed table with entry `i` replaced. -/
def upd {α : Type} {n : Nat} (v : Vector α n) (i : Fin n) (x : α) : Vector α n := v.set i.val x i.isLt

/-- A fixed table with entry `i` changed. -/
def modAt {α : Type} {n : Nat} (v : Vector α n) (i : Fin n) (f : α → α) : Vector α n := upd v i (f (v.get i))

/-! ### Sets of trains and of causes -/

/-- A member added. -/
def addBit {n : Nat} (s : BitVec n) (i : Nat) : BitVec n := s ||| BitVec.twoPow n i

/-- A member taken away. -/
def dropBit {n : Nat} (s : BitVec n) (i : Nat) : BitVec n := s &&& ~~~ (BitVec.twoPow n i)

/-- The trains of a set, in train number order. -/
def trainsOf (s : TrainSet) : List TrainId := (fins 6).filter fun t => s.getLsbD t.val

/-! ### Tables of the state -/

/-- Train record `t`. -/
def State.train (s : State) (t : TrainId) : Train := s.trains.get t

/-- Configuration of train `t`. -/
def State.cfg (s : State) (t : TrainId) : TrainCfg := (s.train t).cfg

/-- Running condition of train `t`. -/
def State.run (s : State) (t : TrainId) : TrainRun := (s.train t).run

/-- Train record `t` replaced. -/
def State.setTrain (s : State) (t : TrainId) (x : Train) : State := { s with trains := upd s.trains t x }

/-- The running condition of train `t` changed. -/
def State.modRun (s : State) (t : TrainId) (f : TrainRun → TrainRun) : State :=
  s.setTrain t { s.train t with run := f (s.run t) }

/-- STATIONS entry `i`. -/
def State.station (s : State) (i : StationId) : Station := s.stations.get i

/-- STATIONS entry `i` changed. -/
def State.modStation (s : State) (i : StationId) (f : Station → Station) : State :=
  { s with stations := modAt s.stations i f }

/-- Cavern record `c`. -/
def State.cavern (s : State) (c : CavernId) : Cavern := s.caverns.get c

/-- The running condition of cavern `c` changed. -/
def State.modCavern (s : State) (c : CavernId) (f : CavernRun → CavernRun) : State :=
  { s with caverns := modAt s.caverns c fun x => { x with run := f x.run } }

/-- Store record `h`. -/
def State.store (s : State) (h : StoreId) : Store := s.stores.get h

/-- The running condition of store `h` replaced. -/
def State.setStoreRun (s : State) (h : StoreId) (r : StoreRun) : State :=
  { s with stores := modAt s.stores h fun x => { x with run := r } }

/-- LAYERS entry `l`. -/
def State.layer (s : State) (l : LayerId) : Layer := s.layers.get l

/-- LAYERS entry `l` changed. -/
def State.modLayer (s : State) (l : LayerId) (f : Layer → Layer) : State := { s with layers := modAt s.layers l f }

/-- The queue changed. -/
def State.modQueue (s : State) (f : Queue → Queue) : State := { s with queue := f s.queue }

/-- The slot record at ring position `p` changed. -/
def State.modSlotAt (s : State) (p : Fin 48) (f : Slot → Slot) : State := { s with slots := modAt s.slots p f }

/-- The share of train `t` changed. -/
def State.modShare (s : State) (t : TrainId) (f : Share → Share) : State := { s with shares := modAt s.shares t f }

/-- Point record `i` changed. -/
def State.modPoint (s : State) (i : ScanId) (f : Point → Point) : State := { s with points := modAt s.points i f }

/-- Notice tier `k` changed. -/
def State.modTier (s : State) (k : TierId) (f : Tier → Tier) : State := { s with tiers := modAt s.tiers k f }

/-- The bus controller changed. -/
def State.modBus (s : State) (f : Bus → Bus) : State := { s with bus := f s.bus }

/-- The activation record changed. -/
def State.modAct (s : State) (f : Activation → Activation) : State := { s with act := f s.act }

/-- A stop request made, to be taken after the present event (R94, R117, R121). -/
def State.requestStop (s : State) (t : TrainId) (c : Cause) : State :=
  { s with stopRequests := s.stopRequests ++ [{ train := t, cause := c }] }

/-- The next free value's argument, and the state after reading it. -/
def State.takeFree (s : State) : Nat × State := (s.free, { s with free := s.free + 1 })

/-! ### Ports -/

/-- One of the two ports. -/
def State.port (s : State) : Port → PortState
  | .u => s.link.u
  | .d => s.link.d

/-- A port replaced. -/
def State.setPort (s : State) (p : Port) (x : PortState) : State :=
  match p with
  | .u => { s with link := { s.link with u := x } }
  | .d => { s with link := { s.link with d := x } }

/-- The other port. -/
def otherPort : Port → Port
  | .u => .d
  | .d => .u

/-- Places of a transmit queue (R1). -/
def txDepth : Nat := 64

/-- A frame handed to a port joins its transmit queue, unless the queue is full or the link is down (R1). -/
def enqueue (x : PortState) (f : Frame) : PortState :=
  if x.up && x.tx.length < txDepth then { x with tx := x.tx ++ [f] } else x

/-- R1: a frame handed to port `p`. -/
def State.hand (s : State) (p : Port) (f : Frame) : State := s.setPort p (enqueue (s.port p) f)

/-- The frame the part sends a telegram in (R9): broadcast, own Ethernet address, telegram type value, zero bytes
up to 46. -/
def ownFrame (part : Part) (cls : Byte) (dst seq : HWord) (items : List Item) : Frame :=
  { eth := { dst := 0xFFFFFFFFFFFF, src := part.ethHigh ++ part.ethLow }
    type := part.telegramType
    payload := .telegram
      { cls := cls
        hdr := { dst := dst, src := part.address, seq := seq, flags := 0 }
        items := items
        pad := List.replicate (46 - (12 + 24 * items.length)) 0 } }

/-- R9: an ADMIT_REPLY or MANAGE_REPLY, with the sequence of the telegram it answers. -/
def State.answer (s : State) (cls : Byte) (dst seq : HWord) (items : List Item) : State :=
  s.hand .u (ownFrame s.part cls dst seq items)

/-- R9: any other telegram, with the port's emission counter, which then advances. -/
def State.emit (s : State) (p : Port) (cls : Byte) (dst : HWord) (items : List Item) : State :=
  let x := s.port p
  (s.setPort p { x with counter := x.counter + 1 }).hand p (ownFrame s.part cls dst x.counter items)

/-! ### What several blocks read -/

/-- The ring position of a slot number (section 7.2). -/
def slotPos (n : Word) : Fin 48 := Fin.ofNat 48 n.toNat

/-- The record of the active slot changed; nothing while UNSYNCHRONISED. -/
def State.modActive (s : State) (f : Slot → Slot) : State :=
  match s.engine.active with
  | some a => s.modSlotAt (slotPos a) f
  | none => s

/-- The controller station of a train, as STATIONS holds it. -/
def State.controller (s : State) (t : TrainId) : Station := s.station (s.cfg t).controller

/-- Enrolment read live (R19). -/
def State.reachable (s : State) (t : TrainId) : Bool := (s.controller t).enrolment == .enrolled

/-- Configured trains whose controller station is entry `i`, in train number order. -/
def State.trainsBehind (s : State) (i : StationId) : List TrainId :=
  (fins 6).filter fun t => (s.cfg t).configured && (s.cfg t).controller == i

/-- Rated power for a mode; 0 for NONE. -/
def TrainCfg.rated (c : TrainCfg) : Mode → Nat
  | some .charge => c.ratedCharge
  | some .generate => c.ratedGenerate
  | none => 0

/-- Heat ratio for a run mode (R112). -/
def TrainCfg.heatRatio (c : TrainCfg) : RunMode → Nat
  | .generate => c.heatGenerate
  | .charge => c.heatCharge

/-- The modes a kind allows (R53, check 1). -/
def TrainKind.allows : TrainKind → RunMode → Bool
  | .compressor, .charge => true
  | .compressor, .generate => false
  | .expander, .generate => true
  | .expander, .charge => false
  | .reversible, _ => true

/-- The engaged mode a kind has at rest after a reset or a write of its kind (R47, R48). -/
def TrainKind.engagedAtReset : TrainKind → Mode
  | .compressor => some .charge
  | .expander => some .generate
  | .reversible => none

/-- The last-report counter for a run mode (R114). -/
def LastReport.counter (r : LastReport) : RunMode → Option Word
  | .generate => r.gen
  | .charge => r.chg

/-- The kind of reservation a run mode takes (R111). -/
def RunMode.heatKind : RunMode → HeatKind
  | .generate => .draw
  | .charge => .fill

/-- RUNNING and in AUTO. -/
def State.autoRunning (s : State) (t : TrainId) : Bool := (s.run t).state == .running && (s.run t).auto

/-- The lowest in-use scan entry that feeds a destination (R91, R109). -/
def State.pointFor (s : State) (k : DestKind) (index : Nat) : Option ScanId :=
  (fins 48).find? fun i =>
    let e := s.scan.get i
    e.inUse && e.destKind == k && e.destIndex == index

/-- Whether a scan entry's destination is in range (section 9.4). -/
def ScanEntry.inRange (e : ScanEntry) : Bool :=
  match e.destKind with
  | .none => true
  | .cavernA | .cavernB => e.destIndex ≤ 1
  | .layer => e.destIndex ≤ 63

end Sys2Proof.Machine
end

