-- ==== Sys2Proof/Machine/Flags.lean ====
section
/-! DEFINITION. The fault unit (chapter 10): recording a fault, the ring, routing over the tiers, the pending and
mask sets, and the NOTICE telegram. -/

namespace Sys2Proof.Machine

/-- What a raising block gives of a fault; each field absent where it gives none (R169). -/
structure FaultInfo where
  cause     : Cause
  category  : Option Category := none
  slot      : Option Word := none
  train     : Option TrainId := none
  place     : Option Nat := none
  reference : Option Word := none
  duty      : Option DutyId := none
  station   : Option HWord := none
  seq       : Option HWord := none
  kind      : Option Byte := none
  detail    : Option Word := none
  tag       : Option HWord := none
  act       : Option Word := none
  deriving DecidableEq, Repr

/-- Field 6 of a record for a cavern. -/
def cavernPlace (c : CavernId) : Nat := c.val

/-- Field 6 of a record for a store. -/
def storePlace (h : StoreId) : Nat := 16 + h.val

/-- Category of a cause (section 10.1). -/
def categoryOf (c : Cause) : Category :=
  if c.val ≤ 2 then .form
  else if c.val ≤ 22 then .admission
  else if c.val ≤ 33 then .sequence
  else if c.val ≤ 38 then .envelope
  else if c.val ≤ 41 then .heat
  else if c.val ≤ 46 then .schedule
  else if c.val ≤ 48 then .time
  else if c.val ≤ 50 then .reserve
  else if c.val ≤ 56 then .bus
  else .station

/-- Causes whose route is fixed SAFETY (section 10.1). -/
def fixedSafety (c : Cause) : Bool :=
  c == Cause.trip || c == Cause.tripLineActive || c == Cause.envelopeTrip || c == Cause.blindStop || c == Cause.busFailed

/-- Causes whose route is fixed DESK (section 10.1). -/
def fixedDesk (c : Cause) : Bool :=
  c == Cause.slotGateClosed || c == Cause.slotOutOfWindow || c == Cause.slotFull

/-- Causes with a fixed route. -/
def fixedRoute (c : Cause) : Bool := fixedSafety c || fixedDesk c

/-- Whole seconds elapsed in the active slot: the slot length minus the boundary time remaining, rounded down
(R133, R169). -/
def State.slotOffset (s : State) : Nat := (seconds s.part.slotLength - s.engine.boundary.getD 0) / 1000

/-- The record of a fault (R169). -/
def faultRecord (s : State) (f : FaultInfo) : FaultRecord :=
  { number := s.faults.counter
    cause := f.cause
    category := f.category.getD (categoryOf f.cause)
    slot := f.slot.or s.engine.active
    offset := s.engine.active.map fun _ => s.slotOffset
    train := f.train
    place := f.place
    reference := f.reference
    duty := f.duty
    station := f.station
    seq := f.seq
    kind := f.kind
    detail := f.detail
    tag := f.tag
    act := f.act }

/-- Places of the fault ring (R170). -/
def ringDepth : Nat := 32

/-- A record joins the ring; a full ring loses its oldest and the overwrite count rises, stopping at 65 535 (R170).
The record counter advances (R169). -/
def FaultLog.add (l : FaultLog) (r : FaultRecord) : FaultLog :=
  if l.ring.length < ringDepth then { l with ring := l.ring ++ [r], counter := l.counter + 1 }
  else
    { ring := l.ring.tail ++ [r]
      overwrites := if l.overwrites < 65535 then l.overwrites + 1 else 65535
      counter := l.counter + 1 }

/-- The tier codes SAFETY 0, PLANT 1, DESK 2. -/
abbrev tierSafety : TierId := 0
abbrev tierPlant : TierId := 1
abbrev tierDesk : TierId := 2

/-- The tier a route names (R172). -/
def Route.tier (r : Route) : TierId := if r.plant then (if r.desk then tierDesk else tierPlant) else tierSafety

/-- The destination setting of a tier. -/
def Part.dest (p : Part) : TierId → Option HWord
  | 0 => p.safetyDest
  | 1 => p.plantDest
  | _ => p.deskDest

/-- The reference field of a record: reference kind code × 65 536 + reference id. -/
def referenceWord (kind : Byte) (id : HWord) : Word := (kind.setWidth 16) ++ id

/-- The station address of an entry that is in use with role DESK (R144, R172). -/
def State.deskAddress (s : State) (i : StationId) : Option HWord :=
  let e := s.station i
  if e.inUse && e.role == .desk then some e.address else none

/-- The desk of the position a record refers to, where that desk is a DESK station (R172). -/
def State.positionDesk (s : State) (reference : Option Word) : Option HWord :=
  reference.bind fun w =>
    if w.extractLsb' 16 16 = 3 then
      if h : (w.extractLsb' 0 16).toNat < 128 then (s.positions.get ⟨_, h⟩).desk.bind s.deskAddress else none
    else none

/-- Where a NOTICE on a tier goes (R172). -/
def State.noticeDest (s : State) (k : TierId) (r : FaultRecord) : Option HWord :=
  if k = tierDesk then (s.positionDesk r.reference).or s.part.deskDest else s.part.dest k

/-- The fields of a record as a read gives them: number and value, absent where the record has none. -/
def FaultRecord.fields (r : FaultRecord) : List (Nat × Option Word) :=
  [ (0, some r.number), (1, some (nat r.cause.val)), (2, some (code categoryListing r.category)), (3, r.slot),
    (4, r.offset.map nat), (5, r.train.map fun t => nat t.val), (6, r.place.map nat), (7, r.reference),
    (8, r.duty.map fun u => nat u.val), (9, r.station.map fun a => a.setWidth 32),
    (10, r.seq.map fun a => a.setWidth 32), (11, r.kind.map fun k => k.setWidth 32), (12, r.detail),
    (13, r.tag.map fun a => a.setWidth 32), (14, r.act) ]

/-- The items of a NOTICE: tier code, carried count, then one per present field, at most 16 in all (R174). -/
def noticeItems (k : TierId) (carried : Nat) (r : FaultRecord) : List Item :=
  (fieldItem 0 16 (nat k.val) :: fieldItem 0 17 (nat carried)
    :: r.fields.filterMap fun (n, v) => v.map (fieldItem 0 n)).take 16

/-- Counts of a tier stop at 255. -/
def count255 (n : Nat) : Nat := if n < 255 then n else 255

/-- R173: what a fault does to its tier and whether it calls for a NOTICE. -/
def State.notify (s : State) (k : TierId) (r : FaultRecord) : State :=
  let t := s.tiers.get k
  let c := r.cause
  if t.pending.getLsbD c.val then
    s.modTier k fun t => { t with suppressed := modAt t.suppressed c fun n => count255 (n + 1) }
  else
    let s1 := s.modTier k fun t => { t with pending := addBit t.pending c.val }
    if t.mask.getLsbD c.val then s1
    else
      match s.noticeDest k r with
      | none => s1
      | some dst =>
        (s1.modTier k fun t => { t with carried := upd t.carried c 0 }).emit .u cNotice dst
          (noticeItems k (t.carried.get c) r)

/-- R169: a fault raised by a block is recorded, routed, and notified. -/
def State.raise (s : State) (f : FaultInfo) : State :=
  let r := faultRecord s f
  ({ s with faults := s.faults.add r }).notify (s.routes.get f.cause).tier r

end Sys2Proof.Machine
end

