-- ==== Sys2Proof/Machine/Translation.lean ====
section
/-! DEFINITION. The translation unit (sections 2.5, 2.6): the walk of POSITIONS and DUTIES, the translation cache
and the invalidations of a fence. -/

namespace Sys2Proof.Machine

/-- What a reference resolves to (R29, R31).  `duty` is the intermediate duty, `limit` absent for a TRAIN
reference. -/
structure Resolution where
  train : TrainId
  duty  : Option DutyId
  allow : AllowSet
  limit : Option Nat
  desk  : Option StationId
  deriving DecidableEq, Repr

/-- A resolution that failed: its cause, the stage-1 duty where stage 1 succeeded (R31, R44), and the train of a
result whose allow set lacks the needed direction (R136). -/
structure Failure where
  cause : Cause
  duty  : Option DutyId := none
  train : Option TrainId := none
  deriving DecidableEq, Repr

/-- Members of an allow set. -/
abbrev allowGenerate : Nat := 0
abbrev allowCharge : Nat := 1
abbrev allowReserve : Nat := 2

/-- The allow-set member a run mode needs (R33). -/
def RunMode.member : RunMode → Nat
  | .generate => allowGenerate
  | .charge => allowCharge

/-- R29: a TRAIN reference. -/
def resolveTrain (s : State) (id : Nat) : Except Failure Resolution :=
  if h : id < 6 then
    let t : TrainId := ⟨id, h⟩
    if (s.cfg t).configured then .ok { train := t, duty := none, allow := 7, limit := none, desk := none }
    else .error { cause := Cause.trainUnconfigured }
  else .error { cause := Cause.trainUnconfigured }

/-- R31: stage 2 of a walk, for duty `u`. -/
def walkDuty (s : State) (u : DutyId) : Except Cause Duty :=
  let d := s.duties.get u
  if !d.mapped then .error Cause.dutyUnused
  else if !(s.cfg d.train).configured then .error Cause.trainUnconfigured
  else .ok d

/-- R30, R31: a walk for a DUTY reference. -/
def walkFromDuty (s : State) (id : Nat) : Except Failure Resolution :=
  if h : id < 16 then
    match walkDuty s ⟨id, h⟩ with
    | .error c => .error { cause := c }
    | .ok d => .ok { train := d.train, duty := none, allow := d.allow, limit := some d.limit, desk := none }
  else .error { cause := Cause.dutyUnused }

/-- R30, R31: a walk for a POSITION reference. -/
def walkFromPosition (s : State) (id : Nat) : Except Failure Resolution :=
  if h : id < 128 then
    let p := s.positions.get ⟨id, h⟩
    match p.state with
    | .unused => .error { cause := Cause.positionUnused }
    | .null => .error { cause := Cause.positionNull }
    | .mapped =>
      match walkDuty s p.duty with
      | .error c =>
        .error { cause := c, duty := some p.duty }
      | .ok d =>
        .ok { train := d.train, duty := some p.duty, allow := d.allow &&& p.allow,
              limit := some (min p.limit d.limit), desk := p.desk }
  else .error { cause := Cause.positionUnused }

/-- R30: the walk of a DUTY or POSITION reference. -/
def walk (s : State) (isPosition : Bool) (id : Nat) : Except Failure Resolution :=
  if isPosition then walkFromPosition s id else walkFromDuty s id

/-! ### The cache -/

/-- The set a reference id falls in. -/
def cacheSet (id : Nat) : Fin 8 := Fin.ofNat 8 id

/-- The entry index of a way: set × 2 + way. -/
def cacheIndex (set : Fin 8) (way1 : Bool) : Fin 16 := ⟨set.val * 2 + (if way1 then 1 else 0), by split <;> omega⟩

/-- Whether an entry is a hit for a key (R35). -/
def CacheEntry.hits (e : CacheEntry) (isPosition : Bool) (id : Nat) : Bool :=
  e.valid && e.isPosition == isPosition && e.key == id

/-- The way that holds a key, if one does. -/
def cacheFind (s : State) (isPosition : Bool) (id : Nat) : Option Bool :=
  [false, true].find? fun w => (s.cache.get (cacheIndex (cacheSet id) w)).hits isPosition id

/-- The way a fill takes (R36): way 0 while invalid, then way 1, else the way the LRU indicator names. -/
def fillWay (s : State) (set : Fin 8) : Bool :=
  if !(s.cache.get (cacheIndex set false)).valid then false
  else if !(s.cache.get (cacheIndex set true)).valid then true
  else s.lru.get set

/-- The entry a successful walk fills (R36). -/
def filledEntry (isPosition : Bool) (id : Nat) (r : Resolution) : CacheEntry :=
  { valid := true, isPosition := isPosition, key := id, duty := r.duty, train := r.train, allow := r.allow,
    limit := r.limit.getD 0, desk := r.desk }

/-- The result a cache entry stands for. -/
def CacheEntry.result (e : CacheEntry) : Resolution :=
  { train := e.train, duty := e.duty, allow := e.allow, limit := some e.limit, desk := e.desk }

/-- R35, R36: a resolution request for a DUTY or POSITION reference: a hit uses the stored result (its train
checked for being configured, R31), a miss walks and fills. -/
def State.lookup (s : State) (isPosition : Bool) (id : Nat) : State × Except Failure Resolution :=
  let set := cacheSet id
  match cacheFind s isPosition id with
  | some w =>
    let e := s.cache.get (cacheIndex set w)
    let s1 := { s with lru := upd s.lru set (!w) }
    if (s.cfg e.train).configured then (s1, .ok e.result)
    else (s1, .error { cause := Cause.trainUnconfigured, duty := e.duty })
  | none =>
    match walk s isPosition id with
    | .error f => (s, .error f)
    | .ok r =>
      let w := fillWay s set
      ({ s with cache := upd s.cache (cacheIndex set w) (filledEntry isPosition id r), lru := upd s.lru set (!w) }, .ok r)

/-- The entries a predicate names become invalid; their other fields and the LRU indicators stay (R37). -/
def State.invalidate (s : State) (p : CacheEntry → Bool) : State :=
  { s with cache := tabMap (fun e => if e.valid && p e then { e with valid := false } else e) s.cache }

/-- R37, R38: every entry. -/
def State.fenceAll (s : State) : State := s.invalidate fun _ => true

/-- R37: POSITION p. -/
def State.fencePosition (s : State) (p : Nat) : State := s.invalidate fun e => e.isPosition && e.key == p

/-- R37: DESK d. -/
def State.fenceDesk (s : State) (d : Nat) : State :=
  s.invalidate fun e => e.isPosition && e.desk.any fun i => i.val == d

/-- R37: DUTY u. -/
def State.fenceDuty (s : State) (u : Nat) : State :=
  s.invalidate fun e => (!e.isPosition && e.key == u) || (e.isPosition && e.duty.any fun i => i.val == u)

/-- R136, R148: a commitment resolved without a desk context; the needed direction (none for power 0) must stand in
the allow set. -/
def State.resolveCommit (s : State) (c : Commit) (need : Option Nat) : State × Except Failure Resolution :=
  match s.lookup true c.position.val with
  | (s1, .error f) => (s1, .error f)
  | (s1, .ok r) =>
    match need with
    | some m =>
      if r.allow.getLsbD m then (s1, .ok r)
      else (s1, .error { cause := Cause.positionDenied, duty := r.duty, train := some r.train })
    | none => (s1, .ok r)

end Sys2Proof.Machine
end

