-- ==== Sys2Proof/Machine/Queue.lean ====
section
/-! DEFINITION. The drive queue (chapter 4): offers, merging, command placement, refill, pacing and departure,
flushes, held polls. -/

namespace Sys2Proof.Machine

/-- Places of the queue. -/
def queueDepth : Nat := 16
/-- Occupied places from which an ADMITTED offer finds no new place (R73). -/
def admittedDepth : Nat := 12
/-- Places of the poll hold list. -/
def pollDepth : Nat := 4

/-- Quantity kinds. -/
def DriveKind.isQuantity : DriveKind → Bool
  | .power | .reactive | .reheat => true
  | _ => false

/-- Entries of a train waiting in the queue. -/
def Queue.entriesOf (q : Queue) (t : TrainId) : List Entry := q.entries.filter fun e => e.train == t

/-- A train's entries ahead of a poll placed at stamp `n` (R85, R86): its queue entries and its held command that
were placed before the poll. -/
def Queue.ahead (q : Queue) (t : TrainId) (n : Nat) : Nat :=
  ((q.entriesOf t).filter fun e => e.stamp < n).length
    + (match q.holds.get t with
       | some e => if e.stamp < n then 1 else 0
       | none => 0)

/-! ### Sending -/

/-- R78: the pacing timer of a train starts with its pacing gap. -/
def State.startPacing (s : State) (t : TrainId) : State :=
  s.modQueue fun q => { q with pacing := upd q.pacing t (some (s.cfg t).pacingGap) }

/-- The item of a DRIVE telegram (R79): origin code in aux A, origin station and sequence in aux B and aux C, 0 where
absent, the clamped flag in item flag bit 0. -/
def driveItem (t : TrainId) (kind : Byte) (e : Entry) : Item :=
  { kind := kind, refKind := 1, refId := BitVec.ofNat 16 t.val, value := num e.value,
    auxA := code originListing e.origin, auxB := (e.station.getD 0).setWidth 32, auxC := (e.seq.getD 0).setWidth 32,
    flags := if e.clamped then 1 else 0, tag := e.tag }

/-- One DRIVE telegram to a train's controller station, after which its pacing timer starts (R78, R79). -/
def State.sendDrive (s : State) (t : TrainId) (kind : Byte) (e : Entry) : State :=
  (s.emit .d cDrive (s.controller t).address [driveItem t kind e]).startPacing t

/-- R80: a TRIP sent at once. -/
def State.sendTrip (s : State) (t : TrainId) (origin : Origin) (station seq : Option HWord) (tag : HWord) : State :=
  s.sendDrive t kTrip
    { train := t, kind := .stop, value := 0, origin := origin, station := station, seq := seq, tag := tag }

/-! ### Polls -/

/-- R88: polls handed to Port D in list order. -/
def State.handPolls (s : State) (ps : List HeldPoll) : State := ps.foldl (fun s p => s.hand .d p.frame) s

/-- R86, R88: every held poll with nothing ahead of it leaves. -/
def State.releasePolls (s : State) : State :=
  let q := s.queue
  (s.modQueue fun q => { q with polls := q.polls.filter fun p => q.ahead p.train p.stamp != 0 }).handPolls
    (q.polls.filter fun p => q.ahead p.train p.stamp == 0)

/-! ### Refill, departure -/

/-- R77, 1: the held command of train `t` moves in, if a place is free. -/
def Queue.refillHold (q : Queue) (t : TrainId) : Queue :=
  match q.holds.get t with
  | some e =>
    if q.entries.length < queueDepth then { q with entries := q.entries ++ [e], holds := upd q.holds t none } else q
  | none => q

/-- R77, 2: the pending dispatch of train `t` moves in, if a place is free. -/
def Queue.refillPending (q : Queue) (t : TrainId) : Queue :=
  match q.pendings.get t with
  | some p =>
    if q.entries.length < queueDepth then
      { q with
        entries := q.entries ++ [{ train := t, kind := .power, value := p.value, origin := p.origin,
                                   clamped := p.clamped, stamp := q.stamp }]
        pendings := upd q.pendings t none
        stamp := q.stamp + 1 }
    else q
  | none => q

/-- R77: refill, command holds first, each in train number order. -/
def Queue.refill (q : Queue) : Queue := (fins 6).foldl Queue.refillPending ((fins 6).foldl Queue.refillHold q)

/-- R79: eligibility. -/
def State.eligible (s : State) (t : TrainId) : Bool := (s.queue.pacing.get t).isNone && s.reachable t

/-- R79: the oldest entry whose train is eligible leaves. -/
def State.departOne (s : State) : Option State :=
  match s.queue.entries.find? fun e => s.eligible e.train with
  | none => none
  | some e =>
    some (((s.modQueue fun q => { q with entries := q.entries.erase e }).sendDrive e.train (driveCode e.kind) e))

/-- Refill and departures, repeated until neither does anything more (R77, R79).  Each departure makes one train
ineligible until its pacing timer expires, so `n` = 7 rounds suffice for six trains. -/
def State.drain : Nat → State → State
  | 0, s => s
  | n + 1, s =>
    let s1 := s.modQueue Queue.refill
    match s1.departOne with
    | none => s1
    | some s2 => State.drain n s2

/-- What follows at the end of every change of the queue: the polls that removals released (R82), refill and departures,
then the polls that departures released (R86), each in list order (R88). -/
def State.settle (s : State) : State := (s.releasePolls.drain 7).releasePolls

/-- The end of an event that found the state `s` and may have taken trains out of the queue: settled once, where the queue
has changed (R77, R82, R88). -/
def State.settleSince (u s : State) : State := if u.queue = s.queue then u else u.settle

/-- R88: an event `f` that takes several trains one after another: the polls it releases, those with something ahead
before it and nothing after it, are handed over at its end in list order. -/
def State.pollsLast (s : State) (f : State → State) : State :=
  let u := f (s.modQueue fun q => { q with polls := [] })
  let gone (p : HeldPoll) : Bool := s.queue.ahead p.train p.stamp != 0 && u.queue.ahead p.train p.stamp == 0
  (u.modQueue fun q => { q with polls := s.queue.polls.filter fun p => !gone p }).handPolls (s.queue.polls.filter gone)

/-! ### Offers of quantities (R71 to R74, R76) -/

/-- A quantity offered. -/
structure Offer where
  train   : TrainId
  kind    : DriveKind
  value   : Int
  origin  : Origin
  station : Option HWord := none
  seq     : Option HWord := none
  tag     : HWord := 0
  clamped : Bool := false
  deriving DecidableEq, Repr

/-- The four answers of R71. -/
inductive Answer where
  | new
  | merged
  | pending
  | refused (c : Cause)
  deriving DecidableEq, Repr

/-- The entry an offer makes. -/
def Offer.entry (o : Offer) (stamp : Nat) : Entry :=
  { train := o.train, kind := o.kind, value := o.value, origin := o.origin, station := o.station, seq := o.seq,
    tag := o.tag, clamped := o.clamped, stamp := stamp }

/-- R72: an entry an offer merges into; it keeps its place and its count rises, stopping at 255. -/
def Entry.merge (e : Entry) (o : Offer) : Entry :=
  { e with value := o.value, origin := o.origin, station := o.station, seq := o.seq, tag := o.tag,
           clamped := o.clamped, merges := count255 (e.merges + 1) }

/-- R76: the set value of the quantity placed. -/
def TrainRun.place (r : TrainRun) (k : DriveKind) (v : Int) : TrainRun :=
  match k with
  | .power => { r with power := v.natAbs }
  | .reactive => { r with reactive := v }
  | .reheat => { r with reheat := v }
  | _ => r

/-- Whether an entry is the train's queued entry of a quantity. -/
def Offer.matches (o : Offer) (e : Entry) : Bool := e.train == o.train && e.kind == o.kind

/-- R73: a new tail entry; a POWER entry discards the train's pending dispatch. -/
def Queue.append (q : Queue) (o : Offer) : Queue :=
  { q with
    entries := q.entries ++ [o.entry q.stamp]
    pendings := if o.kind = .power then upd q.pendings o.train none else q.pendings
    stamp := q.stamp + 1 }

/-- R71 to R74, R76: an offer placed, before departures. -/
def State.placeOffer (s : State) (o : Offer) : State × Answer :=
  if (s.run o.train).state ≠ .running then (s, .refused Cause.trainState)
  else if !s.gateOpen then (s, .refused Cause.gateClosed)
  else
    let placed := s.modRun o.train fun r => r.place o.kind o.value
    if s.queue.entries.any o.matches then
      (placed.modQueue fun q => { q with entries := q.entries.map fun e => if o.matches e then e.merge o else e },
       .merged)
    else if o.origin = .admitted then
      if s.queue.entries.length < admittedDepth then (placed.modQueue fun q => q.append o, .new)
      else (s, .refused Cause.queueFull)
    else if s.queue.entries.length < queueDepth then (placed.modQueue fun q => q.append o, .new)
    else
      (placed.modQueue fun q =>
          { q with pendings := upd q.pendings o.train
                     (some { value := o.value.natAbs, origin := o.origin, clamped := o.clamped }) },
       .pending)

/-- R71: an offer taken whole: placed, then what may depart departs. -/
def State.offer (s : State) (o : Offer) : State × Answer :=
  let r := s.placeOffer o
  (r.1.settle, r.2)

/-! ### Commands (R50, R75) -/

/-- R50, R75: a train's waiting command withdrawn. -/
def State.withdraw (s : State) (t : TrainId) : State :=
  s.modQueue fun q =>
    { q with
      entries := q.entries.filter fun e => !(e.train == t && !e.kind.isQuantity)
      holds := upd q.holds t none }

/-- R55, R63: a train's waiting command of one kind withdrawn. -/
def State.withdrawKind (s : State) (t : TrainId) (k : DriveKind) : State :=
  s.modQueue fun q =>
    { q with
      entries := q.entries.filter fun e => !(e.train == t && e.kind == k)
      holds := match q.holds.get t with
        | some e => if e.kind = k then upd q.holds t none else q.holds
        | none => q.holds }

/-- The item fields a command placed for an ADMITTED request carries (R75). -/
structure ItemRef where
  station : HWord
  seq     : HWord
  tag     : HWord
  deriving DecidableEq, Repr

/-- R75: a command placed after the withdrawal; true where it went to the command hold. -/
def State.placeCommand (s : State) (t : TrainId) (k : DriveKind) (value : Int) (ref : Option ItemRef) : State × Bool :=
  let s1 := s.withdraw t
  let e : Entry :=
    { train := t, kind := k, value := value, origin := .sequencer, station := ref.map (·.station),
      seq := ref.map (·.seq), tag := (ref.map (·.tag)).getD 0, stamp := s1.queue.stamp }
  if s1.queue.entries.length < queueDepth then
    (s1.modQueue fun q => { q with entries := q.entries ++ [e], stamp := q.stamp + 1 }, false)
  else (s1.modQueue fun q => { q with holds := upd q.holds t (some e), stamp := q.stamp + 1 }, true)

/-! ### Flushes (R81 to R84) -/

/-- R81: a train's quantity entries and pending dispatch removed. -/
def State.dropQuantities (s : State) (t : TrainId) : State :=
  s.modQueue fun q =>
    { q with
      entries := q.entries.filter fun e => !(e.train == t && e.kind.isQuantity)
      pendings := upd q.pendings t none }

/-- R82, R83: every entry of a train removed: queue, command hold, pending dispatch.  The polls this releases and the
refill follow at the end of the event (`State.settle`). -/
def State.dropTrain (s : State) (t : TrainId) : State :=
  s.modQueue fun q =>
    { q with
      entries := q.entries.filter fun e => !(e.train == t)
      holds := upd q.holds t none
      pendings := upd q.pendings t none }

/-- R84: CLOSE_GATE: quantities and pending dispatches go, every held poll is handed to Port D, refill follows. -/
def State.flushGate (s : State) : State :=
  let ps := s.queue.polls
  ((s.modQueue fun q =>
      { q with entries := q.entries.filter (fun e => !e.kind.isQuantity)
               pendings := Vector.replicate 6 none
               polls := [] }).handPolls ps).settle

/-! ### Polls taken (R85) -/

/-- R46: the ADMIT_REPLY to a refused POLL. -/
def pollRefusal (t : TrainId) : Item :=
  { kind := kOutcome, refKind := 1, refId := BitVec.ofNat 16 t.val, value := 0, auxA := 5,
    auxB := nat (Cause.pollHoldFull).val }

/-- R85: a POLL for train `t`. -/
def State.takePoll (s : State) (t : TrainId) (frame : Frame) (src seq : HWord) : State :=
  if (s.queue.entriesOf t).isEmpty && (s.queue.holds.get t).isNone then s.hand .d frame
  else if s.queue.polls.length < pollDepth then
    s.modQueue fun q =>
      { q with polls := q.polls ++ [{ train := t, frame := frame, src := src, seq := seq, stamp := q.stamp }]
               stamp := q.stamp + 1 }
  else
    (s.raise { cause := Cause.pollHoldFull, train := some t, station := some src, seq := some seq }).answer
      cAdmitReply src seq [pollRefusal t]

/-- R79: a pacing timer expires: it becomes IDLE and what may depart departs. -/
def State.expirePacing (s : State) (t : TrainId) : State :=
  (s.modQueue fun q => { q with pacing := upd q.pacing t none }).settle

end Sys2Proof.Machine
end

