-- ==== Sys2Proof/Machine/Envelope.lean ====
section
/-! DEFINITION. What the cavern envelope unit answers other blocks (sections 5.2, 5.5 to 5.7): usable transmitters,
the cap on a POWER value, start permission, direction claims. -/

namespace Sys2Proof.Machine

/-- Whether a point's last success lies no further back than a staleness limit (R91, R109); at the limit itself, until
its staleness timer has expired there (log entry 29). -/
def fresh (p : Point) (limitSeconds : Nat) : Bool :=
  p.age.any fun a => a < seconds limitSeconds || (a == seconds limitSeconds && p.staleAt != some a)

/-- A staleness timer of a point expires with `left` milliseconds to go: its last success then lies the timer's whole run
back (R91, R109; log entry 30). -/
def Point.expire (p : Point) (left : Nat) : Point :=
  let a := p.age.map fun a => min (a + left) ageMax
  { p with age := a, staleAt := a }

/-- Quality GOOD or SUSPECT with a value. -/
def Point.readable (p : Point) : Bool := p.quality != .bad

/-- The destination kind of a transmitter. -/
def transmitterDest : Transmitter → DestKind
  | .a => .cavernA
  | .b => .cavernB

/-- A transmitter's staleness timer. -/
def CavernRun.stale (r : CavernRun) : Transmitter → Option Nat
  | .a => r.staleA
  | .b => r.staleB

/-- A transmitter's staleness timer set. -/
def CavernRun.setStale (r : CavernRun) (x : Transmitter) (v : Option Nat) : CavernRun :=
  match x with
  | .a => { r with staleA := v }
  | .b => { r with staleB := v }

/-- R91: a cavern's transmitter point. -/
def State.cavernPoint (s : State) (c : CavernId) (x : Transmitter) : Option ScanId := s.pointFor (transmitterDest x) c.val

/-- R91: the value of a transmitter while it is usable. -/
def State.usablePressure (s : State) (c : CavernId) (x : Transmitter) : Option Int :=
  (s.cavernPoint c x).bind fun i =>
    let p := s.points.get i
    if p.readable && fresh p (s.cavern c).cfg.staleness then p.value else none

/-! ### Bands (R96) -/

/-- BANDS index of band `b` of cavern `c`. -/
def bandIndex (c : CavernId) (b : Fin 8) : Fin 16 := ⟨c.val * 8 + b.val, by omega⟩

/-- The first band whose upper bound is at or above a pressure; the last band above all bounds. -/
def State.bandFor (s : State) (c : CavernId) (p : Int) : Fin 8 :=
  ((fins 8).find? fun b => decide (p ≤ ((s.bands.get (bandIndex c b)).bound : Int))).getD 7

/-- The charge or generate allowance of a band. -/
def Band.allowance (b : Band) : RunMode → Nat
  | .charge => b.charge
  | .generate => b.generate

/-- The band in force for a direction. -/
def CavernRun.band (r : CavernRun) : RunMode → Option (Fin 8)
  | .charge => r.chargeBand
  | .generate => r.generateBand

/-! ### Limits on POWER (R99) -/

/-- The allowance in force for the direction of a cavern; 0 where no band is in force. -/
def State.allowance (s : State) (c : CavernId) (d : RunMode) : Nat :=
  match (s.cavern c).run.band d with
  | some b => (s.bands.get (bandIndex c b)).allowance d
  | none => 0

/-- The POWER set values of the other holders. -/
def State.othersPower (s : State) (c : CavernId) (t : TrainId) : Nat :=
  (((trainsOf (s.cavern c).run.holders).filter fun u => u != t).map fun u => (s.run u).power).sum

/-- The bars of R99. -/
def CavernRun.barred (r : CavernRun) (d : RunMode) : Bool :=
  r.condition == .disagreed || (d == .charge && r.riseHold) || (d == .generate && r.fallHold)

/-- R99: the cap on a POWER value of a train. -/
def State.powerCap (s : State) (t : TrainId) : Nat :=
  let c := (s.cfg t).cavern
  let r := (s.cavern c).run
  let now := (s.run t).power
  if !r.holders.getLsbD t.val then 0
  else if r.condition = .blind then now
  else
    match r.direction with
    | none => 0
    | some d =>
      let remainder := s.allowance c d - s.othersPower c t
      if r.barred d then min remainder now else remainder

/-! ### Start permission (R101) -/

/-- R101: whether a cavern permits a start in a mode. -/
def State.permitsStart (s : State) (c : CavernId) (m : RunMode) : Bool :=
  let k := s.cavern c
  k.cfg.configured && (k.run.condition == .agreed || k.run.condition == .single) &&
    match m with
    | .charge => k.run.high.any fun p => decide (p < (k.cfg.maxOp : Int))
    | .generate => k.run.low.any fun p => decide ((k.cfg.minOp : Int) < p)

/-! ### Direction claims (R103, R104) -/

/-- R103: a claim for train `t` on its cavern in direction `m`; none where it is refused.  A grant on a cavern whose
blind timer has expired is followed by the stop request of R94. -/
def State.claim (s : State) (t : TrainId) (m : RunMode) : Option State :=
  let c := (s.cfg t).cavern
  let r := (s.cavern c).run
  let grant (s : State) : Option State :=
    some (if r.blindTimer = .expired then s.requestStop t Cause.blindStop else s)
  match r.direction with
  | none => grant (s.modCavern c fun r => { r with direction := some m, holders := addBit 0 t.val })
  | some d => if d = m then grant (s.modCavern c fun r => { r with holders := addBit r.holders t.val }) else none

/-- R104: a train removed from the holders of a cavern record. -/
def CavernRun.drop (r : CavernRun) (t : TrainId) : CavernRun :=
  let h := dropBit r.holders t.val
  { r with holders := h, direction := if h = 0 then none else r.direction }

/-- R104: a train removed from its cavern's holders. -/
def State.unclaim (s : State) (t : TrainId) : State :=
  let c := (s.cfg t).cavern
  if (s.cavern c).run.holders.getLsbD t.val then s.modCavern c fun r => r.drop t else s

end Sys2Proof.Machine
end

