-- ==== Sys2Proof/Machine/Heat.lean ====
section
/-! DEFINITION. The heat account unit (chapter 6): layers and stored heat, the reservation list, grants,
consumption, extension, trimming, release, the NEXT grants and the roll, the reheat limit. -/

namespace Sys2Proof.Machine

/-- Places of the reservation list. -/
def reservationDepth : Nat := 10

/-! ### Layers and the store's account (R109, R110) -/

/-- LAYERS index of layer `l` of store `h`. -/
def layerIndex (h : StoreId) (l : Fin 16) : LayerId := ⟨h.val * 16 + l.val, by omega⟩

/-- The store of a LAYERS index. -/
def layerStore (i : LayerId) : StoreId := ⟨i.val / 16, by omega⟩

/-- A layer's place within its store. -/
def layerPlace (i : LayerId) : Nat := i.val % 16

/-- The layers of a store below its layer count, layer 0 first. -/
def State.layersOf (s : State) (h : StoreId) : List LayerId :=
  ((fins 16).filter fun l => l.val < (s.store h).cfg.layerCount).map (layerIndex h)

/-- R109: whether a layer is usable now. -/
def State.layerUsable (s : State) (i : LayerId) : Bool :=
  let k := (s.store (layerStore i)).cfg
  k.configured && layerPlace i < k.layerCount &&
    (s.pointFor .layer i.val).any fun p =>
      (s.points.get p).readable && fresh (s.points.get p) k.staleness

/-- R110, 2: a layer's contribution, rounded down, 0 where negative or where it has no last temperature. -/
def Layer.heat (l : Layer) : Nat :=
  match l.last with
  | none => 0
  | some t => (Int.fdiv ((l.coefficient : Int) * (t - l.base)) 10).toNat

/-- R110, 5: the condition for `u` usable layers of `n`. -/
def storeConditionFor (n u : Nat) : StoreCondition :=
  if u = n then .good else if u < n ∧ n < 2 * u then .degraded else .blind

/-- Stored heat within the range of its field (log entry 6). -/
def storedHeat (sum : Nat) : Nat := if sum ≤ ageMax then sum else min (Config.storedHeatBeyondRange sum) ageMax

/-- R110, 1 to 5: a store's account worked out afresh; the contribution of a layer at or above the layer count stands (the
model's choice, log entry 49). -/
def State.account (s : State) (h : StoreId) : State :=
  let k := (s.store h).cfg
  let ls := s.layersOf h
  let s1 := ls.foldl (fun s i => s.modLayer i fun l => { l with contribution := l.heat }) s
  let stored := storedHeat ((ls.map fun i => (s.layer i).heat).sum)
  let usable := (ls.filter s.layerUsable).length
  s1.setStoreRun h
    { condition := storeConditionFor k.layerCount usable
      stored := stored
      reservable := stored - k.minReserve
      headroom := k.capacity - stored
      usable := usable }

/-! ### Amounts -/

/-- Remaining amount of a record. -/
def Reservation.remaining (r : Reservation) : Nat := r.granted - r.consumed

/-- Sum of the remaining amounts of a store's records of a kind (fields 21 and 22). -/
def State.reserved (s : State) (h : StoreId) (k : HeatKind) : Nat :=
  ((s.reservations.filter fun r => r.store == h && r.kind == k).map Reservation.remaining).sum

/-- The bound a kind is set aside against: reservable heat for DRAW, headroom for FILL. -/
def StoreRun.bound (r : StoreRun) : HeatKind → Nat
  | .draw => r.reservable
  | .fill => r.headroom

/-- R113: the heat available (fields 23 and 24). -/
def State.available (s : State) (h : StoreId) (k : HeatKind) : Nat := (s.store h).run.bound k - s.reserved h k

/-- A record replaced in the list, keeping its place. -/
def replaceRecord (l : List Reservation) (old new : Reservation) : List Reservation :=
  l.map fun r => if r = old then new else r

/-- The list of reservations changed. -/
def State.modReservations (s : State) (f : List Reservation → List Reservation) : State :=
  { s with reservations := f s.reservations }

/-- A train's record of a phase. -/
def State.recordOf (s : State) (t : TrainId) (p : Phase) : Option Reservation :=
  s.reservations.find? fun r => r.train == t && r.phase == p

/-- R119: a train's records removed. -/
def State.releaseHeat (s : State) (t : TrainId) : State :=
  s.modReservations fun l => l.filter fun r => !(r.train == t)

/-! ### Grants (R112 to R114) -/

/-- R112: the energy basis: the target's energy over a slot, or the default energy where there is none. -/
def State.energyBasis (s : State) (t : TrainId) (target : Option Int) : Nat :=
  let e := match target with
    | some x => x.natAbs * s.part.slotLength / 3600
    | none => 0
  if e = 0 then (s.cfg t).defaultEnergy else e

/-- R112: the amount asked of a store. -/
def grantAmount (basis ratio minGrant : Nat) : Nat := max (basis * ratio / 1000) minGrant

/-- A grant asked: train, run mode, phase, slot number, energy basis. -/
structure HeatAsk where
  train : TrainId
  mode  : RunMode
  phase : Phase
  slot  : Option Word
  basis : Nat
  deriving DecidableEq, Repr

/-- The record a grant makes (R114). -/
def State.grantRecord (s : State) (a : HeatAsk) (granted : Nat) : Reservation :=
  { train := a.train, store := (s.cfg a.train).store, kind := a.mode.heatKind, phase := a.phase, slot := a.slot,
    granted := granted, consumed := 0, basis := a.basis,
    counter := match a.phase with
      | .current => (s.run a.train).report.counter a.mode
      | .next => none }

/-- R110: a store whose stored heat exceeds its capacity makes no FILL grant. -/
def Store.overfull (k : Store) (kind : HeatKind) : Bool := kind == .fill && decide (k.cfg.capacity < k.run.stored)

/-- R112, R114: a grant decided; a heat ratio of 0 needs no record.  R110's refusal of a FILL grant on an overfull store
comes after R114's test 2 and has the cause HEAT_SHORT, and stored heat equal to the capacity is left to R114 (the model's
choice, log entry 49). -/
def State.grantHeat (s : State) (a : HeatAsk) : Except Cause State :=
  let h := (s.cfg a.train).store
  let k := s.store h
  let ratio := (s.cfg a.train).heatRatio a.mode
  let amount := grantAmount a.basis ratio k.cfg.minGrant
  let avail := s.available h a.mode.heatKind
  let made (n : Nat) : Except Cause State := .ok (s.modReservations fun l => l ++ [s.grantRecord a n])
  if ratio = 0 then .ok s
  else if !k.cfg.configured || k.run.condition == .blind then .error Cause.heatShort
  else if reservationDepth ≤ s.reservations.length then .error Cause.reservationFull
  else if k.overfull a.mode.heatKind then .error Cause.heatShort
  else if amount ≤ avail then made amount
  else if k.cfg.minGrant ≤ avail then made avail
  else .error Cause.heatShort

/-! ### Exhaustion, consumption (R115, R117) -/

/-- R117: an exhausted CURRENT record is extended, or its train is asked to stop with HEAT_EXHAUSTED. -/
def State.exhausted (s : State) (r : Reservation) : State :=
  let k := s.store r.store
  let x := k.cfg.quantum + (r.consumed - r.granted)
  if k.cfg.configured && k.run.condition != .blind && x ≤ s.available r.store r.kind then
    s.modReservations fun l => replaceRecord l r { r with granted := r.granted + x }
  else s.requestStop r.train Cause.heatExhausted

/-- R115, 1 to 3: a CURRENT record after a report; one without the record's counter item takes no consumption. -/
def Reservation.afterReport (r : Reservation) (rep : LastReport) (ratio : Nat) : Reservation :=
  match (match r.kind with | .draw => rep.gen | .fill => rep.chg), r.counter with
  | none, _ => r
  | some c, none => { r with counter := some c }
  | some c, some c0 => { r with consumed := (c - c0).toNat * ratio / 1000 }

/-- R115: consumption from a report just recorded for train `t`; `rep` holds the report's own items.  A RUNNING train's
record with nothing remaining after the update, also where it had nothing before, goes through R117. -/
def State.consume (s : State) (t : TrainId) (rep : LastReport) : State :=
  match s.recordOf t .current, (s.run t).mode with
  | some r, some m =>
    if (s.run t).state ≠ .running then s
    else
      let r1 := r.afterReport rep ((s.cfg t).heatRatio m)
      let s1 := s.modReservations fun l => replaceRecord l r r1
      if r1.remaining = 0 then s1.exhausted r1 else s1
  | _, _ => s

/-! ### Trimming (R118) -/

/-- HEAT_SHORTFALL for a record cut or removed. -/
def shortfall (r : Reservation) (amount : Nat) : FaultInfo :=
  { cause := Cause.heatShortfall, train := some r.train, place := some (storePlace r.store), slot := r.slot,
    detail := some (nat amount) }

/-- R118, 1 and 2: one record against what is left of the excess. -/
def State.trimOne (x : State × Nat) (r : Reservation) : State × Nat :=
  let (s, excess) := x
  if excess = 0 then (s, 0)
  else
    match r.phase with
    | .next =>
      if r.remaining ≤ excess then
        ((s.modReservations fun l => l.erase r).raise (shortfall r r.remaining), excess - r.remaining)
      else
        ((s.modReservations fun l =>
            replaceRecord l r { r with granted := r.consumed + (r.remaining - excess) }).raise (shortfall r excess), 0)
    | .current =>
      let cut := min excess r.remaining
      if cut = 0 then (s, excess)
      else
        ((s.modReservations fun l =>
            replaceRecord l r { r with granted := r.consumed + (r.remaining - cut) }).raise (shortfall r cut),
          excess - cut)

/-- A store's records of a kind and phase, newest first. -/
def State.newest (s : State) (h : StoreId) (k : HeatKind) (p : Phase) : List Reservation :=
  (s.reservations.filter fun r => r.store == h && r.kind == k && r.phase == p).reverse

/-- How far the sum of a kind lies above its bound. -/
def State.excess (s : State) (h : StoreId) (k : HeatKind) : Nat := s.reserved h k - (s.store h).run.bound k

/-- R118: one kind trimmed: NEXT records newest first, then CURRENT records newest first. -/
def State.trimKind (s : State) (h : StoreId) (k : HeatKind) : State :=
  ((s.newest h k .next ++ s.newest h k .current).foldl State.trimOne (s, s.excess h k)).1

/-- R118: the CURRENT records a trim left with nothing remaining go through R117, in list order. -/
def State.exhaustTrimmed (s : State) (h : StoreId) (trimmed : HeatKind → Bool) : State :=
  (s.reservations.filter fun r =>
      r.store == h && r.phase == .current && trimmed r.kind && r.remaining == 0).foldl State.exhausted s

/-- R118: the trim of a store after its account was worked out. -/
def State.trim (s : State) (h : StoreId) : State :=
  let exceeded (k : HeatKind) : Bool := 0 < s.excess h k
  ((s.trimKind h .draw).trimKind h .fill).exhaustTrimmed h exceeded

/-- R110, R118: a configured store recomputed. -/
def State.recomputeStore (s : State) (h : StoreId) : State :=
  if (s.store h).cfg.configured then (s.account h).trim h else s

/-! ### Across slots (R120, R121) -/

/-- R120: the NEXT request for a train; `target` is its target in the coming slot `n`. -/
def State.askNext (s : State) (t : TrainId) (n : Word) (target : Int) : State :=
  match (s.run t).mode, s.recordOf t .current, s.recordOf t .next with
  | some m, some r, none =>
    if r.slot.any fun k => n.toNat ≤ k.toNat then s
    else if (s.cfg t).heatRatio m = 0 then s
    else
      match s.grantHeat { train := t, mode := m, phase := .next, slot := some n, basis := s.energyBasis t (some target) } with
      | .ok s1 => s1
      | .error c => s.raise { cause := c, train := some t, place := some (storePlace (s.cfg t).store), slot := some n }
  | _, _, _ => s

/-- R121: a CURRENT grant at a roll; refused, the train is asked to stop with HEAT_SHORT. -/
def State.rollAsk (s : State) (t : TrainId) (m : RunMode) (n : Word) (target : Int) : State :=
  match s.grantHeat { train := t, mode := m, phase := .current, slot := some n, basis := s.energyBasis t (some target) } with
  | .ok s1 => s1
  | .error _ => s.requestStop t Cause.heatShort

/-- R121: the roll of a train to slot `n`. -/
def State.rollHeat (s : State) (t : TrainId) (n : Word) (target : Int) : State :=
  match (s.run t).mode with
  | none => s
  | some m =>
    match s.recordOf t .current with
    | some r =>
      if r.slot.any fun k => n.toNat ≤ k.toNat then s
      else
        let s1 := s.modReservations fun l => l.erase r
        match s.recordOf t .next with
        | some x =>
          s1.modReservations fun l =>
            replaceRecord l x { x with phase := .current, counter := (s.run t).report.counter m }
        | none => s1.rollAsk t m n target
    | none => if (s.cfg t).heatRatio m = 0 then s else s.rollAsk t m n target

/-! ### The reheat limit (R122) -/

/-- R122: the limit on a REHEAT value of a train, or none where the store is unconfigured or BLIND.  A first usable
layer with no last temperature, or none usable although the store was last found GOOD or DEGRADED, gives a free value
(log entry 10). -/
def State.reheatLimit (s : State) (t : TrainId) : State × Option Int :=
  let h := (s.cfg t).store
  let k := s.store h
  if !k.cfg.configured || k.run.condition == .blind then (s, none)
  else
    let approach : Int := (s.cfg t).reheatApproach
    match ((s.layersOf h).find? s.layerUsable).bind fun i => (s.layer i).last with
    | some x => (s, some (x - approach))
    | none => let (n, s1) := s.takeFree; (s1, some (Config.missingTemperature n - approach))

/-! ### Points handed to a store (R109) -/

/-- R109: a success written to a layer's point. -/
def State.layerSuccess (s : State) (i : LayerId) (v : Int) : State :=
  let k := (s.store (layerStore i)).cfg
  s.modLayer i fun l => { l with last := some v, stale := some (seconds k.staleness) }

/-- R109: a layer below its store's layer count makes its configured store recompute. -/
def State.layerChanged (s : State) (i : LayerId) : State :=
  if layerPlace i < (s.store (layerStore i)).cfg.layerCount then s.recomputeStore (layerStore i) else s

/-- R109: a layer's staleness timer expires; the point's last success then lies a staleness limit back (log entry
30).  A timer runs on where a SCAN write gives the layer another point or resets its point, and its expiry ages the point
read then (the model's choice, log entry 50). -/
def State.expireLayer (s : State) (i : LayerId) : State :=
  match (s.layer i).stale with
  | none => s
  | some left =>
    let s1 := s.modLayer i fun l => { l with stale := none }
    let s2 := match s1.pointFor .layer i.val with
      | some p => s1.modPoint p fun x => x.expire left
      | none => s1
    s2.layerChanged i

end Sys2Proof.Machine
end

