-- ==== Sys2Proof/Machine/Sequencer.lean ====
section
/-! DEFINITION. The train sequencer (chapter 3): entry to a state with the releases of R51, requests against states,
starts, stops, trips, reports, resynchronisation, and the expiries of a train's timers. -/

namespace Sys2Proof.Machine

/-! ### Faults of the sequencer (R49) -/

/-- No item fields: a fault of no admitted request. -/
def noItem : FaultInfo := { cause := Cause.trainState }

/-- A fault the sequencer raises for a train: its cause is the train's last cause (field 44). -/
def State.seqRaise (s : State) (t : TrainId) (f : FaultInfo) : State :=
  (s.modRun t fun r => { r with lastCause := some f.cause }).raise { f with train := some t }

/-- Item fields with a cause. -/
def FaultInfo.withCause (f : FaultInfo) (c : Cause) : FaultInfo := { f with cause := c }

/-- A trip's fault also carries the train's cavern (R61). -/
def State.tripInfo (s : State) (t : TrainId) (f : FaultInfo) (c : Cause) : FaultInfo :=
  { f with cause := c, place := some (cavernPlace (s.cfg t).cavern) }

/-! ### Entry to a state (R51) -/

/-- ENGAGING, STARTING, RUNNING: the states that hold reservations. -/
def TrainState.holdsHeat : TrainState → Bool
  | .engaging | .starting | .running => true
  | _ => false

/-- ENGAGING, STARTING, RUNNING, STOPPING: the states that hold a claim. -/
def TrainState.holdsClaim : TrainState → Bool
  | .engaging | .starting | .running | .stopping => true
  | _ => false

/-- States on whose entry the run mode becomes absent. -/
def TrainState.noRunMode : TrainState → Bool
  | .standstill | .tripped | .locked | .unknown => true
  | _ => false

/-- R51: a train enters a state: reservations, claim, quantities and set values, run mode; a configured train that
enters UNKNOWN marks the active slot PARTIAL_DATA (R145). -/
def State.enter (s : State) (t : TrainId) (new : TrainState) : State :=
  let old := (s.run t).state
  let s1 := if old.holdsHeat && !new.holdsHeat then s.releaseHeat t else s
  let s2 := if old.holdsClaim && !new.holdsClaim then s1.unclaim t else s1
  let s3 :=
    if old = .running ∧ new ≠ .running then
      (s2.dropQuantities t).modRun t fun r => { r with power := 0, reactive := 0, reheat := 0 }
    else s2
  let s4 := s3.modRun t fun r => { r with state := new, mode := if new.noRunMode then none else r.mode }
  if new = .unknown ∧ (s.cfg t).configured then
    s4.modActive fun x => { x with flags := { x.flags with partialData := true } }
  else s4

/-- A train's timer starts. -/
def State.startTimer (s : State) (t : TrainId) (k : TrainTimer) (n : Nat) : State :=
  s.modRun t fun r => { r with timer := some (k, seconds n) }

/-- A train's timer is cancelled. -/
def State.cancelTimer (s : State) (t : TrainId) : State := s.modRun t fun r => { r with timer := none }

/-- The engaged mode of a REVERSIBLE train set; that of another kind is fixed (R66). -/
def State.setEngaged (s : State) (t : TrainId) (m : Mode) : State :=
  if (s.cfg t).kind = .reversible then s.modRun t fun r => { r with engaged := m } else s

/-- The engaged mode taken from a report's MODE where present. -/
def State.engagedFrom (s : State) (t : TrainId) (rep : LastReport) : State :=
  match rep.mode with
  | some m => s.setEngaged t m
  | none => s

/-- R60: entry to STANDSTILL, or to LOCKED where the failures or the lock held call for it. -/
def State.enterRest (s : State) (t : TrainId) : State :=
  let r := s.run t
  if s.part.failureLimit ≤ r.failures then
    ((s.enter t .locked).modRun t fun r => { r with lock := true }).seqRaise t { cause := Cause.trainLocked }
  else if r.lock then s.enter t .locked
  else s.enter t .standstill

/-- R55, R56: a failed start counted, stopping at 7. -/
def State.countFailure (s : State) (t : TrainId) : State :=
  s.modRun t fun r => { r with failures := if r.failures < 7 then r.failures + 1 else 7 }

/-! ### Answers and requests -/

/-- The sequencer's answer to a request (R42, R49); `sent` names the fault a TRIP raised, if any. -/
inductive SeqAnswer where
  | refused (c : Cause)
  | queued
  | held
  | sent (raised : Option Cause)
  | accepted
  deriving DecidableEq, Repr

/-- What a request carries besides its train: the item fields for its faults, the fields its command takes, and for
origin SCHEDULE the slot number and the train's target in it where the slot has a record (R42, R53, R112). -/
structure Request where
  item     : FaultInfo := noItem
  ref      : Option ItemRef := none
  schedule : Option (Word × Option Int) := none
  deriving DecidableEq, Repr

/-- A refusal, raised once by the sequencer (R49). -/
def State.seqRefuse (s : State) (t : TrainId) (q : Request) (c : Cause) : State × SeqAnswer :=
  (s.seqRaise t (q.item.withCause c), .refused c)

/-- The answer of a placed command. -/
def placed (inHold : Bool) : SeqAnswer := if inHold then .held else .queued

/-- The code a mode command carries. -/
def RunMode.value : RunMode → Int
  | .charge => 1
  | .generate => 2

/-! ### Starting (R53, R54) -/

/-- R53: the checks of a START in order; the state with claim and reservation taken, or the first cause. -/
def State.startChecks (s : State) (t : TrainId) (m : RunMode) (q : Request) : Except Cause State :=
  let cfg := s.cfg t
  if (s.run t).state ≠ .standstill then .error Cause.trainState
  else if !cfg.kind.allows m then .error Cause.modeMismatch
  else if q.schedule.isSome && !s.reachable t then .error Cause.trainUnreachable
  else if s.ptrip then .error Cause.tripLineActive
  else if !s.gateOpen then .error Cause.gateClosed
  else if !s.permitsStart cfg.cavern m then .error Cause.envelopeStart
  else
    match s.claim t m with
    | none => .error Cause.directionConflict
    | some s1 =>
      s1.grantHeat
        { train := t, mode := m, phase := .current, slot := q.schedule.map (·.1),
          basis := s.energyBasis t (q.schedule.bind (·.2)) }

/-- R54: an accepted START, its command placed. -/
def State.startAccepted (s : State) (t : TrainId) (m : RunMode) (q : Request) : State × SeqAnswer :=
  let s1 := s.modRun t fun r => { r with mode := some m }
  if (s.run t).engaged = some m then
    let r := ((s1.enter t .starting).startTimer t .start (s.cfg t).startTimeout).placeCommand t .start m.value q.ref
    (r.1.settle, placed r.2)
  else
    let r := ((s1.enter t .engaging).startTimer t .engage (s.cfg t).engageTimeout).placeCommand t .engage m.value q.ref
    (r.1.settle, placed r.2)

/-- R52, R53: a START(m) request. -/
def State.requestStart (s : State) (t : TrainId) (m : RunMode) (q : Request) : State × SeqAnswer :=
  match s.startChecks t m q with
  | .error c => s.seqRefuse t q c
  | .ok s1 => s1.startAccepted t m q

/-! ### Stopping (R58) -/

/-- R55, R56, R58, R81: STOP placed, stop timer started, STOPPING. -/
def State.beginStop (s : State) (t : TrainId) (ref : Option ItemRef) : State × Bool :=
  let r := ((s.enter t .stopping).startTimer t .stop (s.cfg t).stopTimeout).placeCommand t .stop 0 ref
  (r.1.settle, r.2)

/-- R52, R58: a STOP request; a cause is raised once where the train's state changes. -/
def State.requestStopNow (s : State) (t : TrainId) (cause : Option Cause) (q : Request) : State × SeqAnswer :=
  match (s.run t).state with
  | .engaging | .starting | .running =>
    let r := s.beginStop t q.ref
    match cause with
    | some c => (r.1.seqRaise t { cause := c }, placed r.2)
    | none => (r.1, placed r.2)
  | .standstill | .stopping | .locked => (s, .accepted)
  | .unknown | .tripped => s.seqRefuse t q Cause.trainState

/-- R58: the oldest waiting stop request of the heat account unit or the cavern envelope unit is taken. -/
def State.takeStopRequest (s : State) : State :=
  match s.stopRequests with
  | [] => s
  | r :: rest => (State.requestStopNow { s with stopRequests := rest } r.train (some r.cause) {}).1

/-! ### Trips (R61, R62, R63) -/

/-- R61, actions 2, 4 and 5; action 3 and the refill are the settling at the end of the event (R82, R88). -/
def State.takeDown (s : State) (t : TrainId) : State :=
  (((s.dropTrain t).enter t .tripped).cancelTimer t).modRun t fun r => { r with reset := false }

/-- R61 with TRIP sent as origin SEQUENCER, to be settled at the end of the event. -/
def State.tripBySequencer (s : State) (t : TrainId) (f : FaultInfo) : State :=
  ((s.sendTrip t .sequencer none none 0).takeDown t).seqRaise t f

/-- R61 without TRIP sent: the controller told the part it had tripped. -/
def State.tripByReport (s : State) (t : TrainId) (rep : LastReport) : State :=
  (s.takeDown t).settle.seqRaise t { s.tripInfo t noItem Cause.trip with detail := rep.tripCause }

/-- R52, R61, R62: a TRIP request of the admission unit. -/
def State.requestTrip (s : State) (t : TrainId) (q : Request) : State × SeqAnswer :=
  let s1 := s.sendTrip t .admitted (q.ref.map (·.station)) (q.ref.map (·.seq)) ((q.ref.map (·.tag)).getD 0)
  if (s.run t).state.holdsClaim then
    ((s1.takeDown t).settle.seqRaise t (s.tripInfo t q.item Cause.trip), .sent (some Cause.trip))
  else (s1, .sent none)

/-- R102: a trip by the cavern envelope unit, with the tested pressure, to be settled at the end of the test. -/
def State.tripEnvelope (s : State) (t : TrainId) (pressure : Int) : State :=
  if (s.run t).state.holdsClaim then
    s.tripBySequencer t { s.tripInfo t noItem Cause.envelopeTrip with detail := some (num pressure) }
  else s

/-- R63: assertion of PTRIP at one train. -/
def State.ptripTrain (s : State) (t : TrainId) : State :=
  let s1 := s.modRun t fun r => { r with tripLine := true }
  if (s.cfg t).configured && (s.run t).state.holdsClaim then
    s1.tripBySequencer t (s.tripInfo t noItem Cause.tripLineActive)
  else if (s.run t).state = .tripped ∧ (s.run t).reset then
    (s1.withdrawKind t .tripReset).modRun t fun r => { r with reset := false }
  else s1

/-- R63: assertion of the filtered line: one event over the trains, taken in train number order (the model's choice, log
entry 49), settled at its end (R82, R88). -/
def State.assertPtrip (s : State) : State := ((fins 6).foldl State.ptripTrain { s with ptrip := true }).settle

/-- R63: deassertion of the filtered line: the trip line fields follow, no train changes state. -/
def State.deassertPtrip (s : State) : State :=
  { s with ptrip := false,
           trains := tabMap (fun x => { x with run := { x.run with tripLine := false } }) s.trains }

/-! ### The other requests (R52, R57, R60, R64, R65) -/

/-- R64: TRIP_RESET. -/
def State.requestReset (s : State) (t : TrainId) (q : Request) : State × SeqAnswer :=
  if (s.run t).state ≠ .tripped then s.seqRefuse t q Cause.trainState
  else if s.ptrip then s.seqRefuse t q Cause.tripLineActive
  else
    let r := (s.modRun t fun r => { r with reset := true }).placeCommand t .tripReset 0 q.ref
    (r.1.settle, placed r.2)

/-- R65: AUTO, MANUAL. -/
def State.requestControl (s : State) (t : TrainId) (auto : Bool) (q : Request) : State × SeqAnswer :=
  if (s.run t).state = .unknown then s.seqRefuse t q Cause.trainState
  else (s.modRun t fun r => { r with auto := auto }, .accepted)

/-- R60: LOCK. -/
def State.requestLock (s : State) (t : TrainId) (q : Request) : State × SeqAnswer :=
  match (s.run t).state with
  | .standstill => ((s.enter t .locked).modRun t fun r => { r with lock := true }, .accepted)
  | .locked => (s, .accepted)
  | _ => s.seqRefuse t q Cause.trainState

/-- R60: UNLOCK. -/
def State.requestUnlock (s : State) (t : TrainId) (q : Request) : State × SeqAnswer :=
  if (s.run t).state = .locked then
    ((s.modRun t fun r => { r with failures := 0, lock := false }).enter t .standstill, .accepted)
  else s.seqRefuse t q Cause.trainState

/-- R57: step J for a quantity: refused, or admitted with the fault it raised, if any. -/
def State.admitQuantity (s : State) (t : TrainId) (k : DriveKind) (level : Nat) (q : Request) :
    State × Except Cause (Option Cause) :=
  let refuse (c : Cause) := (s.seqRaise t (q.item.withCause c), Except.error c)
  let r := s.run t
  if r.state ≠ .running then refuse Cause.trainState
  else if k = .reheat ∧ r.mode = some .charge then refuse Cause.modeMismatch
  else if k = .power ∧ r.auto then
    if level = 0 then
      ((s.modRun t fun r => { r with auto := false }).seqRaise t (q.item.withCause Cause.override),
        .ok (some Cause.override))
    else refuse Cause.notManual
  else (s, .ok none)

/-! ### UNKNOWN and resynchronisation (R68, R69) -/

/-- R68: entry to UNKNOWN, to be settled at the end of the event. -/
def State.toUnknown (s : State) (t : TrainId) : State :=
  (((s.dropTrain t).enter t .unknown).cancelTimer t).modRun t fun r => { r with reset := false }

/-- R69: the mode a resynchronisation uses. -/
def State.resyncMode (s : State) (t : TrainId) (rep : LastReport) : Mode :=
  match (s.cfg t).kind with
  | .compressor => some .charge
  | .expander => some .generate
  | .reversible =>
    match rep.mode with
    | some (some m) => some m
    | _ => (s.run t).engaged

/-- R69: the POWER set value of a train found RUNNING: the reported ACTIVE value within 0 and the rated power. -/
def resyncPower (rep : LastReport) (rated : Nat) : Nat :=
  match rep.active with
  | some w => (clampInt 0 rated w.toInt).toNat
  | none => 0

/-- R69: the REACTIVE set value of a train found RUNNING. -/
def resyncReactive (rep : LastReport) (limit : Nat) : Int :=
  match rep.reactive with
  | some w => clampInt (-(limit : Int)) limit w.toInt
  | none => 0

/-- R69, fourth row: the claim held, RUNNING, and the CURRENT reservation of the default energy asked for. -/
def State.resyncRunning (s : State) (t : TrainId) (m : RunMode) (rep : LastReport) : State :=
  let s1 := (s.enter t .running).modRun t fun r =>
    { r with power := resyncPower rep ((s.cfg t).rated (some m)),
             reactive := resyncReactive rep (s.cfg t).reactiveLimit, reheat := 0 }
  match s1.grantHeat { train := t, mode := m, phase := .current, slot := none, basis := (s.cfg t).defaultEnergy } with
  | .ok s2 => s2
  | .error _ => (s1.beginStop t none).1.seqRaise t { cause := Cause.heatShort }

/-- R69, rows three and four: the three tests, then the claim and what follows it. -/
def State.resyncMoving (s : State) (t : TrainId) (rep : LastReport) (running : Bool) : State :=
  let used := s.resyncMode t rep
  let s1 := (s.modRun t fun r => { r with mode := used }).setEngaged t used
  let conflict := (s1.tripBySequencer t (s1.tripInfo t noItem Cause.resyncConflict)).settle
  match used with
  | none => conflict
  | some m =>
    if s.ptrip then (s1.tripBySequencer t (s1.tripInfo t noItem Cause.tripLineActive)).settle
    else
      match s1.claim t m with
      | none => conflict
      | some s2 => if running then s2.resyncRunning t m rep else (s2.beginStop t none).1

/-- R69: a report that resynchronises a train; at a standstill and a tripped report the engaged mode follows the report's
MODE (R66). -/
def State.resync (s : State) (t : TrainId) (rep : LastReport) : State :=
  match rep.runState with
  | none => s
  | some .standstill => (s.engagedFrom t rep).enterRest t
  | some .tripped => ((s.engagedFrom t rep).takeDown t).settle
  | some .synchronised => s.resyncMoving t rep true
  | some .engaging | some .starting | some .stopping => s.resyncMoving t rep false

/-! ### Reports (R55, R56, R59, R64, R66, R67) -/

/-- UNEXPECTED_REPORT. -/
def State.unexpected (s : State) (t : TrainId) : State := s.seqRaise t { cause := Cause.unexpectedReport }

/-- R55: a report in ENGAGING; where it moves the train, its MODE sets the engaged mode (R66). -/
def State.reportEngaging (s : State) (t : TrainId) (rep : LastReport) : State :=
  match rep.runState with
  | none | some .standstill | some .engaging =>
    match (s.run t).mode with
    | some m =>
      if rep.mode = some (some m) then
        ((((s.setEngaged t (some m)).enter t .starting).startTimer t .start (s.cfg t).startTimeout).placeCommand t
          .start m.value none).1.settle
      else s
    | none => s
  | some .starting | some .synchronised | some .stopping => ((s.engagedFrom t rep).beginStop t none).1.unexpected t
  | some .tripped => (s.engagedFrom t rep).tripByReport t rep

/-- R56: RUNNING, with the initial POWER of the minimum stable power.  Where the rated power is lower the value is reduced
to it, and the offer is not marked clamped (the model's choice, log entry 21). -/
def State.reachRunning (s : State) (t : TrainId) : State :=
  let s1 := ((s.enter t .running).cancelTimer t).modRun t fun r => { r with failures := 0 }
  (s1.offer { train := t, kind := .power,
              value := (min (s.cfg t).minStable ((s.cfg t).rated (s.run t).mode) : Nat), origin := .sequencer }).1

/-- R56: a report in STARTING. -/
def State.reportStarting (s : State) (t : TrainId) (rep : LastReport) : State :=
  match rep.runState with
  | some .synchronised => s.reachRunning t
  | some .stopping => (s.beginStop t none).1.unexpected t
  | some .tripped => s.tripByReport t rep
  | none | some .standstill | some .engaging | some .starting => s

/-- R67, notes 3 and 4: a report in RUNNING. -/
def State.reportRunning (s : State) (t : TrainId) (rep : LastReport) : State :=
  match rep.runState with
  | some .standstill => (s.enterRest t).settle.unexpected t
  | some .stopping => ((s.enter t .stopping).startTimer t .stop (s.cfg t).stopTimeout).settle.unexpected t
  | some .tripped => s.tripByReport t rep
  | none | some .engaging | some .starting | some .synchronised => s

/-- R59: a report in STOPPING; where it moves the train, its MODE sets the engaged mode (R66). -/
def State.reportStopping (s : State) (t : TrainId) (rep : LastReport) : State :=
  match rep.runState with
  | some .standstill => ((s.cancelTimer t).engagedFrom t rep).enterRest t
  | some .tripped => (s.engagedFrom t rep).tripByReport t rep
  | none | some .engaging | some .starting | some .synchronised | some .stopping => s

/-- R64: a report in TRIPPED. -/
def State.reportTripped (s : State) (t : TrainId) (rep : LastReport) : State :=
  if rep.runState = some .standstill ∧ (s.run t).reset then
    (s.modRun t fun r => { r with reset := false }).enterRest t
  else s

/-- R67, notes 1 and 2: a report in STANDSTILL. -/
def State.reportStandstill (s : State) (t : TrainId) (rep : LastReport) : State :=
  match rep.runState with
  | none | some .standstill => s
  | some .tripped => s.tripByReport t rep
  | some .engaging | some .starting | some .synchronised | some .stopping => (s.unexpected t).resync t rep

/-- R67, notes 2 and 5: a report in LOCKED. -/
def State.reportLocked (s : State) (t : TrainId) (rep : LastReport) : State :=
  match rep.runState with
  | none | some .standstill => s
  | some .tripped => s.tripByReport t rep
  | some .engaging | some .starting | some .synchronised | some .stopping =>
    (s.tripBySequencer t { cause := Cause.unexpectedReport }).settle

/-- R66: a report recorded: the items present, the age, and in STANDSTILL, LOCKED and TRIPPED the engaged mode of a
REVERSIBLE train. -/
def State.recordReport (s : State) (t : TrainId) (rep : LastReport) : State :=
  let st := (s.run t).state
  let s1 := s.modRun t fun r => { r with report := r.report.laidOver rep, age := some 0 }
  if st = .standstill ∨ st = .locked ∨ st = .tripped then s1.engagedFrom t rep else s1

/-- R67: the run state of a recorded report acted on. -/
def State.actOnReport (s : State) (t : TrainId) (rep : LastReport) : State :=
  match (s.run t).state with
  | .unknown => s.resync t rep
  | .standstill => s.reportStandstill t rep
  | .engaging => s.reportEngaging t rep
  | .starting => s.reportStarting t rep
  | .running => s.reportRunning t rep
  | .stopping => s.reportStopping t rep
  | .tripped => s.reportTripped t rep
  | .locked => s.reportLocked t rep

/-- R7, R66: a report read for a train: recorded, acted on, then handed to the heat account unit (R115). -/
def State.readReport (s : State) (rep : LastReport) (t : TrainId) : State :=
  ((s.recordReport t rep).actOnReport t rep).consume t rep

/-! ### Timers (R55, R56, R59) -/

/-- Whether a train's timer of a kind runs. -/
def State.timerRuns (s : State) (t : TrainId) (k : TrainTimer) : Bool :=
  match (s.run t).timer with
  | some (j, _) => j == k
  | none => false

/-- R55: expiry of the engage timer. -/
def State.expireEngage (s : State) (t : TrainId) : State :=
  if s.timerRuns t .engage then
    (((((s.cancelTimer t).withdrawKind t .engage).countFailure t).enterRest t).settle).seqRaise t
      { cause := Cause.engageTimeout }
  else s

/-- R56: expiry of the start timer. -/
def State.expireStart (s : State) (t : TrainId) : State :=
  if s.timerRuns t .start then
    ((s.countFailure t).beginStop t none).1.seqRaise t { cause := Cause.startTimeout }
  else s

/-- R59: expiry of the stop timer. -/
def State.expireStop (s : State) (t : TrainId) : State :=
  if s.timerRuns t .stop then (s.tripBySequencer t (s.tripInfo t noItem Cause.stopTimeout)).settle else s

end Sys2Proof.Machine
end

