-- ==== Sys2Proof/Machine/Cavern.lean ====
section
/-! DEFINITION. The recomputation of a cavern (R92 to R98, R102), its timers (R91, R94), and what an update of a
scanned point makes the owning unit do (R91, R109). -/

namespace Sys2Proof.Machine

/-- Condition, high and low pressure for the usable readings (table of R92). -/
def selectPressure (tolerance : Nat) : Option Int → Option Int → Condition × Option Int × Option Int
  | some a, some b =>
    (if (a - b).natAbs ≤ tolerance then .agreed else .disagreed, some (max a b), some (min a b))
  | some a, none => (.single, some a, some a)
  | none, some b => (.single, some b, some b)
  | none, none => (.blind, none, none)

/-- R93: what a change of condition does. -/
def State.conditionChange (s : State) (c : CavernId) (old new : Condition) (difference : Nat) : State :=
  if old = new then s
  else
    match new with
    | .blind =>
      (s.modCavern c fun r =>
          { r with blindTimer := .running (seconds (s.cavern c).cfg.blindLimit),
                   windowAge := none, windowHigh := none, windowLow := none }).raise
        { cause := Cause.cavernBlind, place := some (cavernPlace c) }
    | _ =>
      let s1 := if old = .blind then s.modCavern c fun r => { r with blindTimer := .idle } else s
      if new = .disagreed then
        s1.raise { cause := Cause.pressureDisagree, place := some (cavernPlace c), detail := some (nat difference) }
      else s1

/-- A rate of R97, step 4: a change of pressure over `e` milliseconds in kPa per hour, rounded down, 0 where it would
be negative. -/
def rateOver (change : Int) (e : Nat) : Nat := (Int.fdiv (change * 3600000) e).toNat

/-- The window restarted at this event with the present pressures (R97). -/
def CavernRun.restartWindow (r : CavernRun) (high low : Int) : CavernRun :=
  { r with windowAge := some 0, windowHigh := some high, windowLow := some low }

/-- R98: one hold flag compared with its limit; the fault RATE_HOLD where it changes. -/
def State.compareHold (s : State) (c : CavernId) (old new : Bool) (rate : Nat) : State :=
  if old = new then s
  else s.raise { cause := Cause.rateHold, place := some (cavernPlace c), detail := some (nat rate) }

/-- R98: the hold flags, after the rates have been recomputed; where both change, RISE_HOLD's fault comes first (the
model's choice, log entry 44). -/
def State.updateHolds (s : State) (c : CavernId) : State :=
  let r := (s.cavern c).run
  let maxRise := match r.chargeBand with | some b => (s.bands.get (bandIndex c b)).maxRise | none => 0
  let maxFall := match r.generateBand with | some b => (s.bands.get (bandIndex c b)).maxFall | none => 0
  let riseHold := decide (maxRise < r.rise)
  let fallHold := decide (maxFall < r.fall)
  let s1 := s.modCavern c fun r => { r with riseHold := riseHold, fallHold := fallHold }
  (s1.compareHold c r.riseHold riseHold r.rise).compareHold c r.fallHold fallHold r.fall

/-- R97, R98: the rate window, the rates and the hold flags; `changed` tells that the usable set differs from that of
the previous recomputation. -/
def State.updateRates (s : State) (c : CavernId) (high low : Int) (changed : Bool) : State :=
  let k := s.cavern c
  match k.run.windowAge, k.run.windowHigh, k.run.windowLow with
  | some e, some wh, some wl =>
    if changed then s.modCavern c fun r => r.restartWindow high low
    else if e < 10000 then s
    else
      let s1 := s.modCavern c fun r =>
        let r1 := { r with rise := rateOver (high - wh) e, fall := rateOver (wl - low) e }
        if seconds k.cfg.rateWindow ≤ e then r1.restartWindow high low else r1
      s1.updateHolds c
  | _, _, _ => s.modCavern c fun r => r.restartWindow high low

/-- R102: every holder of a cavern trips at a hard limit, to be settled at the end of the event (R82, R88). -/
def State.tripHolders (s : State) (c : CavernId) (pressure : Int) : State :=
  (trainsOf (s.cavern c).run.holders).foldl (fun s t => s.tripEnvelope t pressure) s

/-- R102: the hard limits tested against the direction. -/
def State.testHardLimits (s : State) (c : CavernId) (high low : Int) : State :=
  let k := s.cavern c
  match k.run.direction with
  | some .charge => if (k.cfg.hardMax : Int) ≤ high then s.tripHolders c high else s
  | some .generate => if low ≤ (k.cfg.hardMin : Int) then s.tripHolders c low else s
  | none => s

/-- R92: a configured cavern recomputed, to be settled at the end of the event. -/
def State.recomputed (s : State) (c : CavernId) : State :=
  let k := s.cavern c
  if !k.cfg.configured then s
  else
    let a := s.usablePressure c .a
    let b := s.usablePressure c .b
    let (cond, high, low) := selectPressure k.cfg.tolerance a b
    let changed := k.run.usableA != a.isSome || k.run.usableB != b.isSome
    let s1 := s.modCavern c fun r =>
      { r with condition := cond, high := high, low := low, usableA := a.isSome, usableB := b.isSome }
    let s2 := s1.conditionChange c k.run.condition cond ((a.getD 0) - (b.getD 0)).natAbs
    match high, low with
    | some h, some l =>
      let s3 := s2.modCavern c fun r =>
        { r with chargeBand := some (s.bandFor c h), generateBand := some (s.bandFor c l) }
      (s3.updateRates c h l changed).testHardLimits c h l
    | _, _ => s2.modCavern c fun r => { r with chargeBand := none, generateBand := none }

/-- R92: a configured cavern recomputed in an event of its own. -/
def State.recomputeCavern (s : State) (c : CavernId) : State := (s.recomputed c).settleSince s

/-! ### Timers of a cavern -/

/-- R94: the blind timer expires: each holder is asked to stop with BLIND_STOP. -/
def State.expireBlind (s : State) (c : CavernId) : State :=
  match (s.cavern c).run.blindTimer with
  | .running _ =>
    (trainsOf (s.cavern c).run.holders).foldl (fun s t => s.requestStop t Cause.blindStop)
      (s.modCavern c fun r => { r with blindTimer := .expired })
  | _ => s

/-- R91: a staleness timer expires; the point's last success then lies a staleness limit back (log entry 30).  A timer
runs on where a SCAN write gives the transmitter another point or resets its point, and its expiry ages the point read
then (the model's choice, log entry 50). -/
def State.expireStaleness (s : State) (c : CavernId) (x : Transmitter) : State :=
  match (s.cavern c).run.stale x with
  | none => s
  | some left =>
    let s1 := s.modCavern c fun r => r.setStale x none
    let s2 := match s1.cavernPoint c x with
      | some p => s1.modPoint p fun q => q.expire left
      | none => s1
    s2.recomputeCavern c

/-! ### Points handed to their owning unit (R91, R109, R163, R165) -/

/-- The cavern of a scan entry's destination, where it names one in range. -/
def ScanEntry.cavern (e : ScanEntry) : Option (CavernId × Transmitter) :=
  if h : e.destIndex < 2 then
    match e.destKind with
    | .cavernA => some (⟨e.destIndex, h⟩, .a)
    | .cavernB => some (⟨e.destIndex, h⟩, .b)
    | _ => none
  else none

/-- The layer of a scan entry's destination, where it names one in range. -/
def ScanEntry.layer (e : ScanEntry) : Option LayerId :=
  if h : e.destIndex < 64 then
    match e.destKind with
    | .layer => some ⟨e.destIndex, h⟩
    | _ => none
  else none

/-- Field 6 of a bus fault: the cavern or store of a scan entry's destination (R168). -/
def ScanEntry.place (e : ScanEntry) : Option Nat :=
  (e.cavern.map fun x => cavernPlace x.1).or (e.layer.map fun l => storePlace (layerStore l))

/-- R91, R109, R165: entry `i`'s point was written, with the value of a success or without; the owning unit takes it
where the entry is the one it reads. -/
def State.pointWritten (s : State) (i : ScanId) (success : Option Int) : State :=
  let e := s.scan.get i
  match e.cavern, e.layer with
  | some (c, x), _ =>
    if s.cavernPoint c x = some i then
      let k := (s.cavern c).cfg
      let s1 :=
        if success.isSome && k.configured then s.modCavern c fun r => r.setStale x (some (seconds k.staleness)) else s
      s1.recomputeCavern c
    else s
  | none, some l =>
    if s.pointFor .layer l.val = some i then
      (match success with
       | some v => s.layerSuccess l v
       | none => s).layerChanged l
    else s
  | none, none => s

end Sys2Proof.Machine
end

