-- ==== Sys2Proof/Machine/Bus.lean ====
section
/-! DEFINITION. The instrument bus controller (chapter 9): rounds, the arbiter, transactions and their results,
recovery, point records, management transfers; and the MANAGE_REPLY telegram its replies share (R178). -/

namespace Sys2Proof.Machine

/-! ### MANAGE_REPLY (R9, R178) -/

/-- Status codes DONE 0, LEGALISED 1, REFUSED 2. -/
inductive Status where
  | done
  | legalised
  | refused
  deriving DecidableEq, Repr

/-- Statuses in the order of their codes. -/
def statusListing : List Status := [.done, .legalised, .refused]

/-- The STATUS item. -/
def statusItem (x : Status) (auxA auxB auxC : Word) : Item :=
  { kind := kStatus, value := code statusListing x, auxA := auxA, auxB := auxB, auxC := auxC }

/-- R178: a reply of at most 16 items: STATUS, then FIELD items; those that do not fit are left out. -/
def State.reply (s : State) (dst seq : HWord) (status : Item) (fields : List Item) : State :=
  s.answer cManageReply dst seq ((status :: fields).take 16)

/-- A reply without a refusal: aux A of its STATUS item is a free value (log entry 7). -/
def State.replyDone (s : State) (dst seq : HWord) (x : Status) (auxB auxC : Word) (fields : List Item) : State :=
  let (n, s1) := s.takeFree
  s1.reply dst seq (statusItem x (Config.statusCauseWord n) auxB auxC) fields

/-! ### Points (R165) -/

/-- The bytes of a reading as a number (R165). -/
def rawReading (f : ScanFormat) (b0 b1 b2 : Byte) : Int :=
  match f with
  | .u16 => (b0 ++ b1).toNat
  | .s16 => (b0 ++ b1).toInt
  | .s24 => (b0 ++ b1 ++ b2).toInt

/-- R165: the converted value, brought within 0 to 30 000 for a cavern destination. -/
def convert (gain offset raw : Int) (dest : DestKind) : Int :=
  let v := Int.fdiv (raw * gain) 1000 + offset
  if dest = .cavernA ∨ dest = .cavernB then clampInt 0 30000 v else v

/-- R165: a success. -/
def Point.succeed (v : Int) : Point :=
  { value := some v, quality := .good, age := some 0, failures := 0, last := .ok }

/-- R165: a failure. -/
def Point.fail (p : Point) (x : PointResult) : Point :=
  let n := count255 (p.failures + 1)
  { p with failures := n, last := x, quality := if p.value.isNone then .bad else if n ≤ 2 then .suspect else .bad }

/-- R165: an OK result written to entry `i`, read with the fields the transaction began with. -/
def State.scanOk (s : State) (i : ScanId) (f : ScanEntry) (b0 b1 b2 : Byte) : State :=
  let v := convert f.gain f.offset (rawReading f.format b0 b1 b2) (s.scan.get i).destKind
  (s.modPoint i fun _ => Point.succeed v).pointWritten i (some v)

/-- R165: a failed result written to entry `i`; POINT_BAD where the quality changes from SUSPECT to BAD. -/
def State.scanFail (s : State) (i : ScanId) (x : PointResult) : State :=
  let p := s.points.get i
  let s1 := s.modPoint i fun p => p.fail x
  let s2 :=
    if p.quality = .suspect ∧ (p.fail x).quality = .bad then
      s1.raise { cause := Cause.pointBad, place := (s.scan.get i).place, detail := some (nat i.val) }
    else s1
  s2.pointWritten i none

/-! ### Rounds and the arbiter (R164, R167) -/

/-- R164: an entry due in the present round, by the period read when the round began (R163). -/
def Bus.due (b : Bus) (i : ScanId) (e : ScanEntry) : Bool := e.inUse && b.round.toNat % b.periods.get i == 0

/-- R164: the lowest-index due entry at or above the cursor. -/
def State.nextDue (s : State) : Option ScanId :=
  (fins 48).find? fun i => s.bus.cursor ≤ i.val && s.bus.due i (s.scan.get i)

/-- R164, R163: a round begins and reads the periods of the table. -/
def Bus.beginRound (b : Bus) (scan : Vector ScanEntry 48) : Bus :=
  { b with inRound := true, round := b.round + 1, cursor := 0, periods := tabMap ScanEntry.period scan }

/-- R164: a round with no due entry left ends; a round owed begins at once. -/
def State.endRoundOnce (s : State) : State :=
  if s.bus.inRound && s.nextDue.isNone then
    s.modBus fun b =>
      if b.owedRound then { b with owedRound := false }.beginRound s.scan else { b with inRound := false }
  else s

/-- R164: rounds that have no due entry left end; one that was owed may find none either. -/
def State.endRound (s : State) : State := s.endRoundOnce.endRoundOnce

/-- The transaction of a grant, before its start condition. -/
def grantedTxn (e : ScanEntry) : Txn := { started := false, retry := false, fast := false, fields := e, discarded := false }

/-- R167: the arbiter, while the bus is IDLE: a waiting transfer first, then the scanner's next due entry. -/
def State.arbitrate (s : State) : State :=
  if s.bus.state ≠ .idle then s
  else
    let s1 := s.endRound
    match s1.bus.transfer with
    | some x =>
      s1.modBus fun b =>
        { b with state := .mgmtActive, attempt := 1, txn := some (grantedTxn {}), transfer := some { x with active := true } }
    | none =>
      match (if s1.bus.inRound then s1.nextDue else none) with
      | some i =>
        s1.modBus fun b =>
          { b with state := .scanActive, attempt := 1, entry := some i, cursor := i.val + 1,
                   txn := some (grantedTxn (s1.scan.get i)) }
      | none => s1

/-- R164: the scan interval timer expires.  SCAN_OVERRUN carries no cavern or store, also while an entry is in progress
(the model's choice, log entry 46). -/
def State.expireInterval (s : State) : State :=
  match s.bus.interval with
  | none => s
  | some _ =>
    let s1 := s.modBus fun b => { b with interval := some s.part.scanInterval }
    if s.bus.state = .failed then s1
    else if s.bus.inRound then
      (s1.modBus fun b => { b with owedRound := true }).raise
        { cause := Cause.scanOverrun, detail := some s.bus.round }
    else ((s1.modBus fun b => b.beginRound s.scan).endRound).arbitrate

/-! ### Management transfers (R166) -/

/-- Result codes of a transfer. -/
inductive TransferResult where
  | ok
  | noAck
  | arbLost
  | hung
  | aborted
  | notStarted
  deriving DecidableEq, Repr

/-- Transfer results in the order of their codes. -/
def transferResults : List TransferResult := [.ok, .noAck, .arbLost, .hung, .aborted, .notStarted]

/-- Bytes laid over the beginning of the buffer. -/
def overwrite (buf : Vector Byte 32) (bytes : List Byte) : Vector Byte 32 :=
  (fins 32).foldl (fun v i => match bytes[i.val]? with | some b => upd v i b | none => v) buf

/-- Byte `i` of the first `count` bytes of the buffer; 0 beyond the count. -/
def bufferByte (buf : Vector Byte 32) (count i : Nat) : Byte := if i < count then buf.toList.getD i 0 else 0

/-- Bytes 4k to 4k + 3, most significant first. -/
def bufferWord (buf : Vector Byte 32) (count k : Nat) : Word :=
  (bufferByte buf count (4 * k) ++ bufferByte buf count (4 * k + 1))
    ++ (bufferByte buf count (4 * k + 2) ++ bufferByte buf count (4 * k + 3))

/-- The FIELD items of a transfer's reply: result, bytes transferred, and for a READ the buffer's first count bytes. -/
def transferFields (x : Transfer) (r : TransferResult) (n : Nat) (buf : Vector Byte 32) : List Item :=
  [fieldItem 0 0 (code transferResults r), fieldItem 0 1 (nat n)]
    ++ (if x.write then []
        else (List.range ((x.count + 3) / 4)).map fun k => fieldItem 0 (2 + k) (bufferWord buf x.count k))

/-- R166: a transfer ends: the bytes a READ received stand in the buffer, the reply is sent, nothing is held.  Bytes of a
READ enter the buffer here and at a lost attempt, not one by one as they arrive (the model's choice, log entry 50). -/
def State.endTransfer (s : State) (r : TransferResult) (count : Nat) (received : List Byte) : State :=
  match s.bus.transfer with
  | none => s
  | some x =>
    let buf := if x.write then s.bus.buffer else overwrite s.bus.buffer (received.take x.count)
    let s1 := s.modBus fun b => { b with transfer := none, buffer := buf }
    s1.replyDone x.dst x.seq .done absent absent (transferFields x r count buf)

/-! ### The end of a transaction (R157 to R160) -/

/-- The bus IDLE after a transaction; the arbiter decides what runs next.  The attempt keeps the last transaction's count
until the next one is granted (the model's choice, log entry 48). -/
def Bus.release (b : Bus) : Bus :=
  { b with state := .idle, entry := none, txn := none, clockLow := none, dataLow := none }

/-- Field 12 of BUS_NO_ACK and BUS_ARB_LOST: bus address × 256 + register offset (R168). -/
def targetDetail (e : ScanEntry) : Word := nat (e.address.toNat * 256 + e.register.toNat)

/-- A fault of a transaction, with the cavern or store of the scan entry in progress (R168). -/
def State.busFault (s : State) (c : Cause) (detail : Word) : State :=
  s.raise { cause := c, place := s.bus.entry.bind fun i => (s.scan.get i).place, detail := some detail }

/-- The scanner is told of a failed transaction; its result is discarded where a write cleared the entry's use
(R163). -/
def State.tellScanner (s : State) (t : Txn) (x : PointResult) : State :=
  match s.bus.entry with
  | some i => if t.discarded then s else s.scanFail i x
  | none => s

/-- R157, R158, R165: a scan transaction ends OK or with an acknowledge read high. -/
def State.scanComplete (s : State) (r : ScanEnd) : State :=
  match s.bus.state, s.bus.txn, s.bus.entry with
  | .scanActive, some t, some i =>
    if !t.started then s
    else
      let s1 := match r with
        | .ok b0 b1 b2 => if t.discarded then s else s.scanOk i t.fields b0 b1 b2
        | .noAck => (s.busFault Cause.busNoAck (targetDetail t.fields)).tellScanner t .noAck
      (s1.modBus Bus.release).arbitrate
  | _, _, _ => s

/-- R157, R158, R166: a management transfer ends OK or with an acknowledge read high. -/
def State.transferComplete (s : State) (r : TransferEnd) : State :=
  match s.bus.state, s.bus.txn, s.bus.transfer with
  | .mgmtActive, some t, some x =>
    if !t.started then s
    else
      let s1 := match r with
        | .ok received => s.endTransfer .ok x.count received
        | .noAck bytes => s.endTransfer .noAck bytes.length bytes
      (s1.modBus Bus.release).arbitrate
  | _, _, _ => s

/-- R157: the start condition: issued once both lines are read high; the guard timers run while one is low (R160).
A transaction made again after an arbitration loss counts its attempt here (R159). -/
def State.startTransaction (s : State) (clockHigh dataHigh : Bool) : State :=
  match s.bus.txn with
  | none => s
  | some t =>
    if t.started then s
    else if clockHigh && dataHigh then
      s.modBus fun b =>
        { b with
          clockLow := none
          dataLow := none
          attempt := if t.retry then b.attempt + 1 else b.attempt
          txn := some
            (if t.retry then { t with started := true, retry := false }
             else
               { t with started := true, fast := s.part.fastBus
                        fields := match b.entry with | some i => s.scan.get i | none => t.fields }) }
    else
      s.modBus fun b =>
        { b with clockLow := if clockHigh then none else some (b.clockLow.getD s.part.stretchLimit)
                 dataLow := if dataHigh then none else some (b.dataLow.getD s.part.hangLimit) }

/-- Bytes a management READ had received stand in the buffer at a lost attempt (R158, R166; the model's choice, log entry
50). -/
def State.keepReceived (s : State) (bytes : List Byte) : State :=
  match s.bus.transfer with
  | some x => if x.active && !x.write then s.modBus fun b => { b with buffer := overwrite b.buffer (bytes.take x.count) } else s
  | none => s

/-- The bytes the transaction in progress had moved, of those told: none before its start condition, at most the count
of a transfer (R162, R166).  While it waits between arbitration attempts none count, since it is made again from its
start condition (the model's choice, log entry 9). -/
def Bus.moved (b : Bus) (bytes : List Byte) : List Byte :=
  if b.txn.any fun t => t.started then bytes.take ((b.transfer.map fun x => x.count).getD 0) else []

/-- The last attempt (R159). -/
def lastAttempt : Nat := 4

/-- R159: arbitration lost: the transaction waits to be made again, its data-low timer running since data was read low
(R160), or ends ARB_LOST at attempt 4. -/
def State.loseArbitration (s : State) (bytes : List Byte) : State :=
  match s.bus.txn with
  | none => s
  | some t =>
    if !t.started then s
    else if s.bus.attempt < lastAttempt then
      (s.keepReceived bytes).modBus fun b =>
        { b with txn := some { t with started := false, retry := true }
                 clockLow := none
                 dataLow := some (b.dataLow.getD s.part.hangLimit) }
    else
      let s1 :=
        if s.bus.state = .scanActive then (s.busFault Cause.busArbLost (targetDetail t.fields)).tellScanner t .arbLost
        else s.endTransfer .arbLost bytes.length bytes
      (s1.modBus Bus.release).arbitrate

/-- R161: a recovery starts; the pulses issued read 0 until its end brings their count (the model's choice, log entry
46). -/
def Bus.startRecovery (b : Bus) : Bus := { b.release with state := .recovering, pulses := 0 }

/-- R160: a line held past its limit ends the transaction HUNG; `line` is 1 for the clock, 2 for the data line. -/
def State.hang (s : State) (line : Word) (bytes : List Byte) : State :=
  match s.bus.txn with
  | none => s
  | some t =>
    let s1 := s.busFault Cause.busHung line
    let s2 :=
      if s.bus.state = .scanActive then s1.tellScanner t .hung
      else s1.endTransfer .hung (s.bus.moved bytes).length (s.bus.moved bytes)
    s2.modBus Bus.startRecovery

/-! ### Recovery (R161, R162) -/

/-- The two FIELD items of a recovery's reply: fields 0 and 8 of the bus block. -/
def recoveryFields (b : Bus) : List Item :=
  [fieldItem 0 0 (code busStateListing b.state), fieldItem 0 8 (nat b.pulses)]

/-- R162: the reply owed for a recovery sent. -/
def State.replyRecovery (s : State) : State :=
  match s.bus.owed with
  | some (dst, seq) =>
    (s.modBus fun b => { b with owed := none }).replyDone dst seq .done absent absent (recoveryFields s.bus)
  | none => s

/-- R161: a recovery fails.  BUS_FAILED carries no cavern or store, also after a hung scan (the model's choice, log entry
46). -/
def State.failRecovery (s : State) (pulses : Nat) : State :=
  let s1 := s.modBus fun b =>
    { b with state := .failed, pulses := pulses, clockLow := none, dataLow := none, inRound := false, owedRound := false }
  ((s1.raise { cause := Cause.busFailed, detail := some (nat pulses) }).endTransfer .notStarted 0 []).replyRecovery

/-- R161: a recovery ends. -/
def State.recoveryEnds (s : State) (pulses : Nat) (freed : Bool) : State :=
  if s.bus.state ≠ .recovering then s
  else if freed then
    (s.modBus fun b => { b with state := .idle, pulses := pulses, clockLow := none, dataLow := none }).replyRecovery.arbitrate
  else s.failRecovery pulses

/-- R160, R161: the clock-low timer expires, in a transaction or during a recovery pulse. -/
def State.expireClockLow (s : State) (bytes : List Byte) (pulses : Nat) : State :=
  match s.bus.state with
  | .scanActive | .mgmtActive => s.hang 1 bytes
  | .recovering => s.failRecovery pulses
  | _ => s

/-- R160: the data-low timer expires. -/
def State.expireDataLow (s : State) (bytes : List Byte) : State :=
  match s.bus.state with
  | .scanActive | .mgmtActive => s.hang 2 bytes
  | _ => s

/-- R162: the transaction in progress ends ABORTED; a transfer is answered with the bytes moved before the abort. -/
def State.abort (s : State) (bytes : List Byte) : State :=
  if s.bus.state = .mgmtActive then s.endTransfer .aborted (s.bus.moved bytes).length (s.bus.moved bytes) else s

end Sys2Proof.Machine
end

