-- ==== Sys2Proof/Machine/Stations.lean ====
section
/-! DEFINITION. The station unit (sections 1.4, 1.7 to 1.9): source lookup, via chains and depth, roll call, and what
a change of enrolment hands to other blocks. -/

namespace Sys2Proof.Machine

/-! ### Sources (R5, R6) -/

/-- R5: the in-use entry of a port that holds a source address. -/
def State.findStation (s : State) (p : Port) (a : HWord) : Option StationId :=
  (fins 32).find? fun i =>
    let e := s.station i
    e.inUse && e.port == p && e.address == a

/-- R6: commissioning acceptance: no in-use U entry has the manage flag. -/
def State.commissioning (s : State) : Bool :=
  !((fins 32).any fun i =>
      let e := s.station i
      e.inUse && e.port == .u && e.manage)

/-! ### Via chains -/

/-- The entries a via chain passes through, nearest first, at most `n`. -/
def chainOf (v : Vector Station 32) : Nat → StationId → List StationId
  | 0, _ => []
  | n + 1, i =>
    match (v.get i).via with
    | none => []
    | some j => j :: chainOf v n j

/-- The via chain of an entry: it has at most 32 entries, as a chain without a cycle does. -/
def viaChain (v : Vector Station 32) (i : StationId) : List StationId := chainOf v 32 i

/-- Depth: the number of entries in the via chain; 0 for an entry that is unused or of port U (section 1.7). -/
def State.depth (s : State) (i : StationId) : Nat :=
  let e := s.station i
  if e.inUse && e.port == .d then (viaChain s.stations i).length else 0

/-- In-use D entries whose via chain reaches entry `i`, in index order; an entry that is unused or of port U always reads
UNENROLLED with miss count 0 (section 1.7). -/
def behind (v : Vector Station 32) (i : StationId) : List StationId :=
  (fins 32).filter fun j => (v.get j).inUse && (v.get j).port == .d && (viaChain v j).contains i

/-! ### Changes of enrolment (R19) -/

/-- A fault of the station unit names the station in field 9 (section 10.2). -/
def stationFault (c : Cause) (address : HWord) (detail : Option Word) : FaultInfo :=
  { cause := c, station := some address, detail := detail }

/-- R19, R83: an entry leaves ENROLLED for LOST or REJECTED: the drive queue makes its removals for each of its trains;
polls and refill follow at the end of the event (`State.settle`). -/
def State.toldLost (s : State) (i : StationId) : State := (s.trainsBehind i).foldl State.dropTrain s

/-- R19, R68: an entry becomes ENROLLED: the sequencer is told for each of its trains; polls and refill follow at the end
of the event (`State.settle`). -/
def State.toldEnrolled (s : State) (i : StationId) : State := (s.trainsBehind i).foldl State.toUnknown s

/-- R14, R16: an ENROLLED entry becomes LOST, with STATION_LOST. -/
def State.lose (s : State) (i : StationId) : State :=
  if (s.station i).enrolment = .enrolled then
    ((s.modStation i fun e => { e with enrolment := .lost }).toldLost i).raise
      (stationFault Cause.stationLost (s.station i).address none)
  else s

/-- R14, R16: every ENROLLED entry behind a coupler becomes LOST, which ends the removals of the event (R83, R88). -/
def State.loseBehind (s : State) (i : StationId) : State := ((behind s.stations i).foldl State.lose s).settle

/-- An entry becomes REJECTED; the drive queue is told where it was ENROLLED. -/
def State.reject (s : State) (i : StationId) : State :=
  let s1 := s.modStation i fun e => { e with enrolment := .rejected }
  if (s.station i).enrolment = .enrolled then s1.toldLost i else s1

/-- R17: an entry and every entry behind it become REJECTED. -/
def State.rejectWithBehind (s : State) (i : StationId) : State := (behind s.stations i).foldl State.reject (s.reject i)

/-! ### The round (R12, R13) -/

/-- What R13 does with an entry in its turn. -/
inductive Turn where
  | reject
  | skip
  | call
  deriving DecidableEq, Repr

/-- Whether an entry is considered at all: in use, of port D and not REJECTED. -/
def Station.callable (e : Station) : Bool := e.inUse && e.port == .d && e.enrolment != .rejected

/-- R13: which of the three ways an entry is dealt with. -/
def State.turn (s : State) (i : StationId) : Turn :=
  if 3 < s.depth i then .reject
  else
    match (s.station i).via with
    | none => .call
    | some j => if (s.station j).enrolment = .enrolled then .call else .skip

/-- R13: entry `i` is called: ROLLCALL sent, the call outstanding, the reply timer started.  The cursor is brought to the
called entry (the model's choice, log entry 44). -/
def State.callStation (s : State) (i : StationId) : State :=
  let seq := s.link.d.counter
  let s1 := s.emit .d cRollcall (s.station i).address []
  { s1 with roll := { s1.roll with cursor := i.val, call := some (i, seq), reply := some s.part.replyTimeout } }

/-- R13: an entry not called: the cursor moves past it. -/
def State.passOver (s : State) (i : StationId) : State := { s with roll := { s.roll with cursor := i.val + 1 } }

/-- R13: seeking the next call among the entries left; none left, the round ends. -/
def State.seekFrom (s : State) : List StationId → State
  | [] => { s with roll := { s.roll with inRound := false } }
  | i :: rest =>
    if (s.station i).callable then
      match s.turn i with
      | .reject =>
        (((s.reject i).raise (stationFault Cause.topologyExceeded (s.station i).address (some (nat (s.depth i))))).passOver
          i).seekFrom rest
      | .skip => (s.passOver i).seekFrom rest
      | .call => s.callStation i
    else s.seekFrom rest

/-- R13: the next call sought at or above the cursor. -/
def State.seek (s : State) : State := s.seekFrom ((fins 32).filter fun i => s.roll.cursor ≤ i.val)

/-- R13: a call ends: the cursor moves past its entry and the seeking continues. -/
def State.endCall (s : State) (i : StationId) : State :=
  State.seek { s with roll := { s.roll with call := none, reply := none, cursor := i.val + 1 } }

/-- R12: the period timer expires. -/
def State.expirePeriod (s : State) : State :=
  match s.roll.period with
  | none => s
  | some _ =>
    let s1 := { s with roll := { s.roll with period := some (seconds s.part.rollPeriod) } }
    if s.roll.inRound then s1 else State.seek { s1 with roll := { s1.roll with inRound := true, cursor := 0 } }

/-- R14: the miss count after a miss: one more, stopping at the miss limit. -/
def missed (limit n : Nat) : Nat := if limit ≤ n then limit else n + 1

/-- R14: the reply timer expires with a call outstanding. -/
def State.expireReply (s : State) : State :=
  match s.roll.reply, s.roll.call with
  | some _, some (i, _) =>
    let m := missed s.part.missLimit (s.station i).misses
    let was := (s.station i).enrolment
    let s1 := s.modStation i fun e => { e with misses := m }
    let s2 := if was = .enrolled ∧ s.part.missLimit ≤ m then (s1.lose i).loseBehind i else s1
    s2.endCall i
  | _, _ => s

/-! ### Replies (R15 to R18) -/

/-- The 64-bit identity an IDENTITY item reports equals the expected one. -/
def Station.identified (e : Station) (i : Item) : Bool := i.kind == 0x41 && i.auxA == e.idHigh && i.auxB == e.idLow

/-- R16: a reply that fails the identity judgement. -/
def State.failIdentity (s : State) (i : StationId) (detail : Word) : State :=
  let e := s.station i
  let s1 := (s.reject i).modStation i fun e => { e with misses := 0 }
  let s2 := s1.raise (stationFault Cause.identityMismatch e.address (some detail))
  if e.role = .coupler then s2.loseBehind i else s2

/-- The BEHIND items of a reply. -/
def behindItems (items : List Item) : List Item := items.filter fun i => i.kind == 0x42

/-- R17: whether a coupler's reply fails the topology judgement. -/
def topologyFails (depth : Nat) (identity : Item) (n : Nat) : Bool :=
  identity.value != nat depth || 15 < identity.auxC.toNat || identity.auxC.toNat != n || (0 < n && 3 ≤ depth)

/-- R17: one BEHIND item of a coupler that passed. -/
def State.takeBehind (coupler : StationId) (s : State) (i : Item) : State :=
  match s.findStation .d i.refId with
  | some j =>
    if (s.station j).via = some coupler then s
    else (s.rejectWithBehind j).raise (stationFault Cause.unexpectedStation i.refId none)
  | none => s.raise (stationFault Cause.unexpectedStation i.refId none)

/-- Stations ENROLLED now (R18). -/
def State.enrolledCount (s : State) : Nat := ((fins 32).filter fun i => (s.station i).enrolment == .enrolled).length

/-- R18: a station whose reply passed is enrolled according to its state.  Its trains enter UNKNOWN with it, and no
departure is taken between the two (R83; the model's choice, log entry 48). -/
def State.enrol (s : State) (i : StationId) : State :=
  let e := s.station i
  let s1 := s.modStation i fun e => { e with misses := 0 }
  match e.enrolment with
  | .enrolled => s1
  | .unenrolled | .lost =>
    if 31 ≤ s.enrolledCount then s1.raise (stationFault Cause.topologyExceeded e.address (some 31))
    else (s1.modStation i fun e => { e with enrolment := .enrolled }).toldEnrolled i
  | .rejected => s

/-- R16 to R18: the three judgements of a matching reply. -/
def State.judgements (s : State) (i : StationId) (items : List Item) : State :=
  let e := s.station i
  match items with
  | [] => s.failIdentity i 0
  | identity :: _ =>
    if !e.identified identity then s.failIdentity i (if identity.kind = 0x41 then identity.auxB else 0)
    else if e.role = .coupler then
      let bs := behindItems items
      if topologyFails (s.depth i) identity bs.length then
        (s.rejectWithBehind i).raise (stationFault Cause.topologyExceeded e.address (some identity.auxC))
      else (bs.foldl (State.takeBehind i) s).enrol i
    else s.enrol i

/-- R16 to R18: a matching reply judged; what the drive queue removed is settled at its end (R83, R88). -/
def State.judgeReply (s : State) (i : StationId) (items : List Item) : State := (s.judgements i items).settle

/-- R15: a ROLLCALL_REPLY taken: matched against the outstanding call, or discarded. -/
def State.takeRollcallReply (s : State) (h : Header) (items : List Item) : State :=
  match s.roll.call with
  | some (i, seq) =>
    if h.src = (s.station i).address ∧ h.seq = seq then
      (State.judgeReply { s with roll := { s.roll with reply := none } } i items).endCall i
    else s
  | none => s

/-! ### Writes of STATIONS (R11) -/

/-- R11: the entries a write unenrols: those written in a field that changes enrolment, and those behind them in the
accepted table. -/
def unenrolledBy (v : Vector Station 32) (written : List StationId) : List StationId :=
  (fins 32).filter fun j => written.any fun i => i == j || (viaChain v j).contains i

/-- R11, R15: entries become UNENROLLED with miss count 0; a call to one of them is abandoned. -/
def State.unenrol (s : State) (l : List StationId) : State :=
  let s1 := l.foldl (fun s i => s.modStation i fun e => { e with enrolment := .unenrolled, misses := 0 }) s
  match s.roll.call with
  | some (i, _) => if l.contains i then s1.endCall i else s1
  | none => s1

end Sys2Proof.Machine
end

