-- ==== Sys2Proof/Machine/Admission.lean ====
section
/-! DEFINITION. The admission unit (chapter 2): the checks A to N on each item of a DISPATCH, and the ADMIT_REPLY. -/

namespace Sys2Proof.Machine

/-- The source of a telegram as R5 hands it on, with the header's address and sequence. -/
structure Source where
  entry   : StationId
  role    : Role
  level   : Nat
  address : HWord
  seq     : HWord
  deriving DecidableEq, Repr

/-- Outcome codes (R45). -/
inductive OutcomeCode where
  | queued
  | merged
  | clamped
  | sent
  | held
  | refused
  | accepted
  deriving DecidableEq, Repr

/-- Outcomes in the order of their codes 0 to 6. -/
def outcomeCodes : List OutcomeCode := [.queued, .merged, .clamped, .sent, .held, .refused, .accepted]

/-- What became of an item. -/
structure ItemOutcome where
  code  : OutcomeCode
  value : Int := 0
  cause : Option Cause := none
  deriving DecidableEq, Repr

/-- A refused item. -/
def refusedItem (c : Cause) : ItemOutcome := { code := .refused, cause := some c }

/-! ### Kinds and references -/

/-- The eleven dispatch kinds (R23). -/
def dispatchKind (k : Byte) : Bool := 1 ≤ k.toNat && k.toNat ≤ 11

/-- Kinds whose needed direction is judged and which a position or duty may carry (R25). -/
def dutyKind (k : Byte) : Bool := k == kPower || k == kReactive || k == kReheat || k == kStart || k == kStop

/-- Quantity kinds of a dispatch. -/
def quantityKind (k : Byte) : Option DriveKind :=
  if k = kPower then some .power else if k = kReactive then some .reactive else if k = kReheat then some .reheat else none

/-- Reference kind codes. -/
abbrev refTrain : Byte := 1
abbrev refDuty : Byte := 2
abbrev refPosition : Byte := 3

/-- The fields every fault of an item carries (R44). -/
def itemInfo (src : Source) (i : Item) : FaultInfo :=
  { cause := Cause.trainState, reference := some (referenceWord i.refKind i.refId), station := some src.address,
    seq := some src.seq, kind := some i.kind, detail := some i.value, tag := some i.tag }

/-- Adds the resolved train and the intermediate duty (R44). -/
def FaultInfo.resolved (f : FaultInfo) (r : Resolution) : FaultInfo := { f with train := some r.train, duty := r.duty }

/-- The detail value of a refusal: the item kind for KIND_ILLEGAL, the item's value otherwise (R44). -/
def FaultInfo.refusal (f : FaultInfo) (c : Cause) : FaultInfo :=
  if c = Cause.kindIllegal then { f with cause := c, detail := f.kind.map fun k => k.setWidth 32 } else { f with cause := c }

/-! ### Steps A to D (R23 to R26) -/

/-- Step A. -/
def stepA (i : Item) : Option Cause :=
  if !dispatchKind i.kind || i.refKind == 0 || 3 < i.refKind.toNat then some Cause.kindIllegal else none

/-- Step B. -/
def stepB (gateOpen : Bool) (i : Item) : Option Cause :=
  if i.kind ≠ kTrip ∧ gateOpen = false then some Cause.gateClosed else none

/-- Step C. -/
def stepC (level : Nat) (i : Item) : Option Cause :=
  if i.refKind = refTrain then
    if i.kind = kTrip ∨ level ≤ 1 then none else some Cause.refForbidden
  else if dutyKind i.kind then none else some Cause.kindIllegal

/-- The fixed maximum level of a kind (R26). -/
def fixedLevel (k : Byte) : Option Nat :=
  if k = kUnlock then some 0
  else if k = kTripReset ∨ k = kAuto ∨ k = kManual ∨ k = kLock then some 1
  else none

/-- Step D. -/
def stepD (level : Nat) (i : Item) : Option Cause :=
  match fixedLevel i.kind with
  | some m => if m < level then some Cause.kindForbidden else none
  | none => none

/-- Steps A to D in order. -/
def stepsAtoD (gateOpen : Bool) (level : Nat) (i : Item) : Option Cause :=
  (stepA i).or ((stepB gateOpen i).or ((stepC level i).or (stepD level i)))

/-! ### Steps E to I (R29 to R41) -/

/-- Step E. -/
def State.resolve (s : State) (i : Item) : State × Except Failure Resolution :=
  if i.refKind = refTrain then (s, resolveTrain s i.refId.toNat)
  else s.lookup (i.refKind == refPosition) i.refId.toNat

/-- Step F (R32). -/
def stepF (src : Source) (i : Item) (r : Resolution) : Option Cause :=
  if i.refKind = refPosition ∧ src.role = .desk ∧ r.desk ≠ some src.entry then some Cause.positionForeign else none

/-- POSITION_DENIED or DUTY_DENIED by the reference (R33). -/
def deniedCause (i : Item) : Cause := if i.refKind = refPosition then Cause.positionDenied else Cause.dutyDenied

/-- The sign of a POWER value against the engaged mode (R34). -/
def signMismatch (i : Item) (m : RunMode) : Bool :=
  let v := i.value.toInt
  if i.refKind = refPosition then (0 < v && m != .generate) || (v < 0 && m != .charge) else v < 0

/-- Step G (R33, R34). -/
def stepG (i : Item) (r : Resolution) (engaged : Mode) : Option Cause :=
  if i.kind = kStart then
    match ofCode modeListing i.auxA with
    | some (some m) => if r.allow.getLsbD m.member then none else some (deniedCause i)
    | _ => some Cause.modeMismatch
  else if (quantityKind i.kind).isSome then
    match engaged with
    | none => none
    | some m =>
      if !r.allow.getLsbD m.member then some (deniedCause i)
      else if i.kind = kPower ∧ signMismatch i m then some Cause.modeMismatch
      else none
  else none

/-- The member of a PERMISSIONS entry for a kind (section 2.7). -/
def permissionBit (k : Byte) : Option Nat :=
  if k = kPower then some 0 else if k = kReactive then some 1 else if k = kReheat then some 2
  else if k = kStart then some 3 else if k = kStop then some 4 else if k = kTrip then some 5
  else if k = kAuto then some 6 else if k = kManual then some 7 else if k = kLock then some 8
  else none

/-- PERMISSIONS index of a source and a train. -/
def permissionIndex (e : StationId) (t : TrainId) : Fin 192 := ⟨e.val * 6 + t.val, by omega⟩

/-- Whether the PERMISSIONS entry holds a kind; TRIP_RESET and UNLOCK are no map kinds. -/
def State.permits (s : State) (e : StationId) (t : TrainId) (k : Byte) : Bool :=
  match permissionBit k with
  | some b => (s.permissions.get (permissionIndex e t)).getLsbD b
  | none => false

/-- Step H (R39). -/
def stepH (s : State) (src : Source) (i : Item) (t : TrainId) : Option Cause :=
  let free := if i.kind = kTrip then decide (src.level ≤ 1) else decide (src.level ≤ (s.cfg t).ceiling)
  if free || s.permits src.entry t i.kind then none else some Cause.notPermitted

/-- Kinds step I applies to (R41). -/
def needsReach (k : Byte) : Bool := dutyKind k || k == kTripReset

/-- Step I. -/
def stepI (s : State) (i : Item) (t : TrainId) : Option Cause :=
  if needsReach i.kind && !s.reachable t then some Cause.trainUnreachable else none

/-- Steps F to I in order. -/
def stepsFtoI (s : State) (src : Source) (i : Item) (r : Resolution) : Option Cause :=
  (stepF src i r).or ((stepG i r (s.run r.train).engaged).or ((stepH s src i r.train).or (stepI s i r.train)))

/-! ### Handing on (R42, R43) -/

/-- R42: the outcome of a sequencer's answer; `value` is the START's mode code. -/
def outcomeOf (value : Int) : SeqAnswer → ItemOutcome
  | .refused c => refusedItem c
  | .queued => { code := .queued, value := value }
  | .held => { code := .held, value := value }
  | .sent raised => { code := .sent, cause := raised }
  | .accepted => { code := .accepted }

/-- R42: a control item handed to the sequencer. -/
def State.command (s : State) (src : Source) (i : Item) (r : Resolution) : State × ItemOutcome :=
  let q : Request :=
    { item := (itemInfo src i).resolved r, ref := some { station := src.address, seq := src.seq, tag := i.tag } }
  let t := r.train
  let answer (x : State × SeqAnswer) (v : Int) : State × ItemOutcome := (x.1, outcomeOf v x.2)
  if i.kind = kStart then
    match ofCode modeListing i.auxA with
    | some (some m) => answer (s.requestStart t m q) m.value
    | _ => answer (s.seqRefuse t q Cause.modeMismatch) 0
  else if i.kind = kStop then answer (s.requestStopNow t none q) 0
  else if i.kind = kTrip then answer (s.requestTrip t q) 0
  else if i.kind = kTripReset then answer (s.requestReset t q) 0
  else if i.kind = kAuto then answer (s.requestControl t true q) 0
  else if i.kind = kManual then answer (s.requestControl t false q) 0
  else if i.kind = kLock then answer (s.requestLock t q) 0
  else answer (s.requestUnlock t q) 0

/-- The value asked: the magnitude for POWER, the signed value otherwise (R34, R43). -/
def askedValue (k : DriveKind) (i : Item) : Int := if k = .power then i.value.toInt.natAbs else i.value.toInt

/-- Steps K and L (R34, R43): the value within the limits of translation and train, and for POWER within the
cavern's cap. -/
def State.limitedValue (s : State) (k : DriveKind) (r : Resolution) (asked : Int) : Int :=
  let cfg := s.cfg r.train
  match k with
  | .power =>
    let rated := cfg.rated (s.run r.train).engaged
    let limit := match r.limit with | some l => min l rated | none => rated
    min (min asked limit) (s.powerCap r.train)
  | .reactive => clampInt (-(cfg.reactiveLimit : Int)) cfg.reactiveLimit asked
  | _ => asked

/-- Step M (R43, R122): REHEAT within the store's limit; none where the store refuses. -/
def State.reheated (s : State) (k : DriveKind) (t : TrainId) (v : Int) : State × Option Int :=
  if k = .reheat then
    let r := s.reheatLimit t
    (r.1, r.2.map fun l => min v l)
  else (s, some v)

/-- R43: the outcome of a placed value. -/
def placedOutcome (asked value : Int) (new : Bool) (raised : Option Cause) : ItemOutcome :=
  { code := if value.natAbs < asked.natAbs then .clamped else if new then .queued else .merged
    value := value
    cause := raised }

/-- A refusal by the admission unit (R44). -/
def State.refuse (s : State) (f : FaultInfo) (c : Cause) : State × ItemOutcome := (s.raise (f.refusal c), refusedItem c)

/-- R43: a quantity item from step J to step N. -/
def State.quantity (s : State) (src : Source) (i : Item) (r : Resolution) (k : DriveKind) : State × ItemOutcome :=
  let info := (itemInfo src i).resolved r
  let ref : ItemRef := { station := src.address, seq := src.seq, tag := i.tag }
  match s.admitQuantity r.train k src.level { item := info, ref := some ref } with
  | (s1, .error c) => (s1, refusedItem c)
  | (s1, .ok raised) =>
    let asked := askedValue k i
    match s1.reheated k r.train (s1.limitedValue k r asked) with
    | (s2, none) => s2.refuse { info with place := some (storePlace (s.cfg r.train).store) } Cause.storeBlind
    | (s2, some v) =>
      let o := s2.offer
        { train := r.train, kind := k, value := v, origin := .admitted, station := some src.address,
          seq := some src.seq, tag := i.tag, clamped := decide (v ≠ asked) }
      match o.2 with
      | .refused c => o.1.refuse info c
      | .new => (o.1, placedOutcome asked v true raised)
      | .merged | .pending => (o.1, placedOutcome asked v false raised)

/-! ### One item, one telegram (R21, R22, R45) -/

/-- R22: an item that passed step I. -/
def State.handOn (s : State) (src : Source) (i : Item) (r : Resolution) : State × ItemOutcome :=
  match quantityKind i.kind with
  | some k => s.quantity src i r k
  | none => s.command src i r

/-- R22: an item decided. -/
def State.decideItem (s : State) (src : Source) (i : Item) : State × ItemOutcome :=
  let info := itemInfo src i
  match stepsAtoD s.gateOpen src.level i with
  | some c => s.refuse info c
  | none =>
    match s.resolve i with
    | (s1, .error f) => s1.refuse { info with duty := f.duty } f.cause
    | (s1, .ok r) =>
      match stepsFtoI s1 src i r with
      | some c => s1.refuse (info.resolved r) c
      | none => s1.handOn src i r

/-- The OUTCOME item of an ADMIT_REPLY (R45). -/
def outcomeItem (i : Item) (o : ItemOutcome) : Item :=
  { kind := kOutcome, refKind := i.refKind, refId := i.refId, value := num o.value,
    auxA := code outcomeCodes o.code, auxB := optNum (fun c : Cause => nat c.val) o.cause, tag := i.tag }

/-- R21: the items decided in item order, with their OUTCOME items. -/
def State.decideAll (s : State) (src : Source) : List Item → State × List Item
  | [] => (s, [])
  | i :: rest =>
    let d := s.decideItem src i
    let r := State.decideAll d.1 src rest
    (r.1, outcomeItem i d.2 :: r.2)

/-- R21, R45: a DISPATCH taken. -/
def State.takeDispatch (s : State) (src : Source) (h : Header) (items : List Item) : State :=
  let r := s.decideAll src items
  if wantsReply h then r.1.answer cAdmitReply h.src h.seq r.2 else r.1

end Sys2Proof.Machine
end

