-- ==== Sys2Proof/Machine/Reserve.lean ====
section
/-! DEFINITION. The reserve unit (chapter 8): acceptance and limiting of an activation, the split, the offers, hold
expiry and end, the new slot at a boundary, activated energy, gate closure. -/

namespace Sys2Proof.Machine

/-- A target is in run mode m when its sign agrees with m (R136). -/
def inRunMode (target : Int) : Mode → Bool
  | some .generate => decide (0 < target)
  | some .charge => decide (target < 0)
  | none => false

/-- The record of the active slot. -/
def State.activeSlot (s : State) : Option Slot := s.engine.active.map fun a => s.slots.get (slotPos a)

/-- The stored target of a train in the active slot; 0 while UNSYNCHRONISED. -/
def State.target (s : State) (t : TrainId) : Int := (s.activeSlot.map fun x => x.targets.get t).getD 0

/-- The magnitude of the stored target where it is in the train's run mode, 0 otherwise (R142, R149). -/
def State.scheduled (s : State) (t : TrainId) : Nat :=
  if inRunMode (s.target t) (s.run t).mode then (s.target t).natAbs else 0

/-- R149: a train's base. -/
def State.base (s : State) (t : TrainId) : Nat := min (s.scheduled t) ((s.cfg t).rated (s.run t).mode)

/-- A set value moved by a share: a positive share raises it in GENERATE and lowers it in CHARGE (section 8.1). -/
def moved (m : Mode) (base : Nat) (share : Int) : Int :=
  match m with
  | some .charge => base - share
  | _ => base + share

/-- One step from a set value toward an aim (R142, R150). -/
def stepToward (now aim step : Nat) : Nat := if now < aim then min aim (now + step) else max aim (now - step)

/-- R154: the addition to the active slot's accumulator; none while UNSYNCHRONISED. -/
def State.accumulate (s : State) : State :=
  match s.engine.active with
  | none => s
  | some _ =>
    (s.modActive fun x => { x with accumulator := x.accumulator + Int.tdiv (s.act.applied * s.act.since) 1000 }).modAct
      fun a => { a with since := 0 }

/-! ### The reserve band (R148) -/

/-- The band as worked out so far: reserve up, reserve down, the trains that commitments carrying reserve resolve to. -/
structure ReserveBand where
  up     : Nat := 0
  down   : Nat := 0
  trains : TrainSet := 0
  deriving DecidableEq, Repr

/-- R148: one commitment, resolved with the needed direction RESERVE; one that carries none is left out. -/
def State.bandOne (x : State × ReserveBand) (c : Commit) : State × ReserveBand :=
  match x.1.resolveCommit c (some allowReserve) with
  | (s, .ok r) => (s, { up := x.2.up + c.up, down := x.2.down + c.down, trains := addBit x.2.trains r.train.val })
  | (s, .error _) => (s, x.2)

/-- R148: the band of the active slot. -/
def State.reserveBand (s : State) : State × ReserveBand :=
  ((s.activeSlot.map Slot.commits).getD []).foldl State.bandOne (s, {})

/-- R148: the requested value limited to the band, with ACTIVATION_LIMITED where that changes it. -/
def State.limitRequest (s : State) (b : ReserveBand) : State :=
  let q := s.act.requested
  let l := clampInt (-(b.down : Int)) b.up q
  let s1 := s.modAct fun a => { a with up := b.up, down := b.down, limited := l }
  if l = q then s1
  else s1.raise { cause := Cause.activationLimited, slot := s.engine.active, act := s.act.id, detail := some (num q) }

/-! ### The split (R149) -/

/-- R149: eligibility. -/
def State.carries (s : State) (b : ReserveBand) (t : TrainId) : Bool :=
  (s.cfg t).configured && s.autoRunning t && b.trains.getLsbD t.val && s.reachable t

/-- R149: headroom of a train from its base in the direction of a value. -/
def State.shareRoom (s : State) (t : TrainId) (up : Bool) : Nat :=
  match (s.run t).mode with
  | some .generate => if up then (s.cfg t).ratedGenerate - s.base t else s.base t
  | some .charge => if up then s.base t else (s.cfg t).ratedCharge - s.base t
  | none => 0

/-- R149: one train's part of what is left. -/
def State.splitOne (b : ReserveBand) (up : Bool) (x : State × Nat) (t : TrainId) : State × Nat :=
  if x.1.carries b t then
    let m := min x.2 (x.1.shareRoom t up)
    (x.1.modShare t fun h => { h with share := if up then (m : Int) else -(m : Int), carrier := true }, x.2 - m)
  else (x.1.modShare t fun h => { h with share := 0, carrier := false }, x.2)

/-- The sum of the shares (field 4). -/
def State.sumShares (s : State) : Int := ((fins 6).map fun t => (s.shares.get t).share).sum

/-- R149: the limited value split over the eligible trains in train number order. -/
def State.split (s : State) (b : ReserveBand) : State :=
  let l := s.act.limited
  let s1 := ((fins 6).foldl (State.splitOne b (decide (0 < l))) (s, l.natAbs)).1
  s1.modAct fun a => { a with applied := s1.sumShares }

/-! ### Moving the trains (R150) -/

/-- R150: the aim of a train: base and share, within 0 and the rated power for its run mode. -/
def State.shareAim (s : State) (t : TrainId) : Nat :=
  match (s.run t).mode with
  | none => 0
  | some m =>
    (clampInt 0 ((s.cfg t).rated (some m)) (moved (some m) (s.base t) (s.shares.get t).share)).toNat

/-- A POWER value offered by the reserve unit or the schedule engine: limited to the rated power, then to the cap, and
offered where it differs from the set value (R142, R150). -/
def State.offerPower (s : State) (t : TrainId) (v : Nat) (o : Origin) : State :=
  let v1 := min v ((s.cfg t).rated (s.run t).mode)
  let v2 := min v1 (s.powerCap t)
  if v2 = (s.run t).power then s
  else (s.offer { train := t, kind := .power, value := (v2 : Int), origin := o, clamped := decide (v2 < v1) }).1

/-- R150: a train whose share (or base) has changed: aim, movement mark, and the first step, by the ramp step last read
(R124). -/
def State.moveTrain (s : State) (t : TrainId) : State :=
  let aim := s.shareAim t
  let s1 := s.modShare t fun h => { h with aim := aim, unfinished := true }
  if s.autoRunning t then
    s1.offerPower t (stepToward (s.run t).power aim ((s.cfg t).reserveRamp * s.engine.step)) .reserve
  else s1

/-- R150: the trains a predicate names, in train number order. -/
def State.moveTrains (s : State) (changed : TrainId → Bool) : State :=
  s.pollsLast fun s => ((fins 6).filter changed).foldl State.moveTrain s

/-! ### Taking an ACTIVATION (R147) -/

/-- R147: an accepted activation. -/
def State.activate (s : State) (id : Word) (requested : Int) : State :=
  let s1 := s.accumulate.modAct fun a => { a with active := true, id := some id, requested := requested }
  let b := s1.reserveBand
  let s2 := (b.1.limitRequest b.2).split b.2
  let s3 := s2.moveTrains fun t => (s.shares.get t).share != (s2.shares.get t).share
  s3.modAct fun a =>
    { a with hold := some (seconds s.part.holdTime),
             outcome := if a.limited = a.requested then .accepted else .limited }

/-- R152, steps 1 to 4; the activation id stands, also where an ACTIVATION of value 0 with another id ends it (the model's
choice, log entry 37). -/
def State.endActivation (s : State) : State :=
  let s1 := s.accumulate.modAct fun a =>
    { a with active := false, hold := none, requested := 0, limited := 0, applied := 0 }
  let s2 := { s1 with shares := tabMap (fun h : Share => { h with share := 0, carrier := false }) s1.shares }
  s2.moveTrains fun t => (s.shares.get t).share != 0

/-- R152: the hold timer expires. -/
def State.expireHold (s : State) : State :=
  match s.act.hold with
  | none => s
  | some _ =>
    s.endActivation.raise { cause := Cause.activationExpired, slot := s.engine.active, detail := s.act.id }

/-- The last outcome set (R147). -/
def State.setOutcome (s : State) (o : LastOutcome) : State := s.modAct fun a => { a with outcome := o }

/-- R147: an ACTIVATION taken. -/
def State.takeActivation (s : State) (h : Header) (i : Item) : State :=
  let info (c : Cause) : FaultInfo := { cause := c, station := some h.src, seq := some h.seq, act := some i.auxA }
  if i.kind ≠ 0x38 then
    (s.setOutcome .refusedKind).raise { (info Cause.kindIllegal) with detail := some (i.kind.setWidth 32) }
  else if s.engine.active = none then s.setOutcome .refusedUnsynchronised
  else if !s.gateOpen then (s.setOutcome .refusedGate).raise (info Cause.gateClosed)
  else if i.value = 0 then s.endActivation.setOutcome .ended
  else s.activate i.auxA i.value.toInt

/-! ### Boundaries, ramp steps, gate closure (R151, R153, R155) -/

/-- R153: the new active slot, `oldBases` being the trains' bases in the slot that has closed. -/
def State.reserveNewSlot (s : State) (oldBases : TrainId → Nat) : State :=
  if s.act.active then
    let b := s.reserveBand
    let s1 := (b.1.limitRequest b.2).split b.2
    s1.moveTrains fun t => (s.shares.get t).share != (s1.shares.get t).share || oldBases t != s1.base t
  else s

/-- R151: whether a train's share is dropped at a ramp step. -/
def State.dropsShare (s : State) (t : TrainId) : Bool :=
  (s.shares.get t).share != 0 && !(s.autoRunning t && s.reachable t)

/-- R151: the shares of trains that no longer carry dropped, before the engine takes its first train. -/
def State.dropShares (s : State) : State :=
  let gone := (fins 6).filter s.dropsShare
  if gone.isEmpty then s
  else
    let s1 := gone.foldl (fun s t => s.modShare t fun h => { h with share := 0, unfinished := false }) s.accumulate
    s1.modAct fun a => { a with applied := s1.sumShares }

/-- R155: CLOSE_GATE clears the activation. -/
def State.clearActivation (s : State) : State :=
  let s1 := s.accumulate.modAct fun a =>
    { a with active := false, hold := none, requested := 0, limited := 0, applied := 0 }
  { s1 with shares := tabMap (fun h : Share => { h with share := 0, carrier := false, unfinished := false }) s1.shares }

end Sys2Proof.Machine
end

