-- ==== Sys2Proof/Machine/Schedule.lean ====
section
/-! DEFINITION. The schedule engine (chapter 7): the slot ring, SCHEDULE items, time marks, targets, boundaries, ramp
steps, pre-reservation and settlement. -/

namespace Sys2Proof.Machine

/-- The `k`-th slot number after `a`; past the last number of the 32-bit format a free value (log entry 11). -/
def slotAfter (a : Word) (k : Nat) : Word :=
  if a.toNat + k < 4294967296 then BitVec.ofNat 32 (a.toNat + k) else Config.slotBeyondFormat (a.toNat + k)

/-- The look-ahead as used: not above the gate lead (R124). -/
def Part.ahead (p : Part) : Nat := min p.lookAhead p.gateLead

/-- The pre-reservation lead as used: below the slot length (R124). -/
def Part.lead (p : Part) : Nat := min p.preLead (p.slotLength - 1)

/-- The record a recycled position holds (R126). -/
def recycled (n : Word) : Slot := { number := n }

/-- The record at a slot number's position. -/
def State.slotAt (s : State) (n : Word) : Slot := s.slots.get (slotPos n)

/-- The record for slot `n`, recycled where its position holds another number (R126, R130). -/
def State.recordFor (s : State) (n : Word) : Slot := if (s.slotAt n).number = n then s.slotAt n else recycled n

/-- The record for slot `n` put in place. -/
def State.putSlot (s : State) (n : Word) (x : Slot) : State := s.modSlotAt (slotPos n) fun _ => x

/-! ### Loading (R127 to R129) -/

/-- R127: the refusal of an item before it acts, from its kind, the window, gate closure and the ring. -/
def State.slotRefusal (s : State) (kind : Byte) (n : Word) : Option Cause :=
  let r := s.slotAt n
  let recyclable := r.state == .free || r.state == .closed || s.engine.active.isSome
  if ¬ (0x30 ≤ kind.toNat ∧ kind.toNat ≤ 0x32) then some Cause.kindIllegal
  else if s.engine.active.any fun a => n.toNat ≤ a.toNat + s.part.gateLead then some Cause.slotGateClosed
  else if s.engine.active.any fun a => a.toNat + 47 < n.toNat then some Cause.slotOutOfWindow
  else if r.number = n ∧ r.gatePassed then some Cause.slotGateClosed
  else if r.number ≠ n ∧ recyclable = false then some Cause.slotOutOfWindow
  else none

/-- R128: a commitment placed: the same position's is replaced in its place, a new one joins at the end; none where 8
are held. -/
def placeCommit (l : List Commit) (c : Commit) : Option (List Commit) :=
  if l.any fun d => d.position == c.position then some (l.map fun d => if d.position = c.position then c else d)
  else if 8 ≤ l.length then none
  else some (l ++ [c])

/-- A reserve read as a negative signed number is taken as 0 (R128). -/
def readReserve (w : Word) : Nat := w.toInt.toNat

/-- R128: a COMMIT item against its record. -/
def State.commitItem (s : State) (src : Source) (i : Item) (r : Slot) : Except Cause Slot :=
  if i.refKind ≠ refPosition then .error Cause.kindIllegal
  else if h : i.refId.toNat < 128 then
    if (s.positions.get ⟨i.refId.toNat, h⟩).desk ≠ some src.entry then .error Cause.positionForeign
    else
      let c : Commit :=
        { position := ⟨i.refId.toNat, h⟩, power := i.value.toInt, up := readReserve i.auxB, down := readReserve i.auxC }
      match placeCommit r.commits c with
      | some l => .ok { r with commits := l, state := .provisional, desk := some src.entry }
      | none => .error Cause.slotFull
  else .error Cause.positionUnused

/-- R128, R129: an item that passed R127 against its record. -/
def State.actOnSlot (s : State) (src : Source) (i : Item) (r : Slot) : Except Cause Slot :=
  if i.kind = 0x30 then s.commitItem src i r
  else if i.kind = 0x31 then .ok { r with state := .firm, desk := some src.entry }
  else .ok { r with commits := [], state := .free, desk := some src.entry }

/-- R127: a refused item's fault. -/
def slotFault (src : Source) (i : Item) (c : Cause) : FaultInfo :=
  { cause := c, category := some .schedule, station := some src.address, seq := some src.seq, kind := some i.kind,
    tag := some i.tag, reference := some (referenceWord i.refKind i.refId), detail := some i.auxA }

/-- R127: one SCHEDULE item. -/
def State.scheduleItem (src : Source) (s : State) (i : Item) : State :=
  let n := i.auxA
  match s.slotRefusal i.kind n with
  | some c => s.raise (slotFault src i c)
  | none =>
    match s.actOnSlot src i (s.recordFor n) with
    | .ok x => s.putSlot n x
    | .error c => s.raise (slotFault src i c)

/-- R127: a SCHEDULE taken. -/
def State.takeSchedule (s : State) (src : Source) (items : List Item) : State :=
  items.foldl (State.scheduleItem src) s

/-- R130: slot `n` passes gate closure. -/
def State.passGate (s : State) (n : Word) : State :=
  let r := s.recordFor n
  match r.state with
  | .active | .closed => s
  | _ => s.putSlot n { r with state := .firm, gatePassed := true }

/-! ### Targets (R136) -/

/-- Targets being worked out: the state (the cache), the sums, the commitments left without a train. -/
structure TargetWork where
  state  : State
  sums   : Vector Int 6
  failed : List (Commit × Failure)

/-- The direction a power needs (R136). -/
def powerNeed (p : Int) : Option Nat :=
  if 0 < p then some allowGenerate else if p < 0 then some allowCharge else none

/-- R136: a power with its magnitude lowered to the translation limit. -/
def contribution (p : Int) (limit : Option Nat) : Int :=
  match limit with
  | some l => clampInt (-(l : Int)) l p
  | none => p

/-- R136: one commitment. -/
def targetOne (w : TargetWork) (c : Commit) : TargetWork :=
  match w.state.resolveCommit c (powerNeed c.power) with
  | (s, .ok r) => { w with state := s, sums := modAt w.sums r.train fun x => x + contribution c.power r.limit }
  | (s, .error f) => { w with state := s, failed := w.failed ++ [(c, f)] }

/-- R136: the targets of a slot; one whose position holds another number has no commitments. -/
def State.workTargets (s : State) (n : Word) : TargetWork :=
  (s.recordFor n).commits.foldl targetOne { state := s, sums := Vector.replicate 6 0, failed := [] }

/-- R136: DISPATCH_FAULT for a commitment left without a train at the opening of slot `n`. -/
def dispatchFault (n : Word) (x : Commit × Failure) : FaultInfo :=
  { cause := Cause.dispatchFault, slot := some n, reference := some (referenceWord refPosition (BitVec.ofNat 16 x.1.position.val)),
    duty := x.2.duty, train := x.2.train, detail := some (nat x.2.cause.val) }

/-! ### Settlement (R138, R144, R145) -/

/-- Configured trains, in train number order. -/
def State.configuredTrains (s : State) : List TrainId := (fins 6).filter fun t => (s.cfg t).configured

/-- R145: whether a train's data is incomplete at the close of a slot. -/
def State.closesPartial (s : State) (bases : TrainSet) (t : TrainId) : Bool :=
  let r := (s.run t).report
  !bases.getLsbD t.val || r.gen.isNone || r.chg.isNone || !s.reachable t

/-- R138, field 2: generated energy. -/
def State.generatedEnergy (s : State) (bases : TrainSet) : Nat :=
  ((s.configuredTrains.filter fun t => bases.getLsbD t.val).map fun t =>
    match (s.run t).report.gen with
    | some c => (c - (s.run t).slotGen).toNat
    | none => 0).sum

/-- R138, field 3: charged energy. -/
def State.chargedEnergy (s : State) (bases : TrainSet) : Nat :=
  ((s.configuredTrains.filter fun t => bases.getLsbD t.val).map fun t =>
    match (s.run t).report.chg with
    | some c => (c - (s.run t).slotChg).toNat
    | none => 0).sum

/-- R138, field 1: scheduled energy, rounded toward 0. -/
def scheduledEnergy (slotLength : Nat) (l : List Commit) : Int :=
  Int.tdiv ((l.map Commit.power).sum * slotLength) 3600

/-- R138: the settlement record of a slot record about to be closed with its final flags; a slot closed as MISSED under
R134 has no generated, charged and activated energy. -/
def State.settlementOf (s : State) (x : Slot) (missed : Bool) : Settlement :=
  let gen := if missed then 0 else s.generatedEnergy x.bases
  let chg := if missed then 0 else s.chargedEnergy x.bases
  let act := if missed then 0 else Int.tdiv x.accumulator 3600
  let sch := scheduledEnergy s.part.slotLength x.commits
  { slot := x.number, scheduled := sch, generated := gen, charged := chg, activated := act,
    deviation := (gen : Int) - chg - sch - act, flags := x.flags }

/-- The flags of field 46 as bits in member order. -/
def SlotFlags.bits (f : SlotFlags) : BitVec 4 :=
  (if f.missed then 1 else 0) ||| (if f.undelivered then 2 else 0) ||| (if f.partialData then 4 else 0)
    ||| (if f.adjusted then 8 else 0)

/-- The fields of a settlement record. -/
def Settlement.fields (r : Settlement) : List Word :=
  [r.slot, num r.scheduled, nat r.generated, nat r.charged, num r.activated, num r.deviation,
   r.flags.bits.setWidth 32]

/-- The FIELD items of a SETTLEMENT telegram (R144). -/
def Settlement.items (r : Settlement) : List Item := r.fields.zipIdx.map fun (v, n) => fieldItem 0 n v

/-- Records of the settlement history. -/
def historyDepth : Nat := 16

/-- R144: a record joins the history, which loses its oldest where full. -/
def addHistory (l : List Settlement) (r : Settlement) : List Settlement :=
  if l.length < historyDepth then l ++ [r] else l.tail ++ [r]

/-- R144: where the SETTLEMENT of a slot goes. -/
def State.settlementDest (s : State) (x : Slot) : Option HWord := (x.desk.bind s.deskAddress).or s.part.deskDest

/-- R144: a record added to the history and sent. -/
def State.publish (s : State) (x : Slot) (r : Settlement) : State :=
  let s1 := { s with history := addHistory s.history r }
  match s.settlementDest x with
  | some dst => s1.emit .u cSettlement dst r.items
  | none => s1

/-- R138, R145: slot `n` closed: its flags completed, its record CLOSED, its settlement made. -/
def State.closeSlot (s : State) (n : Word) (missed : Bool) : State :=
  let r := s.recordFor n
  let incomplete := s.configuredTrains.any (s.closesPartial r.bases)
  let x : Slot :=
    { r with state := .closed,
             flags := { r.flags with missed := r.flags.missed || missed,
                                     partialData := r.flags.partialData || incomplete } }
  (s.putSlot n x).publish x (s.settlementOf x missed)

/-! ### Opening (R136, R137 step 4, R145) -/

/-- R145: a train's slot-start counters. -/
def TrainRun.slotStart (r : TrainRun) : TrainRun :=
  { r with slotGen := r.report.gen.getD 0, slotChg := r.report.chg.getD 0 }

/-- R145: the trains whose two counters are present. -/
def State.counterBases (s : State) : TrainSet :=
  s.configuredTrains.foldl
    (fun b t => if (s.run t).report.gen.isSome && (s.run t).report.chg.isSome then addBit b t.val else b) 0

/-- R145: the slot-start counters of every configured train. -/
def State.takeBases (s : State) : State := s.configuredTrains.foldl (fun s t => s.modRun t TrainRun.slotStart) s

/-- R137, step 4 without its timers: targets worked out and stored, counters taken, PARTIAL_DATA judged. -/
def State.openSlot (s : State) (n : Word) : State :=
  let w := s.workTargets n
  let s1 := w.state.modActive fun x => { x with targets := w.sums }
  let s2 := w.failed.foldl (fun s x => s.raise (dispatchFault n x)) s1
  let s3 := s2.takeBases.modActive fun x =>
    { x with bases := s2.counterBases,
             flags := { x.flags with partialData := x.flags.partialData ||
               s2.configuredTrains.any fun t => (s2.run t).state == .unknown } }
  s3.modAct fun a => { a with since := 0 }

/-! ### Dispatch of trains (R139, R140, R143) -/

/-- UNDELIVERED set in the active record. -/
def State.undelivered (s : State) : State :=
  s.modActive fun x => { x with flags := { x.flags with undelivered := true } }

/-- Targets of the slots after the active one worked out so far in an opening, nearest first, with their numbers. -/
abbrev AheadTargets := List (Word × Vector Int 6)

/-- The state in an opening, with the targets ahead worked out so far. -/
abbrev Opening := State × AheadTargets

/-- R136, R139, R140: the nearest slot after `a` whose targets meet a condition, among `n` slots beyond those worked out
so far; targets are worked out when a search comes to their slot, once in an opening (log entry 34). -/
def searchOn (a : Word) (p : Vector Int 6 → Bool) : Nat → Opening → Opening × Option (Word × Vector Int 6)
  | 0, x => (x, none)
  | n + 1, x =>
    let k := slotAfter a (x.2.length + 1)
    let w := x.1.workTargets k
    let y : Opening := (w.state, x.2 ++ [(k, w.sums)])
    if p w.sums then (y, some (k, w.sums)) else searchOn a p n y

/-- R139, R140: the nearest slot from a + 1 to a + look-ahead whose targets meet a condition. -/
def searchAhead (a : Word) (x : Opening) (p : Vector Int 6 → Bool) : Opening × Option (Word × Vector Int 6) :=
  match x.2.find? fun y => p y.2 with
  | some y => (x, some y)
  | none => searchOn a p (x.1.part.ahead - x.2.length) x

/-- UNDELIVERED set where a train's target is not 0. -/
def State.undeliveredFor (s : State) (t : TrainId) : State := if s.target t = 0 then s else s.undelivered

/-- R139: STOP requested for a train that has no target to run toward. -/
def State.stopUnscheduled (s : State) (t : TrainId) : State := ((s.undeliveredFor t).requestStopNow t none {}).1

/-- R139: one configured train. -/
def dispatchTrain (a : Word) (x : Opening) (t : TrainId) : Opening :=
  let m := (x.1.run t).mode
  if !x.1.autoRunning t then (x.1.undeliveredFor t, x.2)
  else if inRunMode (x.1.target t) m then x
  else if x.1.target t = 0 then
    match searchAhead a x fun v => inRunMode (v.get t) m with
    | (y, some _) => y
    | (y, none) => (y.1.stopUnscheduled t, y.2)
  else (x.1.stopUnscheduled t, x.2)

/-- R121, R137 step 7: one train rolled. -/
def State.rollTrain (a : Word) (s : State) (t : TrainId) : State :=
  if s.autoRunning t && inRunMode (s.target t) (s.run t).mode then s.rollHeat t a (s.target t) else s

/-- The mode of a target's sign. -/
def signMode (g : Int) : RunMode := if 0 < g then .generate else .charge

/-- R140: START requested for a train toward its target in slot `n`. -/
def State.startToward (s : State) (t : TrainId) (n : Word) (target : Int) : State :=
  (s.requestStart t (signMode target) { schedule := some (n, some target) }).1

/-- R140: one train's look-ahead start, toward its target in the active slot or else in the nearest slot ahead. -/
def startAhead (a : Word) (x : Opening) (t : TrainId) : Opening :=
  if (x.1.run t).auto && (x.1.run t).state == .standstill then
    if x.1.target t ≠ 0 then (x.1.startToward t a (x.1.target t), x.2)
    else
      match searchAhead a x fun v => v.get t != 0 with
      | (y, some (n, v)) => (y.1.startToward t n (v.get t), y.2)
      | (y, none) => y
  else x

/-- R143: while the gate is CLOSED, a target not 0 is undelivered. -/
def State.closedUndelivered (s : State) : State :=
  if (fins 6).any fun t => s.target t != 0 then s.undelivered else s

/-- R137, steps 5 to 8, for the newly opened slot `a` with the gate OPEN. -/
def State.runSlot (s : State) (a : Word) (oldBases : TrainId → Nat) : State :=
  let s1 := s.reserveNewSlot oldBases
  let x := s1.configuredTrains.foldl (dispatchTrain a) (s1, [])
  let s2 := x.1.configuredTrains.foldl (State.rollTrain a) x.1
  (s2.configuredTrains.foldl (startAhead a) (s2, x.2)).1

/-- R137, steps 5 to 8; while the gate is CLOSED R143 stands in their place. -/
def State.afterOpening (s : State) (a : Word) (oldBases : TrainId → Nat) : State :=
  if s.gateOpen then s.pollsLast fun s => s.runSlot a oldBases else s.closedUndelivered

/-! ### Timers of a slot -/

/-- The pre-reservation timer `o` seconds into a slot: RUNNING, or DONE where its time is past. -/
def preTimer (p : Part) (o : Nat) : PreTimer :=
  if p.lead + o < p.slotLength then .running (seconds (p.slotLength - p.lead - o)) else .done

/-! ### Pre-reservation (R141) -/

/-- R141: one train's NEXT request. -/
def askNextFor (n : Word) (sums : Vector Int 6) (s : State) (t : TrainId) : State :=
  if s.autoRunning t && inRunMode (sums.get t) (s.run t).mode then s.askNext t n (sums.get t) else s

/-- R141: the pre-reservation: DONE, and with the gate OPEN the NEXT requests for slot a + 1. -/
def State.preReserve (s : State) : State :=
  let s1 := { s with engine := { s.engine with pre := .done } }
  match s.engine.active with
  | none => s1
  | some a =>
    let n := slotAfter a 1
    if s.gateOpen ∧ (s.slotAt n).number = n then
      let w := s1.workTargets n
      w.state.configuredTrains.foldl (askNextFor n w.sums) w.state
    else s1

/-- R141: the pre-reservation timer expires. -/
def State.expirePre (s : State) : State :=
  match s.engine.pre with
  | .running _ => s.preReserve
  | _ => s

/-! ### The boundary (R137) -/

/-- R137, step 2: slot `n` becomes active. -/
def State.activateSlot (s : State) (n : Word) : State :=
  let s1 := s.putSlot n { s.recordFor n with state := .active }
  { s1 with engine := { s1.engine with active := some n } }

/-- R137, step 3: gate closure after a boundary that made `n` active. -/
def State.closeGateAhead (s : State) (n : Word) : State :=
  (List.range s.part.gateLead).foldl (fun s k => s.passGate (slotAfter n (k + 1))) s

/-- R137: the boundary timer expires in slot `a`. -/
def State.boundary (s : State) (a : Word) : State :=
  let n := slotAfter a 1
  let s1 := ((s.accumulate.closeSlot a false).activateSlot n).closeGateAhead n
  let s2 := { s1 with engine := { s1.engine with boundary := some (seconds s1.part.slotLength), pre := preTimer s1.part 0 } }
  (s2.openSlot n).afterOpening n s.base

/-- R137: expiry of the boundary timer. -/
def State.expireBoundary (s : State) : State :=
  match s.engine.boundary, s.engine.active with
  | some _, some a => s.boundary a
  | _, _ => s

/-! ### Time marks (R131 to R134) -/

/-- R132, steps 1 to 4, for slot `n` at offset `o`. -/
def State.synchronise (s : State) (n : Word) (o : Nat) (oldBases : TrainId → Nat) : State :=
  let r := s.recordFor n
  let r1 := if r.state = .closed then recycled n else r
  let s1 := s.putSlot n { r1 with state := .active, gatePassed := true }
  let s2 :=
    { s1 with
      engine :=
        { active := some n
          boundary := some (seconds (s.part.slotLength - o))
          pre := preTimer s.part o
          ramp := some (seconds s.part.rampStep)
          step := s.part.rampStep
          mark := some (seconds s.part.markLimit) } }
  ((s2.closeGateAhead n).openSlot n).afterOpening n oldBases

/-- R133: a mark for the active slot corrects the timers. -/
def State.correct (s : State) (o : Nat) : State :=
  let err := ((o : Int) - s.slotOffset).natAbs
  let s1 :=
    { s with engine := { s.engine with boundary := some (seconds (s.part.slotLength - o)),
                                       mark := some (seconds s.part.markLimit) } }
  let s2 :=
    if s.part.timeTolerance < err then s1.modActive fun x => { x with flags := { x.flags with adjusted := true } }
    else s1
  if s.engine.pre = .done then s2
  else
    match preTimer s.part o with
    | .running ms => { s2 with engine := { s2.engine with pre := .running ms } }
    | _ => s2.preReserve

/-- R134, step 2: the slots skipped, closed as MISSED. -/
def State.closeMissed (s : State) (a : Word) (skipped : Nat) : State :=
  (List.range (min skipped 47)).foldl (fun s k => s.closeSlot (slotAfter a (k + 1)) true) s

/-- R134: a mark for a later slot. -/
def State.jump (s : State) (a n : Word) (o : Nat) : State :=
  let skipped := n.toNat - a.toNat - 1
  let s1 := s.accumulate.modActive fun x => { x with flags := { x.flags with adjusted := true } }
  let s2 := (s1.closeSlot a false).closeMissed a skipped
  let s3 :=
    if skipped = 0 then s2
    else s2.raise { cause := Cause.slotMissed, category := some .schedule, slot := some n, detail := some (nat skipped) }
  s3.synchronise n o s.base

/-- R131: the offset taken: within 0 and the slot length minus 1. -/
def takenOffset (slotLength : Nat) (w : Word) : Nat :=
  if w.toInt < 0 then 0 else if (slotLength : Int) ≤ w.toInt then slotLength - 1 else w.toInt.toNat

/-- R131: a TIMEMARK taken; an item that is no MARK has no effect (log entry 40). -/
def State.takeMark (s : State) (h : Header) (i : Item) : State :=
  if i.kind ≠ 0x3C then s
  else
    let o := takenOffset s.part.slotLength i.value
    let n := i.auxA
    match s.engine.active with
    | none => s.synchronise n o s.base
    | some a =>
      if n = a then s.correct o
      else if n.toNat < a.toNat then
        s.raise { cause := Cause.timeBackward, category := some .time, station := some h.src, seq := some h.seq,
                  detail := some n }
      else s.jump a n o

/-- R135: the time-mark timer expires. -/
def State.expireMark (s : State) : State :=
  match s.engine.mark with
  | none => s
  | some _ =>
    State.raise { s with engine := { s.engine with mark := some (seconds s.part.markLimit) } }
      { cause := Cause.timeStale, category := some .time }

/-! ### Ramp steps (R142, R151) -/

/-- R142, R151: one train at a ramp step. -/
def State.rampTrain (s : State) (t : TrainId) : State :=
  if !s.autoRunning t then s
  else
    let h := s.shares.get t
    let aim := (moved (s.run t).mode (s.scheduled t) h.share).toNat
    let rate := if h.unfinished then (s.cfg t).reserveRamp else (s.cfg t).rampRate
    let s1 := s.offerPower t (stepToward (s.run t).power aim (rate * s.engine.step)) .schedule
    if h.unfinished && (s1.run t).power == aim then s1.modShare t fun h => { h with unfinished := false } else s1

/-- R142: the ramp step timer expires; its restart reads the ramp step (R124). -/
def State.expireRamp (s : State) : State :=
  match s.engine.ramp with
  | none => s
  | some _ =>
    let s1 := { s with engine := { s.engine with ramp := some (seconds s.part.rampStep), step := s.part.rampStep } }
    if s.gateOpen && s.engine.active.isSome then
      s1.dropShares.pollsLast fun s2 => s2.configuredTrains.foldl State.rampTrain s2
    else s1

end Sys2Proof.Machine
end

