-- ==== Sys2Proof/Machine/Tables.lean ====
section
/-! DEFINITION. The configuration tables as management sees them (R178 to R181 and the field rules R10, R27, R28, R40,
R47, R90, R95, R106, R107, R163, R171): how a written value is judged and legalised, and how a field is read. -/

namespace Sys2Proof.Machine

/-- Refusal causes of a reply, codes 0 to 6 (section 11.1). -/
inductive MCause where
  | level
  | badValue
  | inUse
  | duplicate
  | badIndex
  | inconsistent
  | busBusy
  deriving DecidableEq, Repr

/-- Refusal causes in the order of their codes. -/
def mCauses : List MCause := [.level, .badValue, .inUse, .duplicate, .badIndex, .inconsistent, .busBusy]

/-- A refusal; INCONSISTENT names a table code and an entry index. -/
structure MRefusal where
  cause : MCause
  place : Option (Nat × Nat) := none
  deriving DecidableEq, Repr

/-! ### One table's field rules -/

/-- How one table takes a field: `put` stores a value, legalised, or refuses it BAD_VALUE; `get` reads a field;
`fix` legalises the entry as it would stand, given the fields written; `bad` is BAD_VALUE judged on that entry for an item
that writes the field of a number; `kept` names a field whose written value is ignored and always named legalised. -/
structure Table (n : Nat) (α : Type) where
  fields : Nat
  put    : Fin n → Nat → Word → α → Option α
  get    : Fin n → α → Nat → Word
  fix    : List Nat → α → α := fun _ e => e
  bad    : Nat → α → Bool := fun _ _ => false
  kept   : Fin n → Nat → Bool := fun _ _ => false

/-- R179: whether a later item writes the same field of the same entry, so that the value of this one is not judged. -/
def superseded (f : Field) (rest : List Field) : Bool :=
  rest.any fun g => g.index == f.index && g.number == f.number

/-- The FIELD items whose value counts: a later one of the same field of the same entry replaces an earlier (R179). -/
def lastWrites : List Field → List Field
  | [] => []
  | f :: rest => if superseded f rest then lastWrites rest else f :: lastWrites rest

/-- The entry of a table a FIELD item names. -/
def Field.entry (f : Field) (n : Nat) : Option (Fin n) := if h : f.index.toNat < n then some ⟨f.index.toNat, h⟩ else none

/-- Entries of a table a request writes, in index order. -/
def writtenEntries (n : Nat) (fs : List Field) : List (Fin n) :=
  (fins n).filter fun i => fs.any fun f => f.index.toNat == i.val

/-- The field numbers a request writes in an entry. -/
def writtenFields {n : Nat} (fs : List Field) (i : Fin n) : List Nat :=
  (fs.filter fun f => f.index.toNat == i.val).map fun f => f.number.toNat

/-- One written value stored in a table; one that is refused leaves it. -/
def Table.store {n : Nat} {α : Type} (T : Table n α) (v : Vector α n) (f : Field) : Vector α n :=
  match Field.entry f n with
  | none => v
  | some i =>
    match T.put i f.number.toNat f.value (v.get i) with
    | some e => upd v i e
    | none => v

/-- The table as it would stand after the request (R179). -/
def Table.after {n : Nat} {α : Type} (T : Table n α) (v : Vector α n) (fs : List Field) : Vector α n :=
  (writtenEntries n fs).foldl (fun w i => modAt w i (T.fix (writtenFields fs i))) (fs.foldl T.store v)

/-- R179: the refusal of a FIELD item that `rest` follows: its index, its field number, and, unless a later item replaces
it, its value, judged on the table `w` as it would stand. -/
def Table.itemRefusal {n : Nat} {α : Type} (T : Table n α) (w : Vector α n) (f : Field) (rest : List Field) :
    Option MCause :=
  match Field.entry f n with
  | none => some .badIndex
  | some i =>
    if T.fields ≤ f.number.toNat then some .badValue
    else if superseded f rest then none
    else if (T.put i f.number.toNat f.value (w.get i)).isNone || T.bad f.number.toNat (w.get i) then some .badValue
    else none

/-- R179: the first refusal in item order. -/
def Table.firstRefusal {n : Nat} {α : Type} (T : Table n α) (w : Vector α n) : List Field → Option MCause
  | [] => none
  | f :: rest =>
    match T.itemRefusal w f rest with
    | some c => some c
    | none => T.firstRefusal w rest

/-- The FIELD item naming a field stored at another value than the one written (R178). -/
def Table.legalisedItem {n : Nat} {α : Type} (T : Table n α) (w : Vector α n) (f : Field) : Option Item :=
  match Field.entry f n with
  | none => none
  | some i =>
    let v := T.get i (w.get i) f.number.toNat
    if T.kept i f.number.toNat || v != f.value then some (fieldItem i.val f.number.toNat v) else none

/-- R179: a request judged item by item: the first refusal in item order, or the table and the legalised fields, in item
order (the model's choice, log entry 48). -/
def Table.judge {n : Nat} {α : Type} (T : Table n α) (v : Vector α n) (fs : List Field) :
    Except MRefusal (Vector α n × List Item) :=
  let eff := lastWrites fs
  let w := T.after v eff
  match T.firstRefusal w fs with
  | some c => .error { cause := c }
  | none => .ok (w, eff.filterMap (T.legalisedItem w))

/-! ### Table codes (section 11.1) -/

abbrev tStations : Nat := 0
abbrev tPermissions : Nat := 1
abbrev tPositions : Nat := 2
abbrev tDuties : Nat := 3
abbrev tTrains : Nat := 4
abbrev tCaverns : Nat := 5
abbrev tBands : Nat := 6
abbrev tStores : Nat := 7
abbrev tLayers : Nat := 8
abbrev tScan : Nat := 9
abbrev tRoutes : Nat := 10
abbrev tPart : Nat := 11

/-! ### STATIONS (R10) -/

/-- A station address 0x0000 to 0xFFFE: 0xFFFF is refused, a value beyond is legalised. -/
def readAddress (w : Word) : Option HWord :=
  if w = 0xFFFF then none else some (BitVec.ofNat 16 (legalNat 0 0xFFFE w))

/-- A via: absent, or an entry index, legalised. -/
def readVia (w : Word) : Option StationId :=
  if w = absent then none else some (Fin.ofNat 32 (legalNat 0 31 w))

def putStation (f : Nat) (w : Word) (e : Station) : Option Station :=
  match f with
  | 0 => (readFlag w).map fun x => { e with inUse := x }
  | 1 => (readAddress w).map fun x => { e with address := x }
  | 2 => (ofCode portListing w).map fun x => { e with port := x }
  | 3 => (ofCode roleListing w).map fun x => { e with role := x }
  | 4 => some { e with level := legalNat 0 3 w }
  | 5 => (readFlag w).map fun x => { e with manage := x }
  | 6 => some { e with via := readVia w }
  | 7 => some { e with idHigh := w }
  | 8 => some { e with idLow := w }
  | _ => none

def getStation (e : Station) : Nat → Word
  | 0 => flag e.inUse
  | 1 => e.address.setWidth 32
  | 2 => code portListing e.port
  | 3 => code roleListing e.role
  | 4 => nat e.level
  | 5 => flag e.manage
  | 6 => optNum (fun i : StationId => nat i.val) e.via
  | 7 => e.idHigh
  | _ => e.idLow

/-- Roles of port D. -/
def Role.ofD (r : Role) : Bool := r == .train || r == .coupler

/-- R10: role against port, manage on a D entry, via on a U entry: found at an item that writes a field the condition
names (log entry 16). -/
def badStation (field : Nat) (e : Station) : Bool :=
  let role := match e.port with
    | .u => e.role.ofD
    | .d => !e.role.ofD
  let manage := e.port == .d && e.manage
  let via := e.port == .u && e.via.isSome
  match field with
  | 2 => role || manage || via
  | 3 => role
  | 5 => manage
  | 6 => via
  | _ => false

/-- R10: the level of a D entry is legalised to 0. -/
def fixStation (e : Station) : Station := if e.port = .d then { e with level := 0 } else e

def stationTable : Table 32 Station :=
  { fields := 9, put := fun _ => putStation, get := fun _ => getStation, fix := fun _ => fixStation, bad := badStation }

/-! ### PERMISSIONS, POSITIONS, DUTIES (R27, R28, R40) -/

def permissionTable : Table 192 (BitVec 9) :=
  { fields := 1, put := fun _ _ w _ => readSet 9 w, get := fun _ e _ => bits e }

def putPosition (f : Nat) (w : Word) (e : Position) : Option Position :=
  match f with
  | 0 => (ofCode posStateListing w).map fun x => { e with state := x }
  | 1 => (readIndex 16 w).map fun x => { e with duty := x }
  | 2 => (readSet 3 w).map fun x => { e with allow := x }
  | 3 => (readOptIndex 32 w).map fun x => { e with desk := x }
  | 4 => some { e with limit := legalNat 0 400000 w }
  | _ => none

def getPosition (e : Position) : Nat → Word
  | 0 => code posStateListing e.state
  | 1 => nat e.duty.val
  | 2 => bits e.allow
  | 3 => optNum (fun i : StationId => nat i.val) e.desk
  | _ => nat e.limit

def positionTable : Table 128 Position := { fields := 5, put := fun _ => putPosition, get := fun _ => getPosition }

def putDuty (f : Nat) (w : Word) (e : Duty) : Option Duty :=
  match f with
  | 0 => (readFlag w).map fun x => { e with mapped := x }
  | 1 => (readIndex 6 w).map fun x => { e with train := x }
  | 2 => (readSet 3 w).map fun x => { e with allow := x }
  | 3 => some { e with limit := legalNat 0 400000 w }
  | _ => none

def getDuty (e : Duty) : Nat → Word
  | 0 => flag e.mapped
  | 1 => nat e.train.val
  | 2 => bits e.allow
  | _ => nat e.limit

def dutyTable : Table 16 Duty := { fields := 4, put := fun _ => putDuty, get := fun _ => getDuty }

/-! ### TRAINS (R47) -/

def putTrainCfg (f : Nat) (w : Word) (e : TrainCfg) : Option TrainCfg :=
  match f with
  | 0 => (readFlag w).map fun x => { e with configured := x }
  | 1 => (readIndex 32 w).map fun x => { e with controller := x }
  | 2 => (ofCode kindListing w).map fun x => { e with kind := x }
  | 3 => (readIndex 2 w).map fun x => { e with cavern := x }
  | 4 => (readIndex 4 w).map fun x => { e with store := x }
  | 5 => some { e with ratedCharge := legalNat 0 400000 w }
  | 6 => some { e with ratedGenerate := legalNat 0 400000 w }
  | 7 => some { e with minStable := legalNat 0 400000 w }
  | 8 => some { e with rampRate := legalNat 1 20000 w }
  | 9 => some { e with reserveRamp := legalNat 1 20000 w }
  | 10 => some { e with reactiveLimit := legalNat 0 200000 w }
  | 11 => some { e with reheatApproach := legalNat 0 2000 w }
  | 12 => some { e with heatGenerate := legalNat 0 2000 w }
  | 13 => some { e with heatCharge := legalNat 0 2000 w }
  | 14 => some { e with defaultEnergy := legalNat 0 4000000 w }
  | 15 => some { e with engageTimeout := legalNat 5 600 w }
  | 16 => some { e with startTimeout := legalNat 30 1800 w }
  | 17 => some { e with stopTimeout := legalNat 30 1800 w }
  | 18 => some { e with pacingGap := legalNat 10 1000 w }
  | 19 => some { e with ceiling := legalNat 0 3 w }
  | _ => none

def getTrainCfg (e : TrainCfg) : Nat → Word
  | 0 => flag e.configured
  | 1 => nat e.controller.val
  | 2 => code kindListing e.kind
  | 3 => nat e.cavern.val
  | 4 => nat e.store.val
  | 5 => nat e.ratedCharge
  | 6 => nat e.ratedGenerate
  | 7 => nat e.minStable
  | 8 => nat e.rampRate
  | 9 => nat e.reserveRamp
  | 10 => nat e.reactiveLimit
  | 11 => nat e.reheatApproach
  | 12 => nat e.heatGenerate
  | 13 => nat e.heatCharge
  | 14 => nat e.defaultEnergy
  | 15 => nat e.engageTimeout
  | 16 => nat e.startTimeout
  | 17 => nat e.stopTimeout
  | 18 => nat e.pacingGap
  | _ => nat e.ceiling

def trainTable : Table 6 Train :=
  { fields := 20
    put := fun _ f w e => (putTrainCfg f w e.cfg).map fun x => { e with cfg := x }
    get := fun _ e => getTrainCfg e.cfg }

/-! ### CAVERNS, BANDS (R90, R95) -/

def putCavernCfg (f : Nat) (w : Word) (e : CavernCfg) : Option CavernCfg :=
  match f with
  | 0 => (readFlag w).map fun x => { e with configured := x }
  | 1 => some e
  | 2 => some e
  | 3 => some { e with minOp := legalNat 0 30000 w }
  | 4 => some { e with maxOp := legalNat 0 30000 w }
  | 5 => some { e with hardMin := legalNat 0 30000 w }
  | 6 => some { e with hardMax := legalNat 0 30000 w }
  | 7 => some { e with tolerance := legalNat 0 30000 w }
  | 8 => some { e with staleness := legalNat 1 30 w }
  | 9 => some { e with blindLimit := legalNat 10 300 w }
  | 10 => some { e with rateWindow := legalNat 60 900 w }
  | _ => none

/-- A derived scan point: the entry's index, or absent. -/
def pointField (p : Option ScanId) : Word := optNum (fun i : ScanId => nat i.val) p

def getCavernCfg (a b : Option ScanId) (e : CavernCfg) : Nat → Word
  | 0 => flag e.configured
  | 1 => pointField a
  | 2 => pointField b
  | 3 => nat e.minOp
  | 4 => nat e.maxOp
  | 5 => nat e.hardMin
  | 6 => nat e.hardMax
  | 7 => nat e.tolerance
  | 8 => nat e.staleness
  | 9 => nat e.blindLimit
  | _ => nat e.rateWindow

def cavernTable (s : State) : Table 2 Cavern :=
  { fields := 11
    put := fun _ f w e => (putCavernCfg f w e.cfg).map fun x => { e with cfg := x }
    get := fun c e => getCavernCfg (s.cavernPoint c .a) (s.cavernPoint c .b) e.cfg
    kept := fun _ f => f == 1 || f == 2 }

def putBand (f : Nat) (w : Word) (e : Band) : Option Band :=
  match f with
  | 0 => some { e with bound := legalNat 0 30000 w }
  | 1 => some { e with charge := legalNat 0 2400000 w }
  | 2 => some { e with generate := legalNat 0 2400000 w }
  | 3 => some { e with maxRise := legalNat 0 100000 w }
  | 4 => some { e with maxFall := legalNat 0 100000 w }
  | _ => none

def getBand (e : Band) : Nat → Word
  | 0 => nat e.bound
  | 1 => nat e.charge
  | 2 => nat e.generate
  | 3 => nat e.maxRise
  | _ => nat e.maxFall

def bandTable : Table 16 Band := { fields := 5, put := fun _ => putBand, get := fun _ => getBand }

/-! ### STORES, LAYERS (R106, R107) -/

def putStoreCfg (f : Nat) (w : Word) (e : StoreCfg) : Option StoreCfg :=
  match f with
  | 0 => (readFlag w).map fun x => { e with configured := x }
  | 1 => some { e with capacity := legalNat 0 4000000 w }
  | 2 => some { e with minReserve := legalNat 0 4000000 w }
  | 3 => some { e with layerCount := legalNat 1 16 w }
  | 4 => some { e with staleness := legalNat 1 60 w }
  | 5 => some { e with minGrant := legalNat 0 400000 w }
  | 6 => some { e with quantum := legalNat 1 400000 w }
  | _ => none

def getStoreCfg (e : StoreCfg) : Nat → Word
  | 0 => flag e.configured
  | 1 => nat e.capacity
  | 2 => nat e.minReserve
  | 3 => nat e.layerCount
  | 4 => nat e.staleness
  | 5 => nat e.minGrant
  | _ => nat e.quantum

def storeTable : Table 4 Store :=
  { fields := 7
    put := fun _ f w e => (putStoreCfg f w e.cfg).map fun x => { e with cfg := x }
    get := fun _ e => getStoreCfg e.cfg }

def putLayer (f : Nat) (w : Word) (e : Layer) : Option Layer :=
  match f with
  | 0 => some { e with coefficient := legalNat 0 50000 w }
  | 1 => some { e with base := legalInt (-1000) 10000 w }
  | 2 => some e
  | _ => none

def getLayer (p : Option ScanId) (e : Layer) : Nat → Word
  | 0 => nat e.coefficient
  | 1 => num e.base
  | _ => pointField p

def layerTable (s : State) : Table 64 Layer :=
  { fields := 3, put := fun _ => putLayer, get := fun l => getLayer (s.pointFor .layer l.val), kept := fun _ f => f == 2 }

/-! ### SCAN (R163) -/

def putScan (f : Nat) (w : Word) (e : ScanEntry) : Option ScanEntry :=
  match f with
  | 0 => (readFlag w).map fun x => { e with inUse := x }
  | 1 => (readIndex 128 w).map fun x => { e with address := BitVec.ofNat 7 x.val }
  | 2 => some { e with register := BitVec.ofNat 8 (legalNat 0 255 w) }
  | 3 => (ofCode formatListing w).map fun x => { e with format := x }
  | 4 => some { e with gain := legalInt (-1000000) 1000000 w }
  | 5 => some { e with offset := legalInt (-1000000) 1000000 w }
  | 6 => (ofCode destListing w).map fun x => { e with destKind := x }
  | 7 => some { e with destIndex := legalNat 0 255 w }
  | 8 => some { e with period := legalNat 1 16 w }
  | _ => none

def getScan (e : ScanEntry) : Nat → Word
  | 0 => flag e.inUse
  | 1 => e.address.setWidth 32
  | 2 => e.register.setWidth 32
  | 3 => code formatListing e.format
  | 4 => num e.gain
  | 5 => num e.offset
  | 6 => code destListing e.destKind
  | 7 => nat e.destIndex
  | _ => nat e.period

def scanTable : Table 48 ScanEntry := { fields := 9, put := fun _ => putScan, get := fun _ => getScan }

/-! ### ROUTES (R171) -/

def putRoute (c : Cause) (f : Nat) (w : Word) (e : Route) : Option Route :=
  if 2 ≤ f then none
  else if fixedRoute c then some e
  else if f = 0 then (readFlag w).map fun x => { e with plant := x }
  else (readFlag w).map fun x => { e with desk := x }

def getRoute (e : Route) : Nat → Word
  | 0 => flag e.plant
  | _ => flag e.desk

def routeTable : Table 61 Route :=
  { fields := 2, put := putRoute, get := fun _ => getRoute, kept := fun c f => fixedRoute c && f < 2 }

/-! ### PART (R124, R181) -/

/-- R124: a slot length legalised to its range and rounded down to a multiple of 60. -/
def legalSlotLength (w : Word) : Nat := legalNat 60 900 w / 60 * 60

def putPart (f : Nat) (w : Word) (e : Part) : Option Part :=
  match f with
  | 0 => (readAddress w).map fun x => { e with address := x }
  | 1 => some { e with ethHigh := BitVec.ofNat 16 (legalNat 0 65535 w) }
  | 2 => some { e with ethLow := w }
  | 3 => some { e with telegramType := BitVec.ofNat 16 (legalNat 0x0600 0xFFFF w) }
  | 4 => (readFlag w).map fun x => { e with foreignPass := x }
  | 5 => some { e with rollPeriod := legalNat 1 60 w }
  | 6 => some { e with replyTimeout := legalNat 20 500 w }
  | 7 => some { e with missLimit := legalNat 1 10 w }
  | 8 => some { e with failureLimit := legalNat 1 7 w }
  | 9 => some { e with slotLength := legalSlotLength w }
  | 10 => some { e with gateLead := legalNat 1 12 w }
  | 11 => some { e with lookAhead := legalNat 1 6 w }
  | 12 => some { e with preLead := legalNat 10 120 w }
  | 13 => some { e with rampStep := legalNat 2 60 w }
  | 14 => some { e with timeTolerance := legalNat 1 10 w }
  | 15 => some { e with markLimit := legalNat 10 600 w }
  | 16 => some { e with holdTime := legalNat 1 60 w }
  | 17 => (readFlag w).map fun x => { e with fastBus := x }
  | 18 => some { e with stretchLimit := legalNat 1 50 w }
  | 19 => some { e with hangLimit := legalNat 5 100 w }
  | 20 => some { e with scanInterval := legalNat 100 10000 w }
  | 21 => some { e with safetyDest := readDest w }
  | 22 => some { e with plantDest := readDest w }
  | 23 => some { e with deskDest := readDest w }
  | _ => none

def destField (d : Option HWord) : Word := optNum (fun a : HWord => a.setWidth 32) d

def getPart (e : Part) : Nat → Word
  | 0 => e.address.setWidth 32
  | 1 => e.ethHigh.setWidth 32
  | 2 => e.ethLow
  | 3 => e.telegramType.setWidth 32
  | 4 => flag e.foreignPass
  | 5 => nat e.rollPeriod
  | 6 => nat e.replyTimeout
  | 7 => nat e.missLimit
  | 8 => nat e.failureLimit
  | 9 => nat e.slotLength
  | 10 => nat e.gateLead
  | 11 => nat e.lookAhead
  | 12 => nat e.preLead
  | 13 => nat e.rampStep
  | 14 => nat e.timeTolerance
  | 15 => nat e.markLimit
  | 16 => nat e.holdTime
  | 17 => flag e.fastBus
  | 18 => nat e.stretchLimit
  | 19 => nat e.hangLimit
  | 20 => nat e.scanInterval
  | 21 => destField e.safetyDest
  | 22 => destField e.plantDest
  | _ => destField e.deskDest

/-- R124: a written look-ahead is lowered to the gate lead, a written pre-reservation lead below the slot length. -/
def fixPart (written : List Nat) (e : Part) : Part :=
  let e1 := if written.contains 11 then { e with lookAhead := min e.lookAhead e.gateLead } else e
  if written.contains 12 then { e1 with preLead := min e1.preLead (e1.slotLength - 1) } else e1

/-- R181: fields 1 and 2 together a group address, the lowest bit of the first octet set: found at an item that writes
one of the two (log entry 16). -/
def groupAddress (field : Nat) (e : Part) : Bool := (field == 1 || field == 2) && e.ethHigh.getLsbD 8

def partTable : Table 1 Part :=
  { fields := 24, put := fun _ => putPart, get := fun _ => getPart, fix := fixPart, bad := groupAddress }

end Sys2Proof.Machine
end

