-- ==== Sys2Proof/Machine/Reads.lean ====
section
/-! DEFINITION. What READ_ENTRIES and READ_STATE read (R180): the configuration fields of a table's entries and the
dynamic fields of a block's index, as the listings of chapters 1 to 11 give them. -/

namespace Sys2Proof.Machine

/-- Numbered fields of one index. -/
abbrev Fields := List (Nat × Word)

/-- Consecutive fields from a first number. -/
def fieldsFrom (first : Nat) (l : List Word) : Fields := l.zipIdx.map fun (v, k) => (first + k, v)

/-! ### READ_ENTRIES -/

/-- The configuration fields of entry `i` of a table. -/
def Table.read {n : Nat} {α : Type} (T : Table n α) (v : Vector α n) (i : Nat) : Option Fields :=
  if h : i < n then some ((List.range T.fields).map fun f => (f, T.get ⟨i, h⟩ (v.get ⟨i, h⟩) f)) else none

/-- The configuration fields of an entry of the table of a code (section 11.1). -/
def State.tableFields (s : State) (table i : Nat) : Option Fields :=
  match table with
  | 0 => stationTable.read s.stations i
  | 1 => permissionTable.read s.permissions i
  | 2 => positionTable.read s.positions i
  | 3 => dutyTable.read s.duties i
  | 4 => trainTable.read s.trains i
  | 5 => (cavernTable s).read s.caverns i
  | 6 => bandTable.read s.bands i
  | 7 => storeTable.read s.stores i
  | 8 => (layerTable s).read s.layers i
  | 9 => scanTable.read s.scan i
  | 10 => routeTable.read s.routes i
  | 11 => partTable.read (Vector.replicate 1 s.part) i
  | _ => none

/-! ### READ_STATE, block by block -/

/-- An optional mode code; absent where there is none. -/
def optMode (m : Mode) : Word := optNum (fun x : RunMode => num x.value) m

/-- STATIONS fields 16 to 18. -/
def State.stationFields (s : State) (i : StationId) : Fields :=
  let e := s.station i
  fieldsFrom 16 [code enrolmentListing e.enrolment, nat e.misses, nat (s.depth i)]

/-- TRAINS fields 32 to 55. -/
def State.trainFields (s : State) (t : TrainId) : Fields :=
  let r := s.run t
  let p := r.report
  fieldsFrom 32
    [ code trainStateListing (if (s.cfg t).configured then r.state else .unknown)
    , code modeListing r.engaged
    , optMode r.mode
    , if r.auto then 0 else 1
    , nat r.power
    , num r.reactive
    , num r.reheat
    , nat r.failures
    , flag r.lock
    , flag r.reset
    , code timerListing (r.timer.map (·.1))
    , nat ((r.timer.map (·.2)).getD 0)
    , optNum (fun c : Cause => nat c.val) r.lastCause
    , optNum (code reportedListing) p.runState
    , optNum (code modeListing) p.mode
    , optNum id p.active
    , optNum id p.reactive
    , optNum id p.gen
    , optNum id p.chg
    , optNum id p.tripCause
    , optNum nat r.age
    , r.slotGen
    , r.slotChg
    , flag r.tripLine ]

/-- State and time of a blind timer: IDLE 0, RUNNING 1, EXPIRED 2. -/
def BlindTimer.fields : BlindTimer → List Word
  | .idle => [0, 0]
  | .running ms => [1, nat ms]
  | .expired => [2, 0]

/-- The usable set: none, A, B, A and B, in listing order. -/
def usableCode (a b : Bool) : Word := (if a then 1 else 0) + (if b then 2 else 0)

/-- CAVERNS fields 16 to 32. -/
def State.cavernFields (s : State) (c : CavernId) : Fields :=
  let r := (s.cavern c).run
  fieldsFrom 16
    ([ code conditionListing r.condition
     , optNum num r.high
     , optNum num r.low
     , usableCode r.usableA r.usableB
     , optNum nat r.windowAge
     , optNum num r.windowHigh
     , optNum num r.windowLow
     , nat r.rise
     , nat r.fall
     , flag r.riseHold
     , flag r.fallHold
     , optNum (fun b : Fin 8 => nat b.val) r.chargeBand
     , optNum (fun b : Fin 8 => nat b.val) r.generateBand
     , code modeListing r.direction
     , bits r.holders ] ++ r.blindTimer.fields)

/-- STORES fields 16 to 24. -/
def State.storeFields (s : State) (h : StoreId) : Fields :=
  let r := (s.store h).run
  fieldsFrom 16
    [ code storeConditionListing r.condition, nat r.stored, nat r.reservable, nat r.headroom, nat r.usable
    , nat (s.reserved h .draw), nat (s.reserved h .fill), nat (s.available h .draw), nat (s.available h .fill) ]

/-- LAYERS fields 16 to 18. -/
def State.layerFields (s : State) (l : LayerId) : Fields :=
  let e := s.layer l
  fieldsFrom 16 [optNum num e.last, flag (s.layerUsable l), nat e.contribution]

/-- Reservations by position; an empty place reads its power-on values. -/
def State.reservationFields (s : State) (i : Nat) : Fields :=
  match s.reservations[i]? with
  | some r =>
    fieldsFrom 0
      [ 1, nat r.train.val, nat r.store.val, if r.kind = .draw then 0 else 1, if r.phase = .current then 0 else 1
      , optNum id r.slot, nat r.granted, nat r.consumed, nat r.remaining, nat r.basis, optNum id r.counter ]
  | none => fieldsFrom 0 [0, 0, 0, 0, 0, absent, 0, 0, 0, 0, absent]

/-- An optional station address or sequence. -/
def optHalf (h : Option HWord) : Word := optNum (fun a : HWord => a.setWidth 32) h

/-- The kind of a drive entry: its item kind code (section 1.10). -/
def kindField (k : DriveKind) : Word := (driveCode k).setWidth 32

/-- Queue positions 0 to 15; an empty place reads its power-on values. -/
def State.queueFields (s : State) (i : Nat) : Fields :=
  match s.queue.entries[i]? with
  | some e =>
    fieldsFrom 0
      [ 1, nat e.train.val, kindField e.kind, num e.value, code originListing e.origin, optHalf e.station
      , optHalf e.seq, e.tag.setWidth 32, flag e.clamped, nat e.merges ]
  | none => fieldsFrom 0 [0, 0, kindField .power, 0, 0, absent, absent, 0, 0, 0]

/-- Queue indices 16 to 21: one train. -/
def State.trainQueueFields (s : State) (t : TrainId) : Fields :=
  let h := s.queue.holds.get t
  let p := s.queue.pendings.get t
  let x := s.queue.pacing.get t
  fieldsFrom 0
    [ optNum (fun e : Entry => kindField e.kind) h
    , num ((h.map Entry.value).getD 0)
    , optNum (fun p : Pending => nat p.value) p
    , code originListing ((p.map Pending.origin).getD .schedule)
    , flag ((p.map Pending.clamped).getD false)
    , flag x.isSome
    , nat (x.getD 0)
    , nat (s.queue.entriesOf t).length ]

/-- Poll holds by position. -/
def State.pollFields (s : State) (i : Nat) : Fields :=
  match s.queue.polls[i]? with
  | some p =>
    fieldsFrom 0 [1, nat p.train.val, p.src.setWidth 32, p.seq.setWidth 32, nat (s.queue.ahead p.train p.stamp)]
  | none => fieldsFrom 0 [0, 0, 0, 0, 0]

/-- One cache entry, indexed set × 2 + way. -/
def State.cacheFields (s : State) (i : Fin 16) : Fields :=
  let e := s.cache.get i
  fieldsFrom 0
    [ flag e.valid, if e.isPosition then refPosition.setWidth 32 else refDuty.setWidth 32, nat e.key, optNum (fun u : DutyId => nat u.val) e.duty, nat e.train.val
    , bits e.allow, nat e.limit, optNum (fun d : StationId => nat d.val) e.desk
    , flag (s.lru.get ⟨i.val / 2, by omega⟩) ]

/-- State of the pre-reservation timer: IDLE 0, RUNNING 1, DONE 2. -/
def PreTimer.code : PreTimer → Word
  | .idle => 0
  | .running _ => 1
  | .done => 2

/-- Engine block, index 0. -/
def State.engineFields (s : State) : Fields :=
  let e := s.engine
  fieldsFrom 0
    [ flag e.active.isSome, optNum id e.active, nat (e.boundary.getD 0), e.pre.code, nat (e.ramp.getD 0)
    , nat (e.mark.getD 0) ]

/-- Engine block, index 1: the activation record. -/
def State.actFields (s : State) : Fields :=
  let a := s.act
  fieldsFrom 0
    [ flag a.active, optNum id a.id, num a.requested, num a.limited, num a.applied, nat a.up, nat a.down
    , flag a.hold.isSome, nat (a.hold.getD 0), code outcomeListing a.outcome, nat a.since ]

/-- Engine block, indices 2 to 7. -/
def State.shareFields (s : State) (t : TrainId) : Fields :=
  let h := s.shares.get t
  fieldsFrom 0 [num h.share, flag h.carrier, flag h.unfinished, nat h.aim]

/-- The four fields of commitment `k`; zeros beyond the commitment count. -/
def commitFields (l : List Commit) (k : Nat) : List Word :=
  match l[k]? with
  | some c => [nat c.position.val, num c.power, nat c.up, nat c.down]
  | none => [0, 0, 0, 0]

/-- The upper and lower halves of the signed 64-bit accumulator. -/
def accumulatorFields (x : Int) : List Word :=
  let b : BitVec 64 := BitVec.ofInt 64 x
  [b.extractLsb' 32 32, b.extractLsb' 0 32]

/-- Slots block: one ring position. -/
def State.slotFields (s : State) (i : Fin 48) : Fields :=
  let x := s.slots.get i
  fieldsFrom 0
      ([ x.number, code slotStateListing x.state, optNum (fun d : StationId => nat d.val) x.desk, flag x.gatePassed
       , nat x.commits.length ] ++ (List.range 8).flatMap (commitFields x.commits))
    ++ fieldsFrom 40 (x.targets.toList.map num)
    ++ fieldsFrom 46 ([x.flags.bits.setWidth 32] ++ accumulatorFields x.accumulator ++ [bits x.bases])

/-- Settlement history by position; the fields of an empty place are free values (log entry 8). -/
def State.historyFields (s : State) (i : Nat) : Fields :=
  match s.history[i]? with
  | some r => fieldsFrom 0 (r.fields ++ [1])
  | none => fieldsFrom 0 ((List.range 7).map (Config.unoccupiedField 11 i) ++ [0])

/-- Fault ring by position; the fields of an empty place are free values (log entry 8). -/
def State.ringFields (s : State) (i : Nat) : Fields :=
  match s.faults.ring[i]? with
  | some r => r.fields.map (fun (n, v) => (n, v.getD absent)) ++ [(15, 1)]
  | none => fieldsFrom 0 ((List.range 15).map (Config.unoccupiedField 12 i) ++ [0])

/-- Notice tiers, index 192 + tier. -/
def State.tierFields (s : State) (k : TierId) : Fields :=
  let t := s.tiers.get k
  fieldsFrom 0 [causeLow t.pending, causeHigh t.pending, causeLow t.mask, causeHigh t.mask]

/-- Points block. -/
def State.pointFields (s : State) (i : ScanId) : Fields :=
  let p := s.points.get i
  fieldsFrom 0
    [ optNum num p.value, code qualityListing p.quality, optNum nat p.age, nat p.failures, code resultListing p.last ]

/-- Transfer held: NONE 0, WAITING 1, ACTIVE 2. -/
def Bus.heldCode (b : Bus) : Word :=
  match b.transfer with
  | none => 0
  | some x => if x.active then 2 else 1

/-- Bus block, index 0. -/
def State.busFields (s : State) : Fields :=
  let b := s.bus
  fieldsFrom 0
    [ code busStateListing b.state, optNum (fun i : ScanId => nat i.val) b.entry, nat b.attempt, flag b.inRound
    , b.round, nat b.cursor, flag b.owedRound, b.heldCode, nat b.pulses, nat (b.interval.getD 0) ]

/-- A function of an index below `n`. -/
def indexed (n : Nat) (f : Fin n → Fields) (i : Nat) : Option Fields := if h : i < n then some (f ⟨i, h⟩) else none

/-- Index `i` minus `base`, for the indices from `base` on. -/
def offsetIndexed (base n : Nat) (f : Fin n → Fields) (i : Nat) : Option Fields :=
  if base ≤ i then indexed n f (i - base) else none

/-- A single index. -/
def only (k : Nat) (f : Fields) (i : Nat) : Option Fields := if i = k then some f else none

/-- Notice tiers, index tier × 64 + cause code, and 192 + tier; an index tier × 64 + 61 to 63 names no cause and counts as
beyond the block (the model's choice, log entry 49). -/
def State.noticeFields (s : State) (i : Nat) : Option Fields :=
  if h : i < 192 then
    if c : i % 64 < 61 then
      let t := s.tiers.get ⟨i / 64, by omega⟩
      some (fieldsFrom 0 [nat (t.suppressed.get ⟨i % 64, c⟩), nat (t.carried.get ⟨i % 64, c⟩)])
    else none
  else offsetIndexed 192 3 s.tierFields i

/-- The dynamic fields of an index of the block of a code (section 11.1); none beyond the block. -/
def State.blockFields (s : State) (block i : Nat) : Option Fields :=
  match block with
  | 0 => indexed 32 s.stationFields i
  | 1 => indexed 6 s.trainFields i
  | 2 => indexed 2 s.cavernFields i
  | 3 => indexed 4 s.storeFields i
  | 4 => indexed 64 s.layerFields i
  | 5 => if i < reservationDepth then some (s.reservationFields i) else none
  | 6 =>
    if i < 16 then some (s.queueFields i)
    else (offsetIndexed 16 6 s.trainQueueFields i).or (only 22 (fieldsFrom 0 [nat s.queue.entries.length]) i)
  | 7 => if i < pollDepth then some (s.pollFields i) else none
  | 8 => indexed 16 s.cacheFields i
  | 9 => (only 0 s.engineFields i).or ((only 1 s.actFields i).or (offsetIndexed 2 6 s.shareFields i))
  | 10 => indexed 48 s.slotFields i
  | 11 => if i < historyDepth then some (s.historyFields i) else none
  | 12 =>
    if i < ringDepth then some (s.ringFields i)
    else only 32 (fieldsFrom 0 [nat s.faults.ring.length, nat s.faults.overwrites, s.faults.counter]) i
  | 13 => s.noticeFields i
  | 14 => indexed 48 s.pointFields i
  | 15 =>
    (only 0 s.busFields i).or
      (offsetIndexed 1 8 (fun k => fieldsFrom 0 [bufferWord s.bus.buffer 32 k.val]) i)
  | 16 => only 0 (fieldsFrom 0 [if s.gateOpen then 0 else 1, flag s.commissioning]) i
  | _ => none

/-! ### The reply of a read -/

/-- Fields of entries, each with its entry index. -/
abbrev ReadItems := List (Nat × Nat × Word)

/-- The fields of one entry from a first number on. -/
def entryItems (i first : Nat) (fs : Fields) : ReadItems :=
  (fs.filter fun f => first ≤ f.1).map fun f => (i, f.1, f.2)

/-- R180: the fields of `count` consecutive entries, or none where one lies beyond the table. -/
def State.readItems (s : State) (table first count field : Nat) : Option ReadItems :=
  (List.range count).foldl
    (fun acc k =>
      match acc, s.tableFields table (first + k) with
      | some l, some fs => some (l ++ entryItems (first + k) (if k = 0 then field else 0) fs)
      | _, _ => none)
    (some [])

end Sys2Proof.Machine
end

