-- ==== Sys2Proof/Machine/Start.lean ====
section
/-! DEFINITION. Power-on and warm restart (R48, R70, R89, R108, R125, R146, R156, R170, R184, R185): the values every
block takes. -/

namespace Sys2Proof.Machine

/-- R48: a train's running condition after power-on and warm restart; the trip line follows PTRIP. -/
def restartedRun (kind : TrainKind) (ptrip : Bool) : TrainRun := { engaged := kind.engagedAtReset, tripLine := ptrip }

/-- R185: PART after power-on, the strap value in fields 0 and 2. -/
def powerOnPart (straps : BitVec 4) : Part := { address := 0x7F00 + straps.setWidth 16, ethLow := straps.setWidth 32 }

/-- Roll call after power-on and warm restart: IDLE, no call, the period timer started (section 1.8). -/
def restartedRoll (p : Part) : RollCall := { period := some (seconds p.rollPeriod) }

/-- R156: the bus controller after power-on and warm restart. -/
def restartedBus (p : Part) : Bus := { interval := some p.scanInterval }

/-- R9: a port whose emission counter is 0 again. -/
def PortState.restarted (x : PortState) : PortState := { x with counter := 0 }

/-- R185: power-on.  What stands outside the reset stays: the commands waiting, PTRIP, the links, the count of free
values (log entry 12). -/
def State.powerOn (s : State) (straps : BitVec 4) : State :=
  let p := powerOnPart straps
  { pending := s.pending
    link := { u := { up := s.link.u.up }, d := { up := s.link.d.up } }
    part := p
    ptrip := s.ptrip
    roll := restartedRoll p
    trains := Vector.replicate 6 { run := restartedRun .reversible s.ptrip }
    bus := restartedBus p
    routes := routesPowerOn
    free := s.free }

/-- R89: a cavern after warm restart: a configured one has its blind timer running, without a fault. -/
def Cavern.restarted (x : Cavern) : Cavern :=
  { x with run := { blindTimer := if x.cfg.configured then .running (seconds x.cfg.blindLimit) else .idle } }

/-- R108: a store after warm restart: its headroom reads its capacity where it is configured. -/
def Store.restarted (x : Store) : Store :=
  { x with run := { headroom := if x.cfg.configured then x.cfg.capacity else 0 } }

/-- R108: a layer after warm restart. -/
def Layer.restarted (x : Layer) : Layer := { coefficient := x.coefficient, base := x.base }

/-- R125: a slot record after warm restart: an ACTIVE one becomes FIRM with its working fields zeroed. -/
def Slot.restarted (x : Slot) : Slot :=
  if x.state = .active then
    { number := x.number, state := .firm, desk := x.desk, gatePassed := x.gatePassed, commits := x.commits }
  else x

/-- R184, section 10.4: a tier after warm restart: the mask set is kept. -/
def Tier.restarted (x : Tier) : Tier := { mask := x.mask }

/-- R184: warm restart. -/
def State.warmRestart (s : State) : State :=
  { pending := s.pending
    link := { u := s.link.u.restarted, d := s.link.d.restarted }
    part := s.part
    ptrip := s.ptrip
    stations := tabMap (fun e : Station => { e with enrolment := .unenrolled, misses := 0 }) s.stations
    roll := restartedRoll s.part
    permissions := s.permissions
    positions := s.positions
    duties := s.duties
    trains := tabMap (fun x : Train => { x with run := restartedRun x.cfg.kind s.ptrip }) s.trains
    caverns := tabMap Cavern.restarted s.caverns
    bands := s.bands
    stores := tabMap Store.restarted s.stores
    layers := tabMap Layer.restarted s.layers
    slots := tabMap Slot.restarted s.slots
    scan := s.scan
    bus := restartedBus s.part
    routes := s.routes
    tiers := tabMap Tier.restarted s.tiers
    free := s.free }

end Sys2Proof.Machine
end

