-- ==== Sys2Proof/Machine/Manage.lean ====
section
/-! DEFINITION. The management unit (chapter 11): levels and replies, the table writes with their effects, the gate,
fences, bus requests, notice clearing and masks, warm restart. -/

namespace Sys2Proof.Machine

/-- Who a MANAGE comes from (R5, R6): where its reply goes, the level it carries, and the sender's entry and role;
none under commissioning acceptance. -/
structure Manager where
  dst   : HWord
  seq   : HWord
  level : Nat
  desk  : Option StationId := none
  deriving DecidableEq, Repr

/-! ### Replies (R178) -/

/-- A refusal: nothing changes, no fault. -/
def State.refuseManage (s : State) (m : Manager) (r : MRefusal) : State :=
  s.reply m.dst m.seq
    (statusItem .refused (code mCauses r.cause) (optNum (fun p : Nat × Nat => nat p.1) r.place)
      (optNum (fun p : Nat × Nat => nat p.2) r.place)) []

/-- A refusal with a cause alone. -/
def refusal (c : MCause) : MRefusal := { cause := c }

/-- INCONSISTENT naming a table and an index. -/
def inconsistent (table index : Nat) : MRefusal := { cause := .inconsistent, place := some (table, index) }

/-- An accepted request with FIELD items of its own. -/
def State.replyWith (s : State) (m : Manager) (x : Status) (fields : List Item) : State :=
  s.replyDone m.dst m.seq x absent absent fields

/-- The reply to an accepted write: LEGALISED where a field was stored at another value (R178). -/
def State.replyWrite (s : State) (m : Manager) (legalised : List Item) : State :=
  s.replyWith m (if legalised.isEmpty then .done else .legalised) legalised

/-- What a write comes to: refused, or accepted with a new state and the legalised fields. -/
abbrev Write := Except MRefusal (State × List Item)

/-- The reply of a write, after its effects. -/
def State.finishWrite (s : State) (m : Manager) (w : Write) : State :=
  match w with
  | .error r => s.refuseManage m r
  | .ok (s1, l) => s1.replyWrite m l

/-- A judged table, its whole-table refusals, and the state an accepted write makes of it. -/
def judged {n : Nat} {α : Type} (j : Except MRefusal (Vector α n × List Item)) (whole : Vector α n → Option MRefusal)
    (accept : Vector α n → State) : Write :=
  match j with
  | .error r => .error r
  | .ok (w, l) =>
    match whole w with
    | some r => .error r
    | none => .ok (accept w, l)

/-! ### STATIONS (R10, R11) -/

/-- R10: two in-use entries with one address, or one with the own address. -/
def duplicateStation (w : Vector Station 32) (own : HWord) : Bool :=
  (fins 32).any fun i =>
    (w.get i).inUse &&
      ((w.get i).address == own ||
        (fins 32).any fun j => j != i && (w.get j).inUse && (w.get j).address == (w.get i).address)

/-- R10: a via that names its own entry, an entry that is no in-use coupler of port D, or a chain that returns to the
entry.  An entry whose chain only leads into a loop of others is not named (the model's choice, log entry 44). -/
def badVia (w : Vector Station 32) (i : StationId) : Bool :=
  let e := w.get i
  e.inUse && e.port == .d &&
    match e.via with
    | none => false
    | some j =>
      let c := w.get j
      j == i || !(c.inUse && c.port == .d && c.role == .coupler) || (viaChain w i).contains i

/-- R10: the refusals judged on the whole table. -/
def stationsWhole (own : HWord) (w : Vector Station 32) : Option MRefusal :=
  if duplicateStation w own then some (refusal .duplicate)
  else ((fins 32).find? (badVia w)).map fun i => inconsistent tStations i.val

/-- Fields of STATIONS whose write changes enrolment (R11). -/
def enrolmentField (f : Nat) : Bool := f != 4 && f != 5

/-- R10, R11: a write of STATIONS. -/
def State.writeStations (s : State) (fs : List Field) : Write :=
  judged (stationTable.judge s.stations fs) (stationsWhole s.part.address) fun w =>
    State.unenrol { s with stations := w }
      (unenrolledBy w ((writtenEntries 32 fs).filter fun i => (writtenFields fs i).any enrolmentField))

/-! ### PERMISSIONS, POSITIONS, DUTIES (R27, R28, R40) -/

/-- R40: a write of PERMISSIONS. -/
def State.writePermissions (s : State) (fs : List Field) : Write :=
  judged (permissionTable.judge s.permissions fs) (fun _ => none) fun w => { s with permissions := w }

/-- R27: the desk test for a writer of role DESK: each entry is UNUSED or its own before, and its own after. -/
def deskTest (before after : Vector Position 128) (d : StationId) (fs : List Field) : Bool :=
  (writtenEntries 128 fs).all fun i =>
    ((before.get i).state == .unused || (before.get i).desk == some d) && (after.get i).desk == some d

/-- R27: a write of POSITIONS; `desk` is the writer's entry where its role is DESK. -/
def State.writePositions (s : State) (desk : Option StationId) (fs : List Field) : Write :=
  let passes := match desk with
    | none => true
    | some d => deskTest s.positions (positionTable.after s.positions (lastWrites fs)) d fs
  if !passes then .error (refusal .level)
  else judged (positionTable.judge s.positions fs) (fun _ => none) fun w => { s with positions := w }

/-- R28: a write of DUTIES. -/
def State.writeDuties (s : State) (fs : List Field) : Write :=
  judged (dutyTable.judge s.duties fs) (fun _ => none) fun w => { s with duties := w }

/-! ### TRAINS (R47) -/

/-- R47: a train that may not be written. -/
def Train.busy (x : Train) : Bool := x.cfg.configured && (x.run.state.holdsClaim || x.run.state == .tripped)

/-- R47: whether a write makes a train UNKNOWN: field 0 changed, or field 1 or 2 written. -/
def trainUnknown (before after : Vector Train 6) (fs : List Field) (t : TrainId) : Bool :=
  let f := writtenFields fs t
  (f.contains 0 && (before.get t).cfg.configured != (after.get t).cfg.configured) || f.contains 1 || f.contains 2

/-- R47: a train made UNKNOWN by a write, with the engaged mode of its kind where that was written. -/
def State.trainWritten (fs : List Field) (s : State) (t : TrainId) : State :=
  let s1 := s.toUnknown t
  if (writtenFields fs t).contains 2 then s1.modRun t fun r => { r with engaged := (s.cfg t).kind.engagedAtReset } else s1

/-- R47, R68: the trains a write makes UNKNOWN: one event, settled at its end (R82, R88). -/
def State.trainsWritten (s : State) (fs : List Field) (l : List TrainId) : State :=
  if l.isEmpty then s else (l.foldl (State.trainWritten fs) s).settle

/-- R47: a write of TRAINS. -/
def State.writeTrains (s : State) (fs : List Field) : Write :=
  judged (trainTable.judge s.trains fs)
    (fun _ => if (writtenEntries 6 fs).any fun t => (s.train t).busy then some (refusal .inUse) else none)
    fun w => State.trainsWritten { s with trains := w } fs ((writtenEntries 6 fs).filter (trainUnknown s.trains w fs))

/-! ### CAVERNS, BANDS (R90, R95) -/

/-- R90: the order hard minimum ≤ minimum operating < maximum operating ≤ hard maximum. -/
def CavernCfg.ordered (k : CavernCfg) : Bool := k.hardMin ≤ k.minOp && k.minOp < k.maxOp && k.maxOp ≤ k.hardMax

/-- R90: the refusals judged on the whole table.  A clear written to a cavern already unconfigured is accepted, also where
a resynchronised train holds its direction (the model's choice, log entry 45). -/
def cavernsWhole (before w : Vector Cavern 2) : Option MRefusal :=
  match (fins 2).find? fun c => !(w.get c).cfg.ordered with
  | some c => some (inconsistent tCaverns c.val)
  | none =>
    if (fins 2).any fun c =>
        (before.get c).cfg.configured && !(w.get c).cfg.configured && (before.get c).run.holders != 0 then
      some (refusal .inUse)
    else none

/-- R90: a cavern just configured: recomputed, its blind timer started where it is found BLIND, without a fault. -/
def State.configureCavern (s : State) (c : CavernId) : State :=
  let s1 := s.recomputed c
  if (s1.cavern c).run.condition = .blind then
    s1.modCavern c fun r => { r with blindTimer := .running (seconds (s1.cavern c).cfg.blindLimit) }
  else s1

/-- R90: the effects of an accepted write on one cavern.  A cavern no longer configured takes the power-on values of its
dynamic fields and keeps its settings (the model's choice, log entry 45). -/
def State.cavernWritten (before : Vector Cavern 2) (fs : List Field) (s : State) (c : CavernId) : State :=
  let f := writtenFields fs c
  let was := (before.get c).cfg.configured
  let now := (s.cavern c).cfg.configured
  if now && !was then s.configureCavern c
  else if was && !now then s.modCavern c fun _ => {}
  else if f.contains 7 || f.contains 8 then s.recomputed c
  else s

/-- R90: a write of CAVERNS: the caverns it reaches are taken in index order (the model's choice, log entry 33), and what
their recomputations trip is settled at the end (R82, R88). -/
def State.writeCaverns (s : State) (fs : List Field) : Write :=
  judged ((cavernTable s).judge s.caverns fs) (cavernsWhole s.caverns) fun w =>
    ((writtenEntries 2 fs).foldl (State.cavernWritten s.caverns fs) { s with caverns := w }).settleSince s

/-- R95: the first band whose bound is lower than that of the band before it in its cavern. -/
def descendingBand (w : Vector Band 16) : Option (Fin 16) :=
  (fins 16).find? fun i => i.val % 8 != 0 && (w.get i).bound < (w.get ⟨i.val - 1, by omega⟩).bound

/-- R95: a write of BANDS. -/
def State.writeBands (s : State) (fs : List Field) : Write :=
  judged (bandTable.judge s.bands fs)
    (fun w => if s.gateOpen then (descendingBand w).map fun i => inconsistent tBands i.val else none)
    fun w => { s with bands := w }

/-! ### STORES, LAYERS (R106, R107) -/

/-- R106: the refusals judged on the whole table. -/
def storesWhole (s : State) (w : Vector Store 4) : Option MRefusal :=
  match (fins 4).find? fun h => (w.get h).cfg.capacity < (w.get h).cfg.minReserve with
  | some h => some (inconsistent tStores h.val)
  | none =>
    if (fins 4).any fun h =>
        (s.store h).cfg.configured && !(w.get h).cfg.configured && s.reservations.any fun r => r.store == h then
      some (refusal .inUse)
    else none

/-- R106: a store no longer configured: the dynamic values of an unconfigured store, its layers' timers cancelled. -/
def State.unconfigureStore (s : State) (h : StoreId) : State :=
  ((fins 16).map (layerIndex h)).foldl (fun s i => s.modLayer i fun l => { l with stale := none }) (s.setStoreRun h {})

/-- R106: the effects of an accepted write on one store. -/
def State.storeWritten (before : Vector Store 4) (fs : List Field) (s : State) (h : StoreId) : State :=
  let f := writtenFields fs h
  let was := (before.get h).cfg.configured
  let now := (s.store h).cfg.configured
  if was && !now then s.unconfigureStore h
  else if (now && !was) || f.contains 1 || f.contains 2 || f.contains 3 || f.contains 4 then s.recomputeStore h
  else s

/-- R106: a write of STORES: the stores it reaches are worked out in index order, once each (the model's choice, log entry
33). -/
def State.writeStores (s : State) (fs : List Field) : Write :=
  judged (storeTable.judge s.stores fs) (storesWhole s) fun w =>
    (writtenEntries 4 fs).foldl (State.storeWritten s.stores fs) { s with stores := w }

/-- R107: whether a write reaches a store's account: field 0 or 1 of a layer below its layer count. -/
def layerReaches (s : State) (fs : List Field) (h : StoreId) : Bool :=
  (writtenEntries 64 fs).any fun l =>
    layerStore l == h && layerPlace l < (s.store h).cfg.layerCount && (writtenFields fs l).any fun f => f != 2

/-- R107: a write of LAYERS: the stores it reaches are worked out in index order, once each (the model's choice, log entry
33). -/
def State.writeLayers (s : State) (fs : List Field) : Write :=
  judged ((layerTable s).judge s.layers fs) (fun _ => none) fun w =>
    ((fins 4).filter (layerReaches s fs)).foldl State.recomputeStore { s with layers := w }

/-! ### SCAN, ROUTES, PART (R163, R171, R181) -/

/-- R163: whether a write of an entry makes its point BAD. -/
def scanReset (before : Vector ScanEntry 48) (after : Vector ScanEntry 48) (fs : List Field) (i : ScanId) : Bool :=
  let f := writtenFields fs i
  (f.contains 0 && (before.get i).inUse != (after.get i).inUse) || f.any fun n => 1 ≤ n && n ≤ 7

/-- R163: the transaction in progress, its result discarded where the write cleared its entry's use. -/
def Bus.discardFor (b : Bus) (w : Vector ScanEntry 48) : Bus :=
  match b.entry with
  | some i => if (w.get i).inUse then b else { b with txn := b.txn.map fun t => { t with discarded := true } }
  | none => b

/-- R163: the caverns the changed entries name as destination before or after, also where the cavern reads another
entry's point (the model's choice, log entry 33). -/
def changedCaverns (before after : Vector ScanEntry 48) (changed : List ScanId) : List CavernId :=
  (fins 2).filter fun c =>
    changed.any fun i => ((before.get i).cavern.any fun x => x.1 == c) || ((after.get i).cavern.any fun x => x.1 == c)

/-- R163: the stores with a layer below the layer count that the changed entries fed before or feed after. -/
def changedStores (s : State) (before after : Vector ScanEntry 48) (changed : List ScanId) : List StoreId :=
  let reaches (h : StoreId) (e : ScanEntry) : Bool :=
    e.layer.any fun l => layerStore l == h && layerPlace l < (s.store h).cfg.layerCount
  (fins 4).filter fun h => changed.any fun i => reaches h (before.get i) || reaches h (after.get i)

/-- R163: a write of SCAN.  A point that becomes BAD takes the power-on value of its last result too, NONE (the model's
choice, log entry 46).  What the recomputations trip is settled at the end (R82, R88). -/
def State.writeScan (s : State) (fs : List Field) : Write :=
  judged (scanTable.judge s.scan fs) (fun _ => none) fun w =>
    let changed := (writtenEntries 48 fs).filter (scanReset s.scan w fs)
    let s1 := State.modBus { s with scan := w } fun b => b.discardFor w
    let s2 := changed.foldl (fun s i => s.modPoint i fun _ => {}) s1
    let s3 := (changedCaverns s.scan w changed).foldl State.recomputed s2
    ((changedStores s s.scan w changed).foldl State.recomputeStore s3).settleSince s

/-- R171: a write of ROUTES. -/
def State.writeRoutes (s : State) (fs : List Field) : Write :=
  judged (routeTable.judge s.routes fs) (fun _ => none) fun w => { s with routes := w }

/-- R181: the refusals after the per-field ones: the own address held by an in-use entry, a slot length while
SYNCHRONISED. -/
def partWhole (s : State) (fs : List Field) (w : Vector Part 1) : Option MRefusal :=
  let written := writtenFields fs (0 : Fin 1)
  if written.contains 0 && (fins 32).any fun i => (s.station i).inUse && (s.station i).address == (w.get 0).address then
    some (refusal .duplicate)
  else if written.contains 9 && s.engine.active.isSome then some (refusal .inUse)
  else none

/-- R181: a write of PART, its reply leaving with the settings that stood. -/
def State.writePart (s : State) (m : Manager) (fs : List Field) : State :=
  match partTable.judge (Vector.replicate 1 s.part) fs with
  | .error r => s.refuseManage m r
  | .ok (w, l) =>
    match partWhole s fs w with
    | some r => s.refuseManage m r
    | none => { s.replyWrite m l with part := w.get 0 }

/-! ### The gate (R182, R183) -/

/-- R182, check 1. -/
def State.badDuty (s : State) : Option MRefusal :=
  ((fins 16).find? fun u => (s.duties.get u).mapped && !(s.cfg (s.duties.get u).train).configured).map fun u =>
    inconsistent tDuties u.val

/-- R182, check 2. -/
def State.badController (s : State) : Option MRefusal :=
  (s.configuredTrains.find? fun t =>
      let e := s.controller t
      !(e.inUse && e.port == .d && e.role == .train)).map fun t => inconsistent tTrains t.val

/-- R182, check 3. -/
def State.badPlant (s : State) : Option MRefusal :=
  (s.configuredTrains.find? fun t =>
      !((s.cavern (s.cfg t).cavern).cfg.configured && (s.store (s.cfg t).store).cfg.configured)).map fun t =>
    inconsistent tTrains t.val

/-- R182, check 4. -/
def State.badBands (s : State) : Option MRefusal := (descendingBand s.bands).map fun i => inconsistent tBands i.val

/-- R182, check 5. -/
def State.badScan (s : State) : Option MRefusal :=
  ((fins 48).find? fun i => (s.scan.get i).inUse && !(s.scan.get i).inRange).map fun i => inconsistent tScan i.val

/-- R182: the consistency checks in order. -/
def State.gateRefusal (s : State) : Option MRefusal :=
  s.badDuty.or (s.badController.or (s.badPlant.or (s.badBands.or s.badScan)))

/-- R182: OPEN_GATE. -/
def State.openGate (s : State) (m : Manager) : State :=
  if s.gateOpen then s.replyWith m .done []
  else
    match s.gateRefusal with
    | some r => s.refuseManage m r
    | none => State.replyWith { s with gateOpen := true } m .done []

/-- R183: the gate closed, the activation cleared, the queue flushed, the cache emptied. -/
def State.shutGate (s : State) : State := (State.clearActivation { s with gateOpen := false }).flushGate.fenceAll

/-- R183: CLOSE_GATE. -/
def State.closeGate (s : State) (m : Manager) : State := s.shutGate.replyWith m .done []

/-! ### Reads (R180) -/

/-- R180: the reply of a read: 15 fields, and where more were asked the STATUS item names the next. -/
def State.replyRead (s : State) (m : Manager) (l : ReadItems) : State :=
  let items := (l.take 15).map fun f => fieldItem f.1 f.2.1 f.2.2
  match l.drop 15 with
  | [] => s.replyDone m.dst m.seq .done absent absent items
  | f :: _ => s.replyDone m.dst m.seq .done (nat f.1) (nat f.2.1) items

/-- R180: READ_ENTRIES. -/
def State.readEntries (s : State) (m : Manager) (table first count field : Nat) : State :=
  if count = 0 ∨ 8 < count then s.refuseManage m (refusal .badIndex)
  else
    match s.readItems table first count field with
    | some l => s.replyRead m l
    | none => s.refuseManage m (refusal .badIndex)

/-- R180: READ_STATE. -/
def State.readState (s : State) (m : Manager) (block index field : Nat) : State :=
  match s.blockFields block index with
  | some fs => s.replyRead m (entryItems index field fs)
  | none => s.refuseManage m (refusal .badIndex)

/-! ### Bus requests (R162, R166) -/

/-- R166: address, offset and count within their limits. -/
def transferArguments (address offset count : Nat) : Bool :=
  address ≤ 127 && offset ≤ 255 && 1 ≤ count && count ≤ 32

/-- R166: the data fields of a WRITE: each from 0 to the one that holds the last byte, none beyond. -/
def transferData (count : Nat) (fs : List Field) : Option (List Byte) :=
  let n := (count + 3) / 4
  if fs.any fun f => n ≤ f.number.toNat then none
  else
    ((List.range n).foldl
      (fun acc k =>
        match acc, fs.reverse.find? fun f => f.number.toNat == k with
        | some l, some f => some (l ++ wordBytes f.value)
        | _, _ => none)
      (some [])).map fun l => l.take count

/-- R166: whether a transfer is refused BUS_BUSY. -/
def Bus.busy (b : Bus) : Bool := b.state == .recovering || b.state == .failed || b.transfer.isSome

/-- R166: BUS_TRANSFER; `data` is none for a READ, which begins with a buffer of zeros.  The BAD_VALUE tests come before
BUS_BUSY, and a WRITE leaves the buffer's bytes beyond its count as they were (the model's choice, log entry 50). -/
def State.busTransfer (s : State) (m : Manager) (address offset count : Nat) (data : Option (List Field)) : State :=
  let bytes := match data with
    | none => some (List.replicate 32 0)
    | some fs => transferData count fs
  match bytes with
  | none => s.refuseManage m (refusal .badValue)
  | some bs =>
    if !transferArguments address offset count then s.refuseManage m (refusal .badValue)
    else if s.bus.busy then s.refuseManage m (refusal .busBusy)
    else
      State.arbitrate <| s.modBus fun b =>
        { b with
          buffer := overwrite b.buffer bs
          transfer := some
            { write := data.isSome, address := BitVec.ofNat 7 address, register := BitVec.ofNat 8 offset, count := count,
              active := false, dst := m.dst, seq := m.seq } }

/-- R162: BUS_RECOVER without ABORT. -/
def State.busRecover (s : State) (m : Manager) : State :=
  match s.bus.state with
  | .idle | .failed => s.modBus fun b => { b.startRecovery with owed := some (m.dst, m.seq) }
  | _ => s.refuseManage m (refusal .busBusy)

/-- R162: BUS_RECOVER with ABORT; `bytes` are those the transaction had moved. -/
def State.busAbort (s : State) (m : Manager) (bytes : List Byte) : State :=
  match s.bus.state with
  | .idle => s.replyWith m .done []
  | .scanActive | .mgmtActive => (((s.abort bytes).modBus Bus.release).replyWith m .done []).arbitrate
  | .recovering => s.refuseManage m (refusal .busBusy)
  | .failed => s.busRecover m

/-! ### Notices (R175, R176) -/

/-- Causes a set names, in code order. -/
def causesOf (l : BitVec 61) : List Cause := (fins 61).filter fun c => l.getLsbD c.val

/-- R175: one named cause on a tier. -/
def Tier.clear (t : Tier) (c : Cause) : Tier :=
  if t.pending.getLsbD c.val then
    { t with pending := dropBit t.pending c.val
             carried := upd t.carried c (min (t.carried.get c + t.suppressed.get c) 255)
             suppressed := upd t.suppressed c 0 }
  else t

/-- R175: CLEAR_NOTICES. -/
def State.clearNotices (s : State) (m : Manager) (k : TierId) (l : BitVec 61) : State :=
  let s1 := s.modTier k fun t => (causesOf l).foldl Tier.clear t
  s1.replyWith m .done
    ((causesOf l).map fun c => fieldItem (k.val * 64 + c.val) 1 (nat ((s1.tiers.get k).carried.get c)))

/-- The set of the causes with fixed route SAFETY. -/
def fixedSafetySet : BitVec 61 := addBit (addBit (addBit (addBit (addBit 0 30) 31) 34) 37) 54

/-- R176: the mask a tier takes. -/
def maskFor (k : TierId) (l : BitVec 61) : BitVec 61 := if k = tierSafety then l &&& ~~~ fixedSafetySet else l

/-- R176: SET_MASK. -/
def State.setMask (s : State) (m : Manager) (k : TierId) (l : BitVec 61) : State :=
  let mask := maskFor k l
  let s1 := s.modTier k fun t => { t with mask := mask }
  let low := if causeLow mask = causeLow l then [] else [fieldItem (192 + k.val) 2 (causeLow mask)]
  let high := if causeHigh mask = causeHigh l then [] else [fieldItem (192 + k.val) 3 (causeHigh mask)]
  s1.replyWrite m (low ++ high)

/-! ### Requests (R177) -/

/-- The eleven requests as their items spell them; `bad` is an unknown request or an operand that names no value. -/
inductive ManageReq where
  | bad
  | readEntries (table first count field : Nat)
  | readState (block index field : Nat)
  | write (table : Fin 12) (fields : List Field)
  | fenceAll
  | fencePosition (p : Nat)
  | fenceDesk (d : Nat)
  | fenceDuty (u : Nat)
  | openGate
  | closeGate
  | restart
  | transferRead (address offset count : Nat)
  | transferWrite (address offset count : Nat) (fields : List Field)
  | recover
  | recoverAbort (moved : Option (List Byte))
  | clearNotices (tier : TierId) (causes : BitVec 61)
  | setMask (tier : TierId) (causes : BitVec 61)
  deriving DecidableEq, Repr

/-- The highest level a request accepts (R177). -/
def ManageReq.maxLevel : ManageReq → Nat
  | .bad => 3
  | .readEntries _ _ _ _ | .readState _ _ _ => 3
  | .fenceAll | .fencePosition _ | .fenceDesk _ | .fenceDuty _ => 2
  | .openGate | .closeGate | .transferRead _ _ _ | .transferWrite _ _ _ _ | .recover | .recoverAbort _
  | .clearNotices _ _ | .setMask _ _ => 1
  | .restart => 0
  | .write t _ => if t.val = tStations ∨ t.val = tRoutes ∨ t.val = tPart then 0 else if t.val = tPositions then 2 else 1

/-- WRITE_ENTRIES to the table of a code. -/
def State.writeTable (s : State) (m : Manager) (t : Fin 12) (fs : List Field) : State :=
  match t with
  | 0 => s.finishWrite m (s.writeStations fs)
  | 1 => s.finishWrite m (s.writePermissions fs)
  | 2 => s.finishWrite m (s.writePositions m.desk fs)
  | 3 => s.finishWrite m (s.writeDuties fs)
  | 4 => s.finishWrite m (s.writeTrains fs)
  | 5 => s.finishWrite m (s.writeCaverns fs)
  | 6 => s.finishWrite m (s.writeBands fs)
  | 7 => s.finishWrite m (s.writeStores fs)
  | 8 => s.finishWrite m (s.writeLayers fs)
  | 9 => s.finishWrite m (s.writeScan fs)
  | 10 => s.finishWrite m (s.writeRoutes fs)
  | 11 => s.writePart m fs

/-- A request of a level that may make it. -/
def State.manage (s : State) (m : Manager) : ManageReq → State
  | .bad => s.refuseManage m (refusal .badValue)
  | .readEntries t i n f => s.readEntries m t i n f
  | .readState b i f => s.readState m b i f
  | .write t fs => s.writeTable m t fs
  | .fenceAll => s.fenceAll.replyWith m .done []
  | .fencePosition p => (s.fencePosition p).replyWith m .done []
  | .fenceDesk d => (s.fenceDesk d).replyWith m .done []
  | .fenceDuty u => (s.fenceDuty u).replyWith m .done []
  | .openGate => s.openGate m
  | .closeGate => s.closeGate m
  | .restart => s.warmRestart.replyWith m .done []
  | .transferRead a o n => s.busTransfer m a o n none
  | .transferWrite a o n fs => s.busTransfer m a o n (some fs)
  | .recover => s.busRecover m
  | .recoverAbort (some bytes) => s.busAbort m bytes
  | .recoverAbort none => let (n, s1) := s.takeFree; s1.busAbort m (Config.movedBytes n)
  | .clearNotices k l => s.clearNotices m k l
  | .setMask k l => s.setMask m k l

/-- R177: a MANAGE taken: an undefined operand is refused BAD_VALUE, then a level above the request's is refused
LEVEL. -/
def State.takeManage (s : State) (m : Manager) (q : ManageReq) : State :=
  if q = .bad then s.refuseManage m (refusal .badValue)
  else if q.maxLevel < m.level then s.refuseManage m (refusal .level)
  else s.manage m q

/-- The table of a code. -/
def readTable (w : Word) : Option (Fin 12) := readIndex 12 w

/-- The tier of a code. -/
def readTier (w : Word) : Option TierId := readIndex 3 w

/-- READ_ENTRIES with its operands; an undefined table code is bad. -/
def reqReadEntries (table : Word) (first : HWord) (count field : Word) : ManageReq :=
  if table.toNat < 12 then .readEntries table.toNat first.toNat count.toNat field.toNat else .bad

/-- READ_STATE with its operands; an undefined block code is bad. -/
def reqReadState (block : Word) (index : HWord) (field : Word) : ManageReq :=
  if block.toNat < 17 then .readState block.toNat index.toNat field.toNat else .bad

/-- CLEAR_NOTICES with its operands. -/
def reqClear (tier low high : Word) : ManageReq :=
  match readTier tier with
  | some k => .clearNotices k (causeSet low high)
  | none => .bad

/-- SET_MASK with its operands. -/
def reqMask (tier low high : Word) : ManageReq :=
  match readTier tier with
  | some k => .setMask k (causeSet low high)
  | none => .bad

/-- The request a request item and the items after it spell (section 11.1). -/
def readRequest (i : Item) (rest : List Item) : ManageReq :=
  match i.kind.toNat with
  | 0x50 => reqReadEntries i.auxA i.refId i.auxB i.auxC
  | 0x51 => match readTable i.auxA with
    | some t => .write t (fieldsOf rest)
    | none => .bad
  | 0x52 => reqReadState i.auxA i.refId i.auxC
  | 0x53 => match i.auxA.toNat with
    | 0 => .fenceAll
    | 1 => .fencePosition i.refId.toNat
    | 2 => .fenceDesk i.refId.toNat
    | 3 => .fenceDuty i.refId.toNat
    | _ => .bad
  | 0x54 => .openGate
  | 0x55 => .closeGate
  | 0x56 => .restart
  | 0x57 => match i.auxA.toNat with
    | 0 => .transferRead i.refId.toNat i.auxB.toNat i.auxC.toNat
    | 1 => .transferWrite i.refId.toNat i.auxB.toNat i.auxC.toNat (fieldsOf rest)
    | _ => .bad
  | 0x58 => match i.auxA.toNat with
    | 0 => .recover
    | 1 => .recoverAbort none
    | _ => .bad
  | 0x59 => reqClear i.auxA i.auxB i.auxC
  | 0x5A => reqMask i.auxA i.auxB i.auxC
  | _ => .bad

end Sys2Proof.Machine
end

