-- ==== Sys2Proof/Machine/Link.lean ====
section
/-! DEFINITION. The link unit (sections 1.1 to 1.5): frames, the form check, steering by class and destination, the
source check, and what a POLL and a REPORT go through. -/

namespace Sys2Proof.Machine

/-! ### Drops (R2 to R5) -/

/-- The conditions of R2 that a telegram with a header and items can still meet: 4 and 7. -/
def itemsCheck (cls : Byte) (n : Nat) : Option Nat :=
  if 16 < n then some 4 else if !countSuits cls n then some 7 else none

/-- R2: MALFORMED, with the source where the header could be read. -/
def State.malformed (s : State) (detail : Nat) (h : Option Header) : State :=
  s.raise
    { cause := Cause.malformed, station := h.map (·.src), seq := h.map (·.seq), detail := some (nat detail) }

/-- R3 note 1, R4 note 1, R5: a telegram dropped with source station, source sequence and class code. -/
def State.dropTelegram (s : State) (c : Cause) (cls : Byte) (h : Header) : State :=
  s.raise { cause := c, station := some h.src, seq := some h.seq, detail := some (cls.setWidth 32) }

/-- R2, for a telegram of class `cls` with `n` items: dropped where malformed, else what follows. -/
def State.formed (s : State) (cls : Byte) (h : Header) (n : Nat) (next : State) : State :=
  match itemsCheck cls n with
  | some c => s.malformed c (some h)
  | none => next

/-- R3, R4: dropped where steering does not accept the telegram, else what follows. -/
def State.steered (s : State) (cls : Byte) (h : Header) (accepted : Bool) (next : State) : State :=
  if accepted then next else s.dropTelegram Cause.classNotAllowed cls h

/-- R3, R4: addressed to the own station. -/
def State.isOwn (s : State) (h : Header) : Bool := h.dst == s.part.address

/-- R3: addressed to the own station or broadcast. -/
def State.isOwnOrAll (s : State) (h : Header) : Bool := s.isOwn h || h.dst == 0xFFFF

/-- R5: the source check for a class that accepts the entries `accepts` names. -/
def State.checkSource (s : State) (p : Port) (h : Header) (accepts : Station → Bool) : Except Cause Source :=
  match s.findStation p h.src with
  | none => .error Cause.sourceUnknown
  | some i =>
    let e := s.station i
    if accepts e then .ok { entry := i, role := e.role, level := e.level, address := h.src, seq := h.seq }
    else .error Cause.classNotAllowed

/-- R5: dropped where the source check fails, else what follows. -/
def State.sourced (s : State) (p : Port) (cls : Byte) (h : Header) (accepts : Station → Bool)
    (next : Source → State) : State :=
  match s.checkSource p h accepts with
  | .error c => s.dropTelegram c cls h
  | .ok src => next src

/-! ### Classes taken (R3 to R6) -/

/-- R5: the entries a DISPATCH is accepted from. -/
def acceptsDispatch (e : Station) : Bool := e.role == .safety || e.role == .plant || e.role == .desk

/-- R3, R5, R21: a DISPATCH on Port U. -/
def State.arriveDispatch (s : State) (h : Header) (items : List Item) : State :=
  s.formed cDispatch h items.length <| s.steered cDispatch h (s.isOwn h) <|
    s.sourced .u cDispatch h acceptsDispatch fun src => s.takeDispatch src h items

/-- R3, R5, R127: a SCHEDULE on Port U. -/
def State.arriveSchedule (s : State) (h : Header) (items : List Item) : State :=
  s.formed cSchedule h items.length <| s.steered cSchedule h (s.isOwn h) <|
    s.sourced .u cSchedule h (fun e => e.role == .desk) fun src => s.takeSchedule src items

/-- R3, R5, R147: an ACTIVATION on Port U. -/
def State.arriveActivation (s : State) (h : Header) (items : List Item) : State :=
  s.formed cActivation h items.length <| s.steered cActivation h (s.isOwnOrAll h) <|
    s.sourced .u cActivation h (fun e => e.role == .grid) fun _ => s.takeActivation h (items.headD {})

/-- R3, R5, R131: a TIMEMARK on Port U. -/
def State.arriveMark (s : State) (h : Header) (items : List Item) : State :=
  s.formed cTimemark h items.length <| s.steered cTimemark h (s.isOwnOrAll h) <|
    s.sourced .u cTimemark h (fun e => e.role == .clock) fun _ => s.takeMark h (items.headD {})

/-- R3, R5, R6, R177: a MANAGE of `n` items on Port U. -/
def State.arriveManage (s : State) (h : Header) (n : Nat) (q : ManageReq) : State :=
  s.formed cManage h n <| s.steered cManage h (s.isOwn h) <|
    if s.commissioning then s.takeManage { dst := h.src, seq := h.seq, level := 0 } q
    else
      s.sourced .u cManage h (fun e => e.manage) fun src =>
        s.takeManage
          { dst := h.src, seq := h.seq, level := src.level,
            desk := if src.role = .desk then some src.entry else none } q

/-- R4, R15: a ROLLCALL_REPLY on Port D. -/
def State.arriveRollcallReply (s : State) (h : Header) (items : List Item) : State :=
  s.formed cRollcallReply h items.length <| s.steered cRollcallReply h (s.isOwn h) <| s.takeRollcallReply h items

/-! ### Traffic that crosses (R7, R8) -/

/-- The frame a telegram passes in: its addresses and whole content are kept (R1). -/
def State.passedFrame (s : State) (eth : Eth) (t : Telegram) : Frame :=
  { eth := eth, type := s.part.telegramType, payload := .telegram t }

/-- R8: a POLL that passed the source check. -/
def State.routePoll (s : State) (frame : Frame) (h : Header) : State :=
  match s.findStation .d h.dst with
  | some i =>
    match s.trainsBehind i with
    | t :: _ => s.takePoll t frame h.src h.seq
    | [] => s.hand .d frame
  | none =>
    if h.dst = 0xFFFF then s.hand .d frame
    else s.raise { cause := Cause.classNotAllowed, detail := some (cPoll.setWidth 32) }

/-- R3, R5, R8: a POLL on Port U. -/
def State.arrivePoll (s : State) (eth : Eth) (h : Header) (items : List Item) (pad : List Byte) : State :=
  s.formed cPoll h items.length <|
    s.sourced .u cPoll h (fun _ => true) fun _ =>
      s.routePoll (s.passedFrame eth { cls := cPoll, hdr := h, items := items, pad := pad }) h

/-- R7: a REPORT of entry `i` is read for each configured train behind it while the entry is ENROLLED, in train number
order (the model's choice, log entry 49). -/
def State.readFrom (s : State) (i : StationId) (items : List Item) : State :=
  if (s.station i).enrolment = .enrolled then
    (s.trainsBehind i).foldl (fun s t => s.readReport (Machine.readReport items) t) s
  else s

/-- R4, R5, R7: a REPORT on Port D. -/
def State.arriveReport (s : State) (eth : Eth) (h : Header) (items : List Item) (pad : List Byte) : State :=
  s.formed cReport h items.length <|
    s.sourced .d cReport h (fun _ => true) fun src =>
      (s.hand .u (s.passedFrame eth { cls := cReport, hdr := h, items := items, pad := pad })).readFrom src.entry items

/-! ### Any telegram, any frame (R1 to R4) -/

/-- The request the items of a MANAGE spell. -/
def requestOf : List Item → ManageReq
  | [] => .bad
  | i :: rest => readRequest i rest

/-- A class that steering drops whatever its destination. -/
def State.arriveBarred (s : State) (cls : Byte) (h : Header) (n : Nat) : State :=
  s.formed cls h n <| s.dropTelegram Cause.classNotAllowed cls h

/-- R2 (conditions 4 and 7), R3, R4: a telegram on a port. -/
def State.receiveTelegram (s : State) (p : Port) (eth : Eth) (t : Telegram) : State :=
  match p, t.cls.toNat with
  | .u, 0x01 => s.arriveDispatch t.hdr t.items
  | .u, 0x05 => s.arriveSchedule t.hdr t.items
  | .u, 0x06 => s.arriveActivation t.hdr t.items
  | .u, 0x07 => s.arriveMark t.hdr t.items
  | .u, 0x0A => s.arriveManage t.hdr t.items.length (requestOf t.items)
  | .u, 0x03 => s.arrivePoll eth t.hdr t.items t.pad
  | .d, 0x04 => s.arriveReport eth t.hdr t.items t.pad
  | .d, 0x09 => s.arriveRollcallReply t.hdr t.items
  | _, _ => s.arriveBarred t.cls t.hdr t.items.length

/-- R1: a foreign frame, handed unchanged to the other port with foreign-frame pass ON. -/
def State.passForeign (s : State) (p : Port) (f : RawFrame) : State :=
  if s.part.foreignPass then s.hand (otherPort p) { eth := f.eth, type := f.type, payload := .raw f.payload } else s

/-- R2: the header the fault of a failed form check names: none while condition 1 or 2 holds. -/
def malformedHeader (c : Nat) (p : List Byte) : Option Header := if c ≤ 2 then none else some (parseHeader p)

/-- R1, R2: a frame that passed its frame check sequence. -/
def State.receiveFrame (s : State) (p : Port) (f : RawFrame) : State :=
  if f.type ≠ s.part.telegramType then s.passForeign p f
  else
    match formCheck f.payload with
    | some c => s.malformed c (malformedHeader c f.payload)
    | none => s.receiveTelegram p f.eth (parseTelegram f.payload)

end Sys2Proof.Machine
end

