-- ==== Sys2Proof/Machine/Clock.lean ====
section
/-! DEFINITION. The passing of time on an empty command queue (log entry 1): one millisecond for every running timer
and every age, and the command that stands due once a timer has run out. -/

namespace Sys2Proof.Machine

/-! ### One millisecond -/

/-- A running timer one millisecond on. -/
def dec (t : Option Nat) : Option Nat := t.map fun n => n - 1

/-- An age one millisecond on; ages stop at 0xFFFFFFFE. -/
def aged (n : Nat) : Nat := min (n + 1) ageMax

/-- R1: a port with its link up puts its oldest waiting frame on the line. -/
def PortState.transmit (x : PortState) : PortState := if x.up then { x with tx := x.tx.tail } else x

/-- A train's timer and the age of its last report. -/
def Train.tick (x : Train) : Train :=
  { x with run := { x.run with timer := x.run.timer.map fun (k, n) => (k, n - 1), age := x.run.age.map aged } }

/-- A cavern's timers and its window age. -/
def CavernRun.tick (r : CavernRun) : CavernRun :=
  { r with
    windowAge := r.windowAge.map aged
    staleA := dec r.staleA
    staleB := dec r.staleB
    blindTimer := match r.blindTimer with
      | .running n => .running (n - 1)
      | b => b }

/-- The engine's timers. -/
def Engine.tick (e : Engine) : Engine :=
  { e with
    boundary := dec e.boundary
    ramp := dec e.ramp
    mark := dec e.mark
    pre := match e.pre with
      | .running n => .running (n - 1)
      | x => x }

/-- One millisecond for the whole block. -/
def State.tick (s : State) : State :=
  { s with
    link := { u := s.link.u.transmit, d := s.link.d.transmit }
    roll := { s.roll with period := dec s.roll.period, reply := dec s.roll.reply }
    trains := tabMap Train.tick s.trains
    queue := { s.queue with pacing := tabMap dec s.queue.pacing }
    caverns := tabMap (fun x : Cavern => { x with run := x.run.tick }) s.caverns
    layers := tabMap (fun l : Layer => { l with stale := dec l.stale }) s.layers
    engine := s.engine.tick
    act := { s.act with hold := dec s.act.hold, since := aged s.act.since }
    points := tabMap (fun p : Point => { p with age := p.age.map aged }) s.points
    bus := { s.bus with interval := dec s.bus.interval, clockLow := dec s.bus.clockLow, dataLow := dec s.bus.dataLow } }

/-! ### What stands due -/

/-- A timer that has run out. -/
def out (t : Option Nat) : Bool := t == some 0

/-- A train's timer of a kind that has run out. -/
def State.trainOut (s : State) (k : TrainTimer) (t : TrainId) : Bool := (s.run t).timer == some (k, 0)

/-- The first index a predicate names, as a command. -/
def dueAt {n : Nat} (p : Fin n → Bool) (c : Fin n → Instr) : Option Instr := ((fins n).find? p).map c

/-- A timer of the whole block, as a command. -/
def dueIf (b : Bool) (c : Instr) : Option Instr := if b then some c else none

/-- A guard timer of the bus has run out while the transaction waits for its start condition, so with nothing moved;
within an exchange their commands tell what had moved (R160, log entry 38). -/
def Bus.guardOut (b : Bus) (t : Option Nat) : Bool := out t && b.txn.any fun x => !x.started

/-- What stands due on an empty queue, in the order of the table: a waiting stop request first, then timers. -/
def State.idleEvent (s : State) : Option Instr :=
  [ dueIf (!s.stopRequests.isEmpty) Instr.trainStopRequest,
    dueIf (out s.roll.period) Instr.rollCallPeriodExpiry,
    dueIf (out s.roll.reply) Instr.replyTimerExpiry,
    dueAt (s.trainOut .engage) Instr.engageTimerExpiry,
    dueAt (s.trainOut .start) Instr.startTimerExpiry,
    dueAt (s.trainOut .stop) Instr.stopTimerExpiry,
    dueAt (fun t : TrainId => out (s.queue.pacing.get t)) Instr.pacingTimerExpiry,
    dueAt (fun c : CavernId => out (s.cavern c).run.staleA) (fun c => Instr.cavernStalenessTimerExpiry c .a),
    dueAt (fun c : CavernId => out (s.cavern c).run.staleB) (fun c => Instr.cavernStalenessTimerExpiry c .b),
    dueAt (fun c : CavernId => (s.cavern c).run.blindTimer == .running 0) Instr.blindTimerExpiry,
    dueAt (fun l : LayerId => out (s.layer l).stale) Instr.layerStalenessTimerExpiry,
    dueIf (out s.engine.boundary) Instr.boundaryTimerExpiry,
    dueIf (s.engine.pre == .running 0) Instr.preReservationTimerExpiry,
    dueIf (out s.engine.ramp) Instr.rampStepTimerExpiry,
    dueIf (out s.engine.mark) Instr.timeMarkTimerExpiry,
    dueIf (out s.act.hold) Instr.holdTimerExpiry,
    dueIf (out s.bus.interval) Instr.scanIntervalTimerExpiry,
    dueIf (s.bus.guardOut s.bus.clockLow) (Instr.clockLowTimerExpiry [] 0),
    dueIf (s.bus.guardOut s.bus.dataLow) (Instr.dataLowTimerExpiry []) ].findSome? id

end Sys2Proof.Machine
end

