-- ==== Sys2Proof/Machine/BusEvents.lean ====
section
/-! DEFINITION. The meanings of the events of the instrument bus (chapter 9). -/

namespace Sys2Proof.Machine

/-- R164: the scan interval timer expires. -/
def execScanIntervalTimerExpiry (s : State) : Host.Outcome State Fault Refusal :=
  .next s.expireInterval

/-- R160, R161: the clock-low timer expires. -/
def execClockLowTimerExpiry (moved : List Byte) (pulses : Nat) (s : State) : Host.Outcome State Fault Refusal :=
  .next (s.expireClockLow moved pulses)

/-- R160: the data-low timer expires. -/
def execDataLowTimerExpiry (moved : List Byte) (s : State) : Host.Outcome State Fault Refusal :=
  .next (s.expireDataLow moved)

/-- R157: the controller is about to issue the start condition of the granted transaction and reads the lines. -/
def execTransactionStart (clockHigh dataHigh : Bool) (s : State) : Host.Outcome State Fault Refusal :=
  .next (s.startTransaction clockHigh dataHigh)

/-- R159: arbitration is lost. -/
def execArbitrationLost (moved : List Byte) (s : State) : Host.Outcome State Fault Refusal :=
  .next (s.loseArbitration moved)

/-- R157, R158, R165: a scan transaction ends. -/
def execScanTransactionComplete (r : ScanEnd) (s : State) : Host.Outcome State Fault Refusal :=
  .next (s.scanComplete r)

/-- R157, R158, R166: a management transfer ends. -/
def execManagementTransferComplete (r : TransferEnd) (s : State) : Host.Outcome State Fault Refusal :=
  .next (s.transferComplete r)

/-- R161: a bus recovery ends. -/
def execRecoveryComplete (pulses : Nat) (freed : Bool) (s : State) : Host.Outcome State Fault Refusal :=
  .next (s.recoveryEnds pulses freed)

end Sys2Proof.Machine
end

