-- ==== Sys2Proof/Machine/Events.lean ====
section
/-! DEFINITION. The meanings of power-on, the trip line, the stop requests and the timers outside the instrument bus. -/

namespace Sys2Proof.Machine

/-- R185: the release of RESETN. -/
def execPowerOn (straps : BitVec 4) (s : State) : Host.Outcome State Fault Refusal :=
  .next (s.powerOn straps)

/-- R63: the filtered trip line becomes asserted. -/
def execPtripAsserted (s : State) : Host.Outcome State Fault Refusal :=
  .next s.assertPtrip

/-- R63: the filtered trip line becomes deasserted. -/
def execPtripDeasserted (s : State) : Host.Outcome State Fault Refusal :=
  .next s.deassertPtrip

/-- R12: the roll-call period timer expires. -/
def execRollCallPeriodExpiry (s : State) : Host.Outcome State Fault Refusal :=
  .next s.expirePeriod

/-- R14: the roll-call reply timer expires. -/
def execReplyTimerExpiry (s : State) : Host.Outcome State Fault Refusal :=
  .next s.expireReply

/-- R55: the engage timer of a train expires. -/
def execEngageTimerExpiry (t : TrainId) (s : State) : Host.Outcome State Fault Refusal :=
  .next (s.expireEngage t)

/-- R56: the start timer of a train expires. -/
def execStartTimerExpiry (t : TrainId) (s : State) : Host.Outcome State Fault Refusal :=
  .next (s.expireStart t)

/-- R59: the stop timer of a train expires. -/
def execStopTimerExpiry (t : TrainId) (s : State) : Host.Outcome State Fault Refusal :=
  .next (s.expireStop t)

/-- R58: a stop request of another block is taken. -/
def execTrainStopRequest (s : State) : Host.Outcome State Fault Refusal :=
  .next s.takeStopRequest

/-- R79: the pacing timer of a train expires. -/
def execPacingTimerExpiry (t : TrainId) (s : State) : Host.Outcome State Fault Refusal :=
  .next (s.expirePacing t)

/-- R91: the staleness timer of a transmitter expires. -/
def execCavernStalenessTimerExpiry (c : CavernId) (x : Transmitter) (s : State) : Host.Outcome State Fault Refusal :=
  .next (s.expireStaleness c x)

/-- R94: the blind timer of a cavern expires. -/
def execBlindTimerExpiry (c : CavernId) (s : State) : Host.Outcome State Fault Refusal :=
  .next (s.expireBlind c)

/-- R109: the staleness timer of a layer expires. -/
def execLayerStalenessTimerExpiry (l : LayerId) (s : State) : Host.Outcome State Fault Refusal :=
  .next (s.expireLayer l)

/-- R137: the boundary timer expires. -/
def execBoundaryTimerExpiry (s : State) : Host.Outcome State Fault Refusal :=
  .next s.expireBoundary

/-- R141: the pre-reservation timer expires. -/
def execPreReservationTimerExpiry (s : State) : Host.Outcome State Fault Refusal :=
  .next s.expirePre

/-- R142: the ramp step timer expires. -/
def execRampStepTimerExpiry (s : State) : Host.Outcome State Fault Refusal :=
  .next s.expireRamp

/-- R135: the time-mark timer expires. -/
def execTimeMarkTimerExpiry (s : State) : Host.Outcome State Fault Refusal :=
  .next s.expireMark

/-- R152: the hold timer expires. -/
def execHoldTimerExpiry (s : State) : Host.Outcome State Fault Refusal :=
  .next s.expireHold

end Sys2Proof.Machine
end

