-- ==== Sys2Proof/Machine/Frames.lean ====
section
/-! DEFINITION. The meanings of the rows that are a frame or a telegram not taken (R1 to R4). -/

namespace Sys2Proof.Machine

/-- R1: a frame with a bad frame check sequence is discarded at its port, without a fault. -/
def execFrameCheckDiscard (_port : Port) (_f : RawFrame) (s : State) : Host.Outcome State Fault Refusal :=
  .next s

/-- R1: a frame whose type is not the telegram type value crosses or is dropped; one that turns out to be a telegram takes
the way of R2 (log entry 4). -/
def execForeignFrame (port : Port) (f : RawFrame) (s : State) : Host.Outcome State Fault Refusal :=
  .next (s.receiveFrame port f)

/-- R2: a frame of the telegram type goes to the form check, and one that fails raises MALFORMED; one that passes goes to
steering (log entry 4). -/
def execMalformedTelegram (port : Port) (f : RawFrame) (s : State) : Host.Outcome State Fault Refusal :=
  .next (s.receiveFrame port f)

/-- R3, R4: a telegram is steered, and one that is not accepted raises CLASS_NOT_ALLOWED; one that is accepted is taken (log
entry 4). -/
def execDroppedTelegram (port : Port) (eth : Eth) (t : Telegram) (s : State) : Host.Outcome State Fault Refusal :=
  .next (s.receiveTelegram port eth t)

end Sys2Proof.Machine
end

