-- ==== Sys2Proof/Machine/Requests.lean ====
section
/-! DEFINITION. The meanings of the management requests (chapter 11), each a MANAGE on Port U. -/

namespace Sys2Proof.Machine

/-- R180: READ_ENTRIES. -/
def execReadEntries (h : Header) (table : Word) (first : HWord) (count field : Word) (s : State) : Host.Outcome State Fault Refusal :=
  .next (s.arriveManage h 1 (reqReadEntries table first count field))

/-- R180: READ_STATE. -/
def execReadState (h : Header) (block : Word) (index : HWord) (field : Word) (s : State) : Host.Outcome State Fault Refusal :=
  .next (s.arriveManage h 1 (reqReadState block index field))

/-- R10: WRITE_ENTRIES to STATIONS. -/
def execWriteStations (h : Header) (fields : List Field) (s : State) : Host.Outcome State Fault Refusal :=
  .next (s.arriveManage h (1 + fields.length) (.write 0 fields))

/-- R40: WRITE_ENTRIES to PERMISSIONS. -/
def execWritePermissions (h : Header) (fields : List Field) (s : State) : Host.Outcome State Fault Refusal :=
  .next (s.arriveManage h (1 + fields.length) (.write 1 fields))

/-- R27: WRITE_ENTRIES to POSITIONS. -/
def execWritePositions (h : Header) (fields : List Field) (s : State) : Host.Outcome State Fault Refusal :=
  .next (s.arriveManage h (1 + fields.length) (.write 2 fields))

/-- R28: WRITE_ENTRIES to DUTIES. -/
def execWriteDuties (h : Header) (fields : List Field) (s : State) : Host.Outcome State Fault Refusal :=
  .next (s.arriveManage h (1 + fields.length) (.write 3 fields))

/-- R47: WRITE_ENTRIES to TRAINS. -/
def execWriteTrains (h : Header) (fields : List Field) (s : State) : Host.Outcome State Fault Refusal :=
  .next (s.arriveManage h (1 + fields.length) (.write 4 fields))

/-- R90: WRITE_ENTRIES to CAVERNS. -/
def execWriteCaverns (h : Header) (fields : List Field) (s : State) : Host.Outcome State Fault Refusal :=
  .next (s.arriveManage h (1 + fields.length) (.write 5 fields))

/-- R95: WRITE_ENTRIES to BANDS. -/
def execWriteBands (h : Header) (fields : List Field) (s : State) : Host.Outcome State Fault Refusal :=
  .next (s.arriveManage h (1 + fields.length) (.write 6 fields))

/-- R106: WRITE_ENTRIES to STORES. -/
def execWriteStores (h : Header) (fields : List Field) (s : State) : Host.Outcome State Fault Refusal :=
  .next (s.arriveManage h (1 + fields.length) (.write 7 fields))

/-- R107: WRITE_ENTRIES to LAYERS. -/
def execWriteLayers (h : Header) (fields : List Field) (s : State) : Host.Outcome State Fault Refusal :=
  .next (s.arriveManage h (1 + fields.length) (.write 8 fields))

/-- R163: WRITE_ENTRIES to SCAN. -/
def execWriteScan (h : Header) (fields : List Field) (s : State) : Host.Outcome State Fault Refusal :=
  .next (s.arriveManage h (1 + fields.length) (.write 9 fields))

/-- R171: WRITE_ENTRIES to ROUTES. -/
def execWriteRoutes (h : Header) (fields : List Field) (s : State) : Host.Outcome State Fault Refusal :=
  .next (s.arriveManage h (1 + fields.length) (.write 10 fields))

/-- R181: WRITE_ENTRIES to PART. -/
def execWritePart (h : Header) (fields : List Field) (s : State) : Host.Outcome State Fault Refusal :=
  .next (s.arriveManage h (1 + fields.length) (.write 11 fields))

/-- R37: FENCE with scope ALL. -/
def execFenceAll (h : Header) (s : State) : Host.Outcome State Fault Refusal :=
  .next (s.arriveManage h 1 .fenceAll)

/-- R37: FENCE with scope POSITION. -/
def execFencePosition (h : Header) (p : HWord) (s : State) : Host.Outcome State Fault Refusal :=
  .next (s.arriveManage h 1 (.fencePosition p.toNat))

/-- R37: FENCE with scope DESK. -/
def execFenceDesk (h : Header) (d : HWord) (s : State) : Host.Outcome State Fault Refusal :=
  .next (s.arriveManage h 1 (.fenceDesk d.toNat))

/-- R37: FENCE with scope DUTY. -/
def execFenceDuty (h : Header) (u : HWord) (s : State) : Host.Outcome State Fault Refusal :=
  .next (s.arriveManage h 1 (.fenceDuty u.toNat))

/-- R182: OPEN_GATE. -/
def execOpenGate (h : Header) (s : State) : Host.Outcome State Fault Refusal :=
  .next (s.arriveManage h 1 .openGate)

/-- R183: CLOSE_GATE. -/
def execCloseGate (h : Header) (s : State) : Host.Outcome State Fault Refusal :=
  .next (s.arriveManage h 1 .closeGate)

/-- R184: RESTART. -/
def execRestart (h : Header) (s : State) : Host.Outcome State Fault Refusal :=
  .next (s.arriveManage h 1 .restart)

/-- R166: BUS_TRANSFER with direction READ. -/
def execBusTransferRead (h : Header) (address : HWord) (offset count : Word) (s : State) : Host.Outcome State Fault Refusal :=
  .next (s.arriveManage h 1 (.transferRead address.toNat offset.toNat count.toNat))

/-- R166: BUS_TRANSFER with direction WRITE. -/
def execBusTransferWrite (h : Header) (address : HWord) (offset count : Word) (fields : List Field) (s : State) : Host.Outcome State Fault Refusal :=
  .next (s.arriveManage h (1 + fields.length) (.transferWrite address.toNat offset.toNat count.toNat fields))

/-- R162: BUS_RECOVER without ABORT. -/
def execBusRecover (h : Header) (s : State) : Host.Outcome State Fault Refusal :=
  .next (s.arriveManage h 1 .recover)

/-- R162: BUS_RECOVER with ABORT; `moved` are the bytes the transaction in progress had moved. -/
def execBusRecoverAbort (h : Header) (moved : List Byte) (s : State) : Host.Outcome State Fault Refusal :=
  .next (s.arriveManage h 1 (.recoverAbort (some moved)))

/-- R175: CLEAR_NOTICES. -/
def execClearNotices (h : Header) (tier low high : Word) (s : State) : Host.Outcome State Fault Refusal :=
  .next (s.arriveManage h 1 (reqClear tier low high))

/-- R176: SET_MASK. -/
def execSetMask (h : Header) (tier low high : Word) (s : State) : Host.Outcome State Fault Refusal :=
  .next (s.arriveManage h 1 (reqMask tier low high))

end Sys2Proof.Machine
end

