-- ==== Sys2Proof/Machine/Telegrams.lean ====
section
/-! DEFINITION. The meanings of the telegram rows: DISPATCH, SCHEDULE, ACTIVATION, TIMEMARK, POLL, REPORT, ROLLCALL_REPLY. -/

namespace Sys2Proof.Machine

/-- R21: a DISPATCH on Port U. -/
def execDispatch (h : Header) (items : List Item) (s : State) : Host.Outcome State Fault Refusal :=
  .next (s.arriveDispatch h items)

/-- R127: a SCHEDULE on Port U. -/
def execSchedule (h : Header) (items : List Item) (s : State) : Host.Outcome State Fault Refusal :=
  .next (s.arriveSchedule h items)

/-- R147: an ACTIVATION on Port U. -/
def execActivation (h : Header) (item : Item) (s : State) : Host.Outcome State Fault Refusal :=
  .next (s.arriveActivation h [item])

/-- R131: a TIMEMARK on Port U. -/
def execTimemark (h : Header) (item : Item) (s : State) : Host.Outcome State Fault Refusal :=
  .next (s.arriveMark h [item])

/-- R8: a POLL on Port U. -/
def execPoll (eth : Eth) (h : Header) (items : List Item) (pad : List Byte) (s : State) : Host.Outcome State Fault Refusal :=
  .next (s.arrivePoll eth h items pad)

/-- R7: a REPORT on Port D. -/
def execReport (eth : Eth) (h : Header) (items : List Item) (pad : List Byte) (s : State) : Host.Outcome State Fault Refusal :=
  .next (s.arriveReport eth h items pad)

/-- R15: a ROLLCALL_REPLY on Port D. -/
def execRollcallReply (h : Header) (items : List Item) (s : State) : Host.Outcome State Fault Refusal :=
  .next (s.arriveRollcallReply h items)

end Sys2Proof.Machine
end

