-- ==== Sys2Proof/Machine/Dispatch.lean ====
section
/-! DEFINITION. The meaning of every command: one arm per constructor of `Instr`, in the order of
spec/opcode_table.json. -/

namespace Sys2Proof.Machine

/-- A command's effect on everything but the queue of commands. -/
def exec (i : Instr) (s : State) : Host.Outcome State Fault Refusal :=
  match i with
  | .powerOn straps => Sys2Proof.Machine.execPowerOn straps s
  | .frameCheckDiscard port f => Sys2Proof.Machine.execFrameCheckDiscard port f s
  | .foreignFrame port f => Sys2Proof.Machine.execForeignFrame port f s
  | .malformedTelegram port f => Sys2Proof.Machine.execMalformedTelegram port f s
  | .droppedTelegram port eth t => Sys2Proof.Machine.execDroppedTelegram port eth t s
  | .dispatch h items => Sys2Proof.Machine.execDispatch h items s
  | .schedule h items => Sys2Proof.Machine.execSchedule h items s
  | .activation h item => Sys2Proof.Machine.execActivation h item s
  | .timemark h item => Sys2Proof.Machine.execTimemark h item s
  | .poll eth h items pad => Sys2Proof.Machine.execPoll eth h items pad s
  | .report eth h items pad => Sys2Proof.Machine.execReport eth h items pad s
  | .rollcallReply h items => Sys2Proof.Machine.execRollcallReply h items s
  | .readEntries h table first count field => Sys2Proof.Machine.execReadEntries h table first count field s
  | .readState h block index field => Sys2Proof.Machine.execReadState h block index field s
  | .writeStations h fields => Sys2Proof.Machine.execWriteStations h fields s
  | .writePermissions h fields => Sys2Proof.Machine.execWritePermissions h fields s
  | .writePositions h fields => Sys2Proof.Machine.execWritePositions h fields s
  | .writeDuties h fields => Sys2Proof.Machine.execWriteDuties h fields s
  | .writeTrains h fields => Sys2Proof.Machine.execWriteTrains h fields s
  | .writeCaverns h fields => Sys2Proof.Machine.execWriteCaverns h fields s
  | .writeBands h fields => Sys2Proof.Machine.execWriteBands h fields s
  | .writeStores h fields => Sys2Proof.Machine.execWriteStores h fields s
  | .writeLayers h fields => Sys2Proof.Machine.execWriteLayers h fields s
  | .writeScan h fields => Sys2Proof.Machine.execWriteScan h fields s
  | .writeRoutes h fields => Sys2Proof.Machine.execWriteRoutes h fields s
  | .writePart h fields => Sys2Proof.Machine.execWritePart h fields s
  | .fenceAll h => Sys2Proof.Machine.execFenceAll h s
  | .fencePosition h p => Sys2Proof.Machine.execFencePosition h p s
  | .fenceDesk h d => Sys2Proof.Machine.execFenceDesk h d s
  | .fenceDuty h u => Sys2Proof.Machine.execFenceDuty h u s
  | .openGate h => Sys2Proof.Machine.execOpenGate h s
  | .closeGate h => Sys2Proof.Machine.execCloseGate h s
  | .restart h => Sys2Proof.Machine.execRestart h s
  | .busTransferRead h address offset count => Sys2Proof.Machine.execBusTransferRead h address offset count s
  | .busTransferWrite h address offset count fields => Sys2Proof.Machine.execBusTransferWrite h address offset count fields s
  | .busRecover h => Sys2Proof.Machine.execBusRecover h s
  | .busRecoverAbort h moved => Sys2Proof.Machine.execBusRecoverAbort h moved s
  | .clearNotices h tier low high => Sys2Proof.Machine.execClearNotices h tier low high s
  | .setMask h tier low high => Sys2Proof.Machine.execSetMask h tier low high s
  | .ptripAsserted => Sys2Proof.Machine.execPtripAsserted s
  | .ptripDeasserted => Sys2Proof.Machine.execPtripDeasserted s
  | .rollCallPeriodExpiry => Sys2Proof.Machine.execRollCallPeriodExpiry s
  | .replyTimerExpiry => Sys2Proof.Machine.execReplyTimerExpiry s
  | .engageTimerExpiry t => Sys2Proof.Machine.execEngageTimerExpiry t s
  | .startTimerExpiry t => Sys2Proof.Machine.execStartTimerExpiry t s
  | .stopTimerExpiry t => Sys2Proof.Machine.execStopTimerExpiry t s
  | .trainStopRequest => Sys2Proof.Machine.execTrainStopRequest s
  | .pacingTimerExpiry t => Sys2Proof.Machine.execPacingTimerExpiry t s
  | .cavernStalenessTimerExpiry c x => Sys2Proof.Machine.execCavernStalenessTimerExpiry c x s
  | .blindTimerExpiry c => Sys2Proof.Machine.execBlindTimerExpiry c s
  | .layerStalenessTimerExpiry l => Sys2Proof.Machine.execLayerStalenessTimerExpiry l s
  | .boundaryTimerExpiry => Sys2Proof.Machine.execBoundaryTimerExpiry s
  | .preReservationTimerExpiry => Sys2Proof.Machine.execPreReservationTimerExpiry s
  | .rampStepTimerExpiry => Sys2Proof.Machine.execRampStepTimerExpiry s
  | .timeMarkTimerExpiry => Sys2Proof.Machine.execTimeMarkTimerExpiry s
  | .holdTimerExpiry => Sys2Proof.Machine.execHoldTimerExpiry s
  | .scanIntervalTimerExpiry => Sys2Proof.Machine.execScanIntervalTimerExpiry s
  | .clockLowTimerExpiry moved pulses => Sys2Proof.Machine.execClockLowTimerExpiry moved pulses s
  | .dataLowTimerExpiry moved => Sys2Proof.Machine.execDataLowTimerExpiry moved s
  | .transactionStart clockHigh dataHigh => Sys2Proof.Machine.execTransactionStart clockHigh dataHigh s
  | .arbitrationLost moved => Sys2Proof.Machine.execArbitrationLost moved s
  | .scanTransactionComplete r => Sys2Proof.Machine.execScanTransactionComplete r s
  | .managementTransferComplete r => Sys2Proof.Machine.execManagementTransferComplete r s
  | .recoveryComplete pulses freed => Sys2Proof.Machine.execRecoveryComplete pulses freed s

end Sys2Proof.Machine
end

