-- ==== Sys2Proof/Machine/Step.lean ====
section
/-! DEFINITION. One step of the block: the command at the front of the queue, or, on an empty queue, what stands due
or one millisecond of time (log entry 1). -/

namespace Sys2Proof.Machine

/-- On an empty queue: the command that stands due, else the tick. -/
def idleStep (s : State) : Host.Outcome State Fault Refusal :=
  match s.idleEvent with
  | some c => exec c s
  | none => .next s.tick

/-- One step: the command at the front is taken and its effect answered with the queue's rest. -/
def step (s : State) : Host.Outcome State Fault Refusal :=
  match s.pending with
  | c :: rest => exec c { s with pending := rest }
  | [] => idleStep s

/-- The command a table word spells put at the front of the queue; no row of the table gives bits, so every word leaves
the state as it stands. -/
def State.withFetchWord (s : State) (nbits w : Nat) : State :=
  match decodeTableWord nbits w with
  | some c => { s with pending := c :: s.pending }
  | none => s

end Sys2Proof.Machine
end

