-- ==== Sys2Proof/WellFormed.lean ====
section
/-! DEFINITION. Which commands can arrive: the limits section 1.10, chapter 9 and chapter 11 put on what a
telegram, a request or a bus event can carry. -/

namespace Sys2Proof

/-- Source stations run from 0x0000 to 0xFFFE (section 1.10, Header). -/
def Header.wf (h : Header) : Bool := h.src != 0xFFFF

/-- At most 16 items (section 1.10). -/
def itemsWf (l : List Item) : Bool := l.length ≤ 16

/-- One request item and up to 15 FIELD items (section 11.1). -/
def fieldsWf (l : List Field) : Bool := l.length ≤ 15

/-- An Ethernet payload of at most 1500 bytes. -/
def RawFrame.wf (f : RawFrame) : Bool := f.payload.length ≤ 1500

/-- Bytes a management transfer can have moved: at most its count, at most 32 (R166). -/
def movedWf (l : List Byte) : Bool := l.length ≤ 32

/-- A recovery gives at most nine pulses (R161). -/
def pulsesWf (n : Nat) : Bool := n ≤ 9

/-- Well-formed commands. -/
def Instr.wf : Instr → Bool
  | .frameCheckDiscard _ f | .foreignFrame _ f => f.wf
  | .malformedTelegram _ f => f.wf && (formCheck f.payload).isSome
  | .droppedTelegram _ _ t => itemsWf t.items && t.hdr.wf && (formCheck t.toBytes).isNone
  | .dispatch h items | .schedule h items => h.wf && itemsWf items
  | .poll _ h items _ | .report _ h items _ => h.wf && itemsWf items
  | .rollcallReply h items => h.wf && itemsWf items && !items.isEmpty
  | .activation h _ | .timemark h _ => h.wf
  | .readEntries h _ _ _ _ | .readState h _ _ _ => h.wf
  | .writeStations h fs | .writePermissions h fs | .writePositions h fs | .writeDuties h fs
  | .writeTrains h fs | .writeCaverns h fs | .writeBands h fs | .writeStores h fs | .writeLayers h fs
  | .writeScan h fs | .writeRoutes h fs | .writePart h fs => h.wf && fieldsWf fs
  | .fenceAll h | .fencePosition h _ | .fenceDesk h _ | .fenceDuty h _ => h.wf
  | .openGate h | .closeGate h | .restart h => h.wf
  | .busTransferRead h _ _ _ => h.wf
  | .busTransferWrite h _ _ _ fs => h.wf && fieldsWf fs
  | .busRecover h => h.wf
  | .busRecoverAbort h moved => h.wf && movedWf moved
  | .clearNotices h _ _ _ | .setMask h _ _ _ => h.wf
  | .clockLowTimerExpiry moved pulses => movedWf moved && pulsesWf pulses
  | .dataLowTimerExpiry moved | .arbitrationLost moved => movedWf moved
  | .managementTransferComplete (.ok received) => movedWf received
  | .managementTransferComplete (.noAck moved) => movedWf moved
  | .recoveryComplete pulses _ => pulsesWf pulses
  | _ => true

end Sys2Proof
end

