-- ==== Sys2Proof/Safety.lean ====
section
/-! DEFINITION. What holds of the block at every step, in the terms statements use: the bounds of its buffers, the
settings the manual hard-wires, and the agreement of a cavern's direction with its holders. -/

namespace Sys2Proof.Machine

/-! ### Bounds -/

/-- The transmit queues within 64 frames (R1). -/
def Link.bounded (l : Link) : Bool := l.u.tx.length ≤ txDepth && l.d.tx.length ≤ txDepth

/-- The drive queue within 16 places and the poll hold list within 4 (R70, R85). -/
def Queue.bounded (q : Queue) : Bool := q.entries.length ≤ queueDepth && q.polls.length ≤ pollDepth

/-- The fault ring within 32 records, the overwrite count within 65 535 (R170). -/
def FaultLog.bounded (l : FaultLog) : Bool := l.ring.length ≤ ringDepth && l.overwrites ≤ 65535

/-- At most 8 commitments in every slot record (R128). -/
def slotsBounded (v : Vector Slot 48) : Bool := (fins 48).all fun p => (v.get p).commits.length ≤ 8

/-- Every buffer and list of the block within its places. -/
def State.bounded (s : State) : Bool :=
  s.link.bounded && s.queue.bounded && s.faults.bounded && s.reservations.length ≤ reservationDepth
    && s.history.length ≤ historyDepth && slotsBounded s.slots

/-! ### Hard-wired settings -/

/-- Fixed routes read as the manual fixes them (section 10.3). -/
def routesFixed (v : Vector Route 61) : Bool :=
  (fins 61).all fun c =>
    (!fixedSafety c || v.get c == {}) && (!fixedDesk c || v.get c == { plant := true, desk := true })

/-- The SAFETY tier masks no cause of fixed route SAFETY (R176). -/
def State.safetyUnmasked (s : State) : Bool := (s.tiers.get tierSafety).mask &&& fixedSafetySet == 0

/-- The hard-wired settings of the fault unit. -/
def State.hardwired (s : State) : Bool := routesFixed s.routes && s.safetyUnmasked

/-! ### The part's settings -/

/-- Every numeric setting of PART within the range of its listing (sections 7.1, 11.3). -/
def Part.inRange (p : Part) : Prop :=
  (1 ≤ p.rollPeriod ∧ p.rollPeriod ≤ 60) ∧ (20 ≤ p.replyTimeout ∧ p.replyTimeout ≤ 500) ∧
  (1 ≤ p.missLimit ∧ p.missLimit ≤ 10) ∧ (1 ≤ p.failureLimit ∧ p.failureLimit ≤ 7) ∧
  (60 ≤ p.slotLength ∧ p.slotLength ≤ 900 ∧ p.slotLength % 60 = 0) ∧ (1 ≤ p.gateLead ∧ p.gateLead ≤ 12) ∧
  (1 ≤ p.lookAhead ∧ p.lookAhead ≤ 6) ∧ (10 ≤ p.preLead ∧ p.preLead ≤ 120) ∧ (2 ≤ p.rampStep ∧ p.rampStep ≤ 60) ∧
  (1 ≤ p.timeTolerance ∧ p.timeTolerance ≤ 10) ∧ (10 ≤ p.markLimit ∧ p.markLimit ≤ 600) ∧
  (1 ≤ p.holdTime ∧ p.holdTime ≤ 60) ∧ (1 ≤ p.stretchLimit ∧ p.stretchLimit ≤ 50) ∧
  (5 ≤ p.hangLimit ∧ p.hangLimit ≤ 100) ∧ (100 ≤ p.scanInterval ∧ p.scanInterval ≤ 10000)

/-! ### Direction claims -/

/-- A cavern's direction is IDLE exactly while it has no holder (R103, R104). -/
def State.directed (s : State) : Bool := (fins 2).all fun c => ((s.cavern c).run.direction.isNone) == ((s.cavern c).run.holders == 0)

/-! ### The drive queue while the gate is CLOSED -/

/-- No quantity waits: no POWER, REACTIVE or REHEAT entry and no pending dispatch. -/
def Queue.quiet (q : Queue) : Prop :=
  (∀ e ∈ q.entries, e.kind.isQuantity = false) ∧ ∀ t, q.pendings.get t = none

/-- A command hold holds a command of its own train only (R75). -/
def Queue.holdsCommands (q : Queue) : Prop :=
  ∀ t e, q.holds.get t = some e → e.train = t ∧ e.kind.isQuantity = false

/-- While the gate is CLOSED no quantity waits (R84). -/
def State.gateQuiet (s : State) : Prop := s.queue.holdsCommands ∧ (s.gateOpen = false → s.queue.quiet)

/-- A safe state: every buffer within its places, the hard-wired settings as fixed, each direction held by someone. -/
def State.safe (s : State) : Bool := s.bounded && s.hardwired && s.directed

/-! ### The translation cache -/

/-- No two valid entries of the translation cache have one key, and each stands in the set of its key (R36). -/
def cacheUnique (v : Vector CacheEntry 16) : Prop :=
  ∀ i : Fin 16, (v.get i).valid = true →
    (cacheSet (v.get i).key).val = i.val / 2 ∧
      ∀ j : Fin 16, (v.get j).valid = true → (v.get j).isPosition = (v.get i).isPosition →
        (v.get j).key = (v.get i).key → j = i

/-! ### Who a telegram comes from -/

/-- R5: the source of a telegram on a port, for a class that accepts the entries `accepts` names. -/
def State.sourceOf (s : State) (p : Port) (h : Header) (accepts : Station → Bool) : Option Source :=
  match s.findStation p h.src with
  | none => none
  | some i =>
    if accepts (s.station i) then
      some { entry := i, role := (s.station i).role, level := (s.station i).level, address := h.src, seq := h.seq }
    else none

/-- R3, R5, R6: who a MANAGE on Port U is taken from. -/
def State.managerOf (s : State) (h : Header) : Option Manager :=
  if h.dst ≠ s.part.address then none
  else if s.commissioning then some { dst := h.src, seq := h.seq, level := 0 }
  else
    (s.sourceOf .u h fun e => e.manage).map fun x =>
      { dst := h.src, seq := h.seq, level := x.level, desk := if x.role = .desk then some x.entry else none }

/-! ### Management rows -/

/-- The header and the request of a management row; none for the other rows. -/
def requestOfCommand (c : Instr) : Option (Header × ManageReq) :=
  match c with
  | .readEntries h t i n f => some (h, reqReadEntries t i n f)
  | .readState h b i f => some (h, reqReadState b i f)
  | .writeStations h fs => some (h, .write 0 fs)
  | .writePermissions h fs => some (h, .write 1 fs)
  | .writePositions h fs => some (h, .write 2 fs)
  | .writeDuties h fs => some (h, .write 3 fs)
  | .writeTrains h fs => some (h, .write 4 fs)
  | .writeCaverns h fs => some (h, .write 5 fs)
  | .writeBands h fs => some (h, .write 6 fs)
  | .writeStores h fs => some (h, .write 7 fs)
  | .writeLayers h fs => some (h, .write 8 fs)
  | .writeScan h fs => some (h, .write 9 fs)
  | .writeRoutes h fs => some (h, .write 10 fs)
  | .writePart h fs => some (h, .write 11 fs)
  | .fenceAll h => some (h, .fenceAll)
  | .fencePosition h p => some (h, .fencePosition p.toNat)
  | .fenceDesk h d => some (h, .fenceDesk d.toNat)
  | .fenceDuty h u => some (h, .fenceDuty u.toNat)
  | .openGate h => some (h, .openGate)
  | .closeGate h => some (h, .closeGate)
  | .restart h => some (h, .restart)
  | .busTransferRead h a o n => some (h, .transferRead a.toNat o.toNat n.toNat)
  | .busTransferWrite h a o n fs => some (h, .transferWrite a.toNat o.toNat n.toNat fs)
  | .busRecover h => some (h, .recover)
  | .busRecoverAbort h moved => some (h, .recoverAbort (some moved))
  | .clearNotices h k l u => some (h, reqClear k l u)
  | .setMask h k l u => some (h, reqMask k l u)
  | _ => none

/-- The highest level each management row accepts, as R177 lists them. -/
def highestLevel (c : Instr) : Nat :=
  match c with
  | .readEntries _ _ _ _ _ | .readState _ _ _ _ => 3
  | .fenceAll _ | .fencePosition _ _ | .fenceDesk _ _ | .fenceDuty _ _ | .writePositions _ _ => 2
  | .restart _ | .writeStations _ _ | .writeRoutes _ _ | .writePart _ _ => 0
  | _ => 1

/-- The least index a property holds of. -/
def leastIndex {n : Nat} (p : Fin n → Prop) (i : Fin n) : Prop := p i ∧ ∀ j : Fin n, j < i → ¬ p j

/-- A DISPATCH with header `h` is taken, from the source `src` (R3, R5). -/
def State.dispatches (s : State) (h : Header) (src : Source) : Prop :=
  h.dst = s.part.address ∧ s.sourceOf .u h acceptsDispatch = some src

/-- An item of a kind with a fixed level, for train `t` by a TRAIN reference, that passes the checks A to I of R22 from a
source whose level is within the train's ceiling. -/
def State.controls (s : State) (src : Source) (i : Item) (t : TrainId) : Prop :=
  s.gateOpen = true ∧ src.level ≤ 1 ∧ src.level ≤ (s.cfg t).ceiling ∧ (s.cfg t).configured = true ∧
    i.refKind = 1 ∧ i.refId.toNat = t.val

/-- The item fields a fault of a DISPATCH item carries (R44), with a cause. -/
def dispatchFaultInfo (src : Source) (i : Item) (c : Cause) : FaultInfo :=
  { cause := c, reference := some (referenceWord i.refKind i.refId), station := some src.address, seq := some src.seq,
    kind := some i.kind, detail := some i.value, tag := some i.tag }

/-- The trains other than `t` keep their running condition, and every train its configuration. -/
def othersKept (s s' : State) (t : TrainId) : Prop := (∀ u, s'.cfg u = s.cfg u) ∧ ∀ u, u ≠ t → s'.run u = s.run u

/-- What no request for a train, no report and no event of the plant, schedule or reserve units touches: the tables
management writes, the settings, the gate, the stations and their roll call, the heat stores and their layers, the
instrument bus and its points, the trip line, the commands waiting. -/
def tablesKept (s s' : State) : Prop :=
  s'.part = s.part ∧ s'.permissions = s.permissions ∧ s'.positions = s.positions ∧ s'.duties = s.duties ∧
    s'.bands = s.bands ∧ s'.scan = s.scan ∧ s'.points = s.points ∧ s'.bus = s.bus ∧ s'.routes = s.routes ∧
    s'.stations = s.stations ∧ s'.roll = s.roll ∧ s'.gateOpen = s.gateOpen ∧ s'.stores = s.stores ∧
    s'.layers = s.layers ∧ s'.pending = s.pending ∧ s'.ptrip = s.ptrip

/-- A port that takes a frame handed to it (R1). -/
def State.takes (s : State) (p : Port) : Bool := (s.port p).up && (s.port p).tx.length < txDepth

end Sys2Proof.Machine
end

