-- ==== Sys2Proof/Certificates/Slice0/Obligations.lean ====
section
/-! DEFINITION. The statements for the provers. -/

open Sys2Proof Sys2Proof.Machine

/-! ### The block and its ports -/

/-- For every command c and state whose queue is c followed by a rest, a step answers what exec answers for c on the
state with the queue's rest. -/
def Obligations.StepTakesFront : Prop :=
  ∀ (c : Instr) (rest : List Instr) (s : State), s.pending = c :: rest → step s = exec c { s with pending := rest }

/-- The model's choice (log entry 1; the table has no row for a tick): on an empty queue the block runs the first
event that stands due, in this order (the model's, log entry 1): a waiting stop request; the roll-call period and
reply timers at 0; engage, start, stop and pacing timers, the lowest train first; the staleness timers of transmitters
A, then B; blind timers; layer staleness timers; the boundary, pre-reservation, ramp step, time-mark, hold and scan
interval timers; the clock-low and data-low timers, only while a transaction waits for its start condition (within an
exchange their commands tell what had moved: log entry 38). Where none stands due one millisecond passes: the named
timers count down, the points age, and the named tables, records and settings stand. -/
def Obligations.EmptyQueueLetsTimePass : Prop :=
  ∀ s : State, s.pending = [] →
    let at_ (b : Bool) (c : Instr) : Option Instr := if b then some c else none
    let train (k : TrainTimer) (c : TrainId → Instr) : Option Instr :=
      ((fins 6).find? fun t => (s.run t).timer == some (k, 0)).map c
    let cavern (p : CavernRun → Bool) (c : CavernId → Instr) : Option Instr :=
      ((fins 2).find? fun k => p (s.cavern k).run).map c
    let waits : Bool := s.bus.txn.any fun x => !x.started
    let due : List (Option Instr) :=
      [ at_ (s.stopRequests != []) .trainStopRequest,
        at_ (s.roll.period == some 0) .rollCallPeriodExpiry, at_ (s.roll.reply == some 0) .replyTimerExpiry,
        train .engage .engageTimerExpiry, train .start .startTimerExpiry, train .stop .stopTimerExpiry,
        ((fins 6).find? fun t => s.queue.pacing.get t == some 0).map .pacingTimerExpiry,
        cavern (fun r => r.staleA == some 0) (.cavernStalenessTimerExpiry · .a),
        cavern (fun r => r.staleB == some 0) (.cavernStalenessTimerExpiry · .b),
        cavern (fun r => r.blindTimer == .running 0) .blindTimerExpiry,
        ((fins 64).find? fun l => (s.layer l).stale == some 0).map .layerStalenessTimerExpiry,
        at_ (s.engine.boundary == some 0) .boundaryTimerExpiry,
        at_ (s.engine.pre == .running 0) .preReservationTimerExpiry,
        at_ (s.engine.ramp == some 0) .rampStepTimerExpiry, at_ (s.engine.mark == some 0) .timeMarkTimerExpiry,
        at_ (s.act.hold == some 0) .holdTimerExpiry, at_ (s.bus.interval == some 0) .scanIntervalTimerExpiry,
        at_ (s.bus.clockLow == some 0 && waits) (.clockLowTimerExpiry [] 0),
        at_ (s.bus.dataLow == some 0 && waits) (.dataLowTimerExpiry []) ]
    (∀ c, due.findSome? id = some c → step s = exec c s) ∧
    (due.findSome? id = none →
      ∃ t, step s = .next t ∧ t.stopRequests = s.stopRequests ∧ t.stations = s.stations ∧ t.part = s.part ∧
        t.gateOpen = s.gateOpen ∧ t.reservations = s.reservations ∧ t.slots = s.slots ∧ t.history = s.history ∧
        t.faults = s.faults ∧ t.tiers = s.tiers ∧ t.routes = s.routes ∧
        t.roll = { s.roll with period := s.roll.period.map (· - 1), reply := s.roll.reply.map (· - 1) } ∧
        t.engine.boundary = s.engine.boundary.map (· - 1) ∧ t.engine.ramp = s.engine.ramp.map (· - 1) ∧
        t.engine.mark = s.engine.mark.map (· - 1) ∧
        (∀ n, s.engine.pre = .running n → t.engine.pre = .running (n - 1)) ∧ t.act.hold = s.act.hold.map (· - 1) ∧
        t.bus = { s.bus with interval := s.bus.interval.map (· - 1), clockLow := s.bus.clockLow.map (· - 1),
                             dataLow := s.bus.dataLow.map (· - 1) } ∧
        (∀ u, t.cfg u = s.cfg u ∧ (t.run u).state = (s.run u).state ∧ (t.run u).power = (s.run u).power ∧
          (t.run u).timer = (s.run u).timer.map (fun x => (x.1, x.2 - 1)) ∧
          t.queue.pacing.get u = (s.queue.pacing.get u).map (· - 1)) ∧
        (∀ c, (t.cavern c).run.staleA = (s.cavern c).run.staleA.map (· - 1) ∧
          (t.cavern c).run.staleB = (s.cavern c).run.staleB.map (· - 1) ∧
          ∀ n, (s.cavern c).run.blindTimer = .running n → (t.cavern c).run.blindTimer = .running (n - 1)) ∧
        (∀ l, (t.layer l).stale = (s.layer l).stale.map (· - 1)) ∧
        ∀ i, (t.points.get i).age = (s.points.get i).age.map fun a => min (a + 1) 0xFFFFFFFE)

/-- R185: The state after reset has every table entry unused, ROUTES at its power-on values, empty mask sets, the gate
CLOSED, commissioning acceptance, the roll-call period and scan interval timers running, no blind timer running,
nothing to send and no command waiting. POWER_ON answers that state from any state, with the strap value in fields 0
and 2 of PART. The model's choice (log entry 12): the trip line, the link conditions, the commands waiting and the
counter of free values stand outside the reset. -/
def Obligations.ResetAndPowerOnValues : Prop :=
  ((∀ i, (State.reset.station i).inUse = false) ∧ (∀ i, (State.reset.positions.get i).state = .unused) ∧
   (∀ i, (State.reset.duties.get i).mapped = false) ∧ (∀ t, (State.reset.cfg t).configured = false) ∧
   (∀ c, (State.reset.cavern c).cfg.configured = false) ∧ (∀ h, (State.reset.store h).cfg.configured = false) ∧
   (∀ i, (State.reset.scan.get i).inUse = false) ∧ (∀ t, State.reset.run t = {}) ∧
   (∀ c, State.reset.routes.get c = routePowerOn c) ∧ (∀ k, (State.reset.tiers.get k).mask = 0) ∧
   State.reset.gateOpen = false ∧ State.reset.commissioning = true ∧
   State.reset.roll.period = some 5000 ∧ State.reset.bus.interval = some 1000 ∧
   (∀ c, (State.reset.cavern c).run.blindTimer = .idle) ∧
   State.reset.link.u.tx = [] ∧ State.reset.link.d.tx = [] ∧ State.reset.pending = []) ∧
  (∀ (s : State) (x : BitVec 4), ∃ t, exec (.powerOn x) s = .next t ∧
     t = { State.reset with
           pending := s.pending
           free := s.free
           ptrip := s.ptrip
           link := { u := { up := s.link.u.up }, d := { up := s.link.d.up } }
           part := { address := 0x7F00 + x.setWidth 16, ethLow := x.setWidth 32 }
           trains := Vector.replicate 6 { run := { tripLine := s.ptrip } } })

/-- R1: A frame with a bad check changes nothing. A foreign frame is handed unchanged to the other port with
foreign-frame pass ON and dropped without a fault with it OFF. A frame of the telegram type goes to the form check:
one that fails is the malformed telegram of that condition, one that passes is steered. A frame handed to a port joins
the end of its transmit queue while the link is up and fewer than 64 wait, and is discarded otherwise; a port sends
its oldest frame first. -/
def Obligations.FramesOnTheTwoPorts : Prop :=
  (∀ (s : State) (p : Port) (f : RawFrame), exec (.frameCheckDiscard p f) s = .next s) ∧
  (∀ (s : State) (p : Port) (f : RawFrame), f.type ≠ s.part.telegramType → s.part.foreignPass = true →
    exec (.foreignFrame p f) s = .next (s.hand (otherPort p) { eth := f.eth, type := f.type, payload := .raw f.payload })) ∧
  (∀ (s : State) (p : Port) (f : RawFrame), f.type ≠ s.part.telegramType → s.part.foreignPass = false →
    exec (.foreignFrame p f) s = .next s) ∧
  (∀ (s : State) (p : Port) (f : RawFrame) (c : Nat), f.type = s.part.telegramType → formCheck f.payload = some c →
    exec (.malformedTelegram p f) s = .next (s.malformed c (malformedHeader c f.payload))) ∧
  (∀ (s : State) (p : Port) (f : RawFrame), f.type = s.part.telegramType → formCheck f.payload = none →
    exec (.malformedTelegram p f) s = exec (.droppedTelegram p f.eth (parseTelegram f.payload)) s) ∧
  (∀ (s : State) (p : Port) (f : Frame), (s.port p).up = true → (s.port p).tx.length < 64 →
    s.hand p f = s.setPort p { s.port p with tx := (s.port p).tx ++ [f] }) ∧
  (∀ (s : State) (p : Port) (f : Frame), (s.port p).up = false ∨ 64 ≤ (s.port p).tx.length → s.hand p f = s) ∧
  (∀ (x : PortState) (f : Frame) (l : List Frame), x.up = true → x.tx = f :: l → x.transmit = { x with tx := l })

/-- R2: For every frame of the telegram type: where condition k of the seven of R2 is the first that holds, the only
effect is the fault MALFORMED with detail k, and with the source station and sequence of the header where conditions 1
and 2 are clear. Where none holds the telegram goes to steering. -/
def Obligations.FormCheckNamesFirstCondition : Prop :=
  ∀ (s : State) (p : Port) (f : RawFrame), f.type = s.part.telegramType →
    let b := f.payload
    let n := (byteAt b 9).toNat
    let conditions : List Bool :=
      [ b.length < 12, byteAt b 0 != 1, !(1 ≤ (byteAt b 1).toNat && (byteAt b 1).toNat ≤ 14), 16 < n,
        (halfAt b 10).toNat != 24 * n, b.length < 12 + 24 * n,
        !(if byteAt b 1 = 6 ∨ byteAt b 1 = 7 ∨ byteAt b 1 = 2 then n == 1
          else if byteAt b 1 = 10 ∨ byteAt b 1 = 9 then 1 ≤ n else true) ]
    (∀ k : Fin 7, conditions.findIdx? (· == true) = some k.val →
      exec (.malformedTelegram p f) s = .next (s.raise
        { cause := Cause.malformed
          detail := some (BitVec.ofNat 32 (k.val + 1))
          station := if k.val ≤ 1 then none else some (halfAt b 4)
          seq := if k.val ≤ 1 then none else some (halfAt b 6) })) ∧
    (conditions.findIdx? (· == true) = none →
      exec (.malformedTelegram p f) s = .next (s.receiveTelegram p f.eth (parseTelegram b)))

/-- R2: For every telegram of at most 16 items, reading the bytes it travels as gives the telegram back, every header
and item field at every value and the padding included; and one of a defined class whose item count suits it passes
the form check. -/
def Obligations.TelegramRoundTrip : Prop :=
  ∀ t : Telegram, t.items.length ≤ 16 →
    parseTelegram t.toBytes = t ∧
    (1 ≤ t.cls.toNat → t.cls.toNat ≤ 14 → countSuits t.cls t.items.length = true → formCheck t.toBytes = none)

/-- R3, R4: On Port U: DISPATCH and SCHEDULE for the own address, ACTIVATION and TIMEMARK for the own or the
all-stations address are taken as their commands; a POLL is taken whatever its destination; every other class but
MANAGE, and every other destination, is dropped with CLASS_NOT_ALLOWED. On Port D: a REPORT is taken, a ROLLCALL_REPLY
for the own address is taken, and every other of the fourteen classes is dropped with CLASS_NOT_ALLOWED. MANAGE on
Port U is the subject of ManageTelegramIsItsRequest and SourcesAreChecked. -/
def Obligations.SteeringOfTelegrams : Prop :=
  (∀ (s : State) (eth : Eth) (t : Telegram), t.items.length ≤ 16 → countSuits t.cls t.items.length = true →
     let here := exec (.droppedTelegram .u eth t) s
     let own : Prop := t.hdr.dst = s.part.address
     let all : Prop := t.hdr.dst = 0xFFFF
     let dropped : State := s.raise
       { cause := Cause.classNotAllowed, station := some t.hdr.src, seq := some t.hdr.seq, detail := some (t.cls.setWidth 32) }
     (t.cls = 0x01 → own → here = exec (.dispatch t.hdr t.items) s) ∧
     (t.cls = 0x05 → own → here = exec (.schedule t.hdr t.items) s) ∧
     (t.cls = 0x06 → own ∨ all → ∃ i, t.items = [i] ∧ here = exec (.activation t.hdr i) s) ∧
     (t.cls = 0x07 → own ∨ all → ∃ i, t.items = [i] ∧ here = exec (.timemark t.hdr i) s) ∧
     (t.cls = 0x03 → here = exec (.poll eth t.hdr t.items t.pad) s) ∧
     (t.cls = 0x01 ∨ t.cls = 0x05 ∨ t.cls = 0x0A → ¬ own → here = .next dropped) ∧
     (t.cls = 0x06 ∨ t.cls = 0x07 → ¬ own → ¬ all → here = .next dropped) ∧
     (t.cls = 0x04 ∨ t.cls = 0x09 ∨ t.cls = 0x02 ∨ t.cls = 0x08 ∨ t.cls = 0x0B ∨ t.cls = 0x0C ∨ t.cls = 0x0D ∨ t.cls = 0x0E →
       here = .next dropped)) ∧
  (∀ (s : State) (eth : Eth) (t : Telegram), t.items.length ≤ 16 → countSuits t.cls t.items.length = true →
     let here := exec (.droppedTelegram .d eth t) s
     let dropped : State := s.raise
       { cause := Cause.classNotAllowed, station := some t.hdr.src, seq := some t.hdr.seq, detail := some (t.cls.setWidth 32) }
     (t.cls = 0x04 → here = exec (.report eth t.hdr t.items t.pad) s) ∧
     (t.cls = 0x09 → t.hdr.dst = s.part.address → here = exec (.rollcallReply t.hdr t.items) s) ∧
     (t.cls = 0x09 → t.hdr.dst ≠ s.part.address → here = .next dropped) ∧
     (t.cls ≠ 0x04 → t.cls ≠ 0x09 → 1 ≤ t.cls.toNat → t.cls.toNat ≤ 14 → here = .next dropped))

/-- R5, R6, R3: A source is found at an in-use entry of its port with its address, or no such entry exists. A telegram
of an unknown source is dropped with SOURCE_UNKNOWN; a DISPATCH, SCHEDULE, ACTIVATION or TIMEMARK of a role the class
does not accept is dropped with CLASS_NOT_ALLOWED. A well-formed management command is dropped with CLASS_NOT_ALLOWED
for another destination; while no U entry has the manage flag it is taken at level 0 from any source; else it is
dropped with SOURCE_UNKNOWN or, without the manage flag, with CLASS_NOT_ALLOWED, and taken at the source's level. -/
def Obligations.SourcesAreChecked : Prop :=
  (∀ (s : State) (h : Header) (i : Item) (items : List Item) (eth : Eth) (pad : List Byte), items.length ≤ 16 →
     let own : Prop := h.dst = s.part.address
     let all : Prop := h.dst = 0xFFFF
     let dropped (c : Cause) (cls : Byte) : State := s.raise
       { cause := c, station := some h.src, seq := some h.seq, detail := some (cls.setWidth 32) }
     let unknown := dropped Cause.sourceUnknown
     let barred := dropped Cause.classNotAllowed
     (∀ p k, s.findStation p h.src = some k →
       (s.station k).inUse = true ∧ (s.station k).port = p ∧ (s.station k).address = h.src) ∧
     (∀ p, s.findStation p h.src = none →
       ∀ k, (s.station k).inUse = true → (s.station k).port = p → (s.station k).address ≠ h.src) ∧
     (s.findStation .u h.src = none →
       (own → exec (.dispatch h items) s = .next (unknown 0x01) ∧ exec (.schedule h items) s = .next (unknown 0x05)) ∧
       (own ∨ all → exec (.activation h i) s = .next (unknown 0x06) ∧ exec (.timemark h i) s = .next (unknown 0x07)) ∧
       exec (.poll eth h items pad) s = .next (unknown 0x03)) ∧
     (s.findStation .d h.src = none → exec (.report eth h items pad) s = .next (unknown 0x04)) ∧
     (∀ k, s.findStation .u h.src = some k →
       let r := (s.station k).role
       (own → r ≠ .safety → r ≠ .plant → r ≠ .desk → exec (.dispatch h items) s = .next (barred 0x01)) ∧
       (own → r ≠ .desk → exec (.schedule h items) s = .next (barred 0x05)) ∧
       (own ∨ all → r ≠ .grid → exec (.activation h i) s = .next (barred 0x06)) ∧
       (own ∨ all → r ≠ .clock → exec (.timemark h i) s = .next (barred 0x07)))) ∧
  (∀ (c : Instr) (h : Header) (q : ManageReq) (s : State), requestOfCommand c = some (h, q) → c.wf = true →
     let noManager : Prop := ∀ i, (s.station i).inUse = true → (s.station i).port = .u → (s.station i).manage = false
     let dropped (x : Cause) : State := s.raise
       { cause := x, station := some h.src, seq := some h.seq, detail := some 0x0A }
     (h.dst ≠ s.part.address → exec c s = .next (dropped Cause.classNotAllowed)) ∧
     (h.dst = s.part.address → noManager → s.managerOf h = some { dst := h.src, seq := h.seq, level := 0 }) ∧
     (h.dst = s.part.address → ¬ noManager → s.findStation .u h.src = none →
       exec c s = .next (dropped Cause.sourceUnknown)) ∧
     (∀ k, h.dst = s.part.address → ¬ noManager → s.findStation .u h.src = some k →
       ((s.station k).manage = false → exec c s = .next (dropped Cause.classNotAllowed)) ∧
       ((s.station k).manage = true →
         s.managerOf h = some
           { dst := h.src, seq := h.seq, level := (s.station k).level,
             desk := if (s.station k).role = .desk then some k else none })))

/-- R177, R178, R9: A well-formed management command taken from a manager is refused BAD_VALUE where its table, block
or tier code is undefined, refused LEVEL where the manager's level is above the request's highest level, and decided
otherwise. A refusal hands Port U one MANAGE_REPLY whose STATUS item carries the cause and the place, and changes
nothing else. Any other reply carries status, then at most 15 fields; aux A of its STATUS item is a free value (the
model's, log entry 7). -/
def Obligations.RequestsByLevelAndReply : Prop :=
  (∀ (c : Instr) (h : Header) (q : ManageReq) (s : State) (m : Manager),
     requestOfCommand c = some (h, q) → c.wf = true → s.managerOf h = some m →
       (q = .bad → exec c s = .next (s.refuseManage m { cause := .badValue })) ∧
       (q ≠ .bad → highestLevel c < m.level → exec c s = .next (s.refuseManage m { cause := .level })) ∧
       (q ≠ .bad → m.level ≤ highestLevel c → exec c s = .next (s.manage m q))) ∧
  (∀ (s : State) (m : Manager) (r : MRefusal) (x : Status) (fields : List Item),
     let frame (items : List Item) : Frame :=
       { eth := { dst := 0xFFFFFFFFFFFF, src := s.part.ethHigh ++ s.part.ethLow }
         type := s.part.telegramType
         payload := .telegram
           { cls := 0x0B, hdr := { dst := m.dst, src := s.part.address, seq := m.seq, flags := 0 }, items := items,
             pad := List.replicate (46 - (12 + 24 * items.length)) 0 } }
     let status (v a b c : Word) : Item := { kind := 0x60, value := v, auxA := a, auxB := b, auxC := c }
     s.refuseManage m r = s.hand .u (frame
       [status 2 (code mCauses r.cause) (optNum (fun p => nat p.1) r.place) (optNum (fun p => nat p.2) r.place)]) ∧
     ∃ a, s.replyWith m x fields = State.hand { s with free := s.free + 1 } .u (frame
       ((status (code statusListing x) a 0xFFFFFFFF 0xFFFFFFFF :: fields).take 16)))

/-- R3: A telegram of class MANAGE on Port U, with a request item and at most 15 more, is the management command its
request item's kind and aux A spell, with its operands and FIELD items. An undefined kind is refused BAD_VALUE. For an
abort, which a telegram does not tell the bytes moved of, those bytes are a free value (the model's, log entry 9).
Items after the request item that are no FIELD items, and items after a request that takes none, are ignored (the
model's, log entry 40). -/
def Obligations.ManageTelegramIsItsRequest : Prop :=
  ∀ (s : State) (eth : Eth) (h : Header) (i : Item) (rest : List Item) (pad : List Byte), rest.length ≤ 15 →
    let here := exec (.droppedTelegram .u eth { cls := 0x0A, hdr := h, items := i :: rest, pad := pad }) s
    let fs := fieldsOf rest
    (i.kind = 0x50 → here = exec (.readEntries h i.auxA i.refId i.auxB i.auxC) s) ∧
    (i.kind = 0x52 → here = exec (.readState h i.auxA i.refId i.auxC) s) ∧
    (i.kind = 0x51 →
      (i.auxA = 0 → here = exec (.writeStations h fs) s) ∧ (i.auxA = 1 → here = exec (.writePermissions h fs) s) ∧
      (i.auxA = 2 → here = exec (.writePositions h fs) s) ∧ (i.auxA = 3 → here = exec (.writeDuties h fs) s) ∧
      (i.auxA = 4 → here = exec (.writeTrains h fs) s) ∧ (i.auxA = 5 → here = exec (.writeCaverns h fs) s) ∧
      (i.auxA = 6 → here = exec (.writeBands h fs) s) ∧ (i.auxA = 7 → here = exec (.writeStores h fs) s) ∧
      (i.auxA = 8 → here = exec (.writeLayers h fs) s) ∧ (i.auxA = 9 → here = exec (.writeScan h fs) s) ∧
      (i.auxA = 10 → here = exec (.writeRoutes h fs) s) ∧ (i.auxA = 11 → here = exec (.writePart h fs) s)) ∧
    (i.kind = 0x53 →
      (i.auxA = 0 → here = exec (.fenceAll h) s) ∧ (i.auxA = 1 → here = exec (.fencePosition h i.refId) s) ∧
      (i.auxA = 2 → here = exec (.fenceDesk h i.refId) s) ∧ (i.auxA = 3 → here = exec (.fenceDuty h i.refId) s)) ∧
    (i.kind = 0x54 → here = exec (.openGate h) s) ∧ (i.kind = 0x55 → here = exec (.closeGate h) s) ∧
    (i.kind = 0x56 → here = exec (.restart h) s) ∧
    (i.kind = 0x57 →
      (i.auxA = 0 → here = exec (.busTransferRead h i.refId i.auxB i.auxC) s) ∧
      (i.auxA = 1 → here = exec (.busTransferWrite h i.refId i.auxB i.auxC fs) s)) ∧
    (i.kind = 0x58 →
      (i.auxA = 0 → here = exec (.busRecover h) s) ∧
      (i.auxA = 1 → ∀ m, s.managerOf h = some m → m.level ≤ 1 →
        ∃ moved, here = exec (.busRecoverAbort h moved) { s with free := s.free + 1 })) ∧
    (i.kind = 0x59 → here = exec (.clearNotices h i.auxA i.auxB i.auxC) s) ∧
    (i.kind = 0x5A → here = exec (.setMask h i.auxA i.auxB i.auxC) s) ∧
    (i.kind.toNat < 0x50 ∨ 0x5A < i.kind.toNat → ∀ m, s.managerOf h = some m →
      here = .next (s.refuseManage m { cause := .badValue }))

/-! ### Faults and notices -/

/-- R169, R170: Raising a fault changes the ring, its counts, the tiers and Port U alone. The ring takes the record at
its end, losing its oldest and counting an overwrite (at most 65535) where 32 are held. The record number is the
counter, which rises by one. The record carries the fault's cause and fields, the category of the cause unless one is
given, the active slot unless one is given, and the offset into the active slot in seconds. -/
def Obligations.RaisedFaultIsRecorded : Prop :=
  ∀ (s : State) (f : FaultInfo),
    let t := s.raise f
    let l := s.faults
    let r := faultRecord s f
    t = { s with faults := t.faults, tiers := t.tiers, link := { s.link with u := t.link.u } } ∧
    (l.ring.length < 32 → t.faults.ring = l.ring ++ [r] ∧ t.faults.overwrites = l.overwrites) ∧
    (32 ≤ l.ring.length → t.faults.ring = l.ring.tail ++ [r] ∧ t.faults.overwrites = min (l.overwrites + 1) 65535) ∧
    t.faults.counter = l.counter + 1 ∧ r.number = l.counter ∧ r.cause = f.cause ∧
    (r.train = f.train ∧ r.place = f.place ∧ r.reference = f.reference ∧ r.duty = f.duty ∧ r.station = f.station ∧
      r.seq = f.seq ∧ r.kind = f.kind ∧ r.detail = f.detail ∧ r.tag = f.tag ∧ r.act = f.act) ∧
    (∀ x, f.category = some x → r.category = x) ∧
    (f.category = none →
      let c := f.cause.val
      (c ≤ 2 → r.category = .form) ∧ (3 ≤ c → c ≤ 22 → r.category = .admission) ∧
      (23 ≤ c → c ≤ 33 → r.category = .sequence) ∧ (34 ≤ c → c ≤ 38 → r.category = .envelope) ∧
      (39 ≤ c → c ≤ 41 → r.category = .heat) ∧ (42 ≤ c → c ≤ 46 → r.category = .schedule) ∧
      (47 ≤ c → c ≤ 48 → r.category = .time) ∧ (49 ≤ c → c ≤ 50 → r.category = .reserve) ∧
      (51 ≤ c → c ≤ 56 → r.category = .bus) ∧ (57 ≤ c → r.category = .station)) ∧
    (∀ n, f.slot = some n → r.slot = some n) ∧ (f.slot = none → r.slot = s.engine.active) ∧
    (s.engine.active = none → r.offset = none) ∧
    (∀ a b, s.engine.active = some a → s.engine.boundary = some b →
      r.offset = some ((s.part.slotLength * 1000 - b) / 1000))

/-- R173, R174: A fault acts on the tier its route names and no other: a pending cause counts one more suppressed (at
most 255) and sends nothing; a masked one, or one whose destination is absent, becomes pending and sends nothing; any
other becomes pending, sends one NOTICE on Port U and has its carried count cleared. The destinations of the tiers are
those of R172, a DESK notice going to the owning desk of the position named where it is in use and of role DESK. The
NOTICE's items are the tier code, the carried count and the present fields of the record in field order, 16 at
most. -/
def Obligations.NoticesFollowPendingAndMask : Prop :=
  (∀ (s : State) (f : FaultInfo),
     let t := s.raise f
     let r := faultRecord s f
     let w := s.routes.get f.cause
     let k : TierId := if w.plant then (if w.desk then 2 else 1) else 0
     let x := s.tiers.get k
     let c := f.cause
     (∀ j, j ≠ k → t.tiers.get j = s.tiers.get j) ∧
     (x.pending.getLsbD c.val = true →
       t.tiers.get k = { x with suppressed := upd x.suppressed c (min (x.suppressed.get c + 1) 255) } ∧ t.link = s.link) ∧
     (x.pending.getLsbD c.val = false → x.mask.getLsbD c.val = true ∨ s.noticeDest k r = none →
       t.tiers.get k = { x with pending := x.pending ||| BitVec.twoPow 61 c.val } ∧ t.link = s.link) ∧
     (∀ dst, x.pending.getLsbD c.val = false → x.mask.getLsbD c.val = false → s.noticeDest k r = some dst →
       t.tiers.get k = { x with pending := x.pending ||| BitVec.twoPow 61 c.val, carried := upd x.carried c 0 } ∧
       t.link = (s.emit .u 0x0D dst (noticeItems k (x.carried.get c) r)).link) ∧
     (k = 0 → s.noticeDest k r = s.part.safetyDest) ∧ (k = 1 → s.noticeDest k r = s.part.plantDest) ∧
     (k = 2 → s.positionDesk r.reference = none → s.noticeDest k r = s.part.deskDest) ∧
     (∀ p d, k = 2 → r.reference = some (referenceWord 3 (BitVec.ofNat 16 (p : Fin 128).val)) →
       (s.positions.get p).desk = some d → (s.station d).inUse = true → (s.station d).role = .desk →
       s.noticeDest k r = some (s.station d).address)) ∧
  (∀ (k : TierId) (carried : Nat) (r : FaultRecord),
     let items := noticeItems k carried r
     let present := r.fields.filterMap fun f => f.2.map fun v => fieldItem 0 f.1 v
     items.length = min 16 (2 + present.length) ∧
     items[0]? = some (fieldItem 0 16 (nat k.val)) ∧ items[1]? = some (fieldItem 0 17 (nat carried)) ∧
     items.drop 2 = present.take 14 ∧ r.fields.map Prod.fst = List.range 15)

/-- R175, R176: CLEAR_NOTICES, from a manager of level 0 or 1, for each named pending cause adds the suppressed count
to the carried count (at most 255), zeroes the suppressed count and ends the pending; other causes and the mask stand;
the reply is DONE with one field per named cause in code order. SET_MASK replaces the tier's mask set by the named
set, on SAFETY without the five causes of fixed route SAFETY, and answers LEGALISED there where one was named. Nothing
else changes. Bits of the two words beyond cause 60 name no cause, are not refused and make no reply LEGALISED (the
model's choice, log entry 39). What fields a LEGALISED reply carries is left open here (log entry 39). -/
def Obligations.NoticesAreClearedAndMasked : Prop :=
  (∀ (h : Header) (tier low high : Word) (s : State) (m : Manager) (k : TierId),
     s.managerOf h = some m → m.level ≤ 1 → tier.toNat = k.val →
     let named (c : Cause) : Bool := if c.val < 32 then low.getLsbD c.val else high.getLsbD (c.val - 32)
     let x := s.tiers.get k
     ∃ y : Tier,
       exec (.clearNotices h tier low high) s =
         .next (State.replyWith { s with tiers := upd s.tiers k y } m .done
           (((fins 61).filter named).map fun c => fieldItem (k.val * 64 + c.val) 1 (nat (y.carried.get c)))) ∧
       y.mask = x.mask ∧
       ∀ c : Cause,
         (named c = true → x.pending.getLsbD c.val = true →
           y.pending.getLsbD c.val = false ∧ y.suppressed.get c = 0 ∧
             y.carried.get c = min (x.carried.get c + x.suppressed.get c) 255) ∧
         (named c = false ∨ x.pending.getLsbD c.val = false →
           y.pending.getLsbD c.val = x.pending.getLsbD c.val ∧ y.suppressed.get c = x.suppressed.get c ∧
             y.carried.get c = x.carried.get c)) ∧
  (∀ (h : Header) (tier low high : Word) (s : State) (m : Manager) (k : TierId),
     s.managerOf h = some m → m.level ≤ 1 → tier.toNat = k.val →
     let named (c : Cause) : Bool := if c.val < 32 then low.getLsbD c.val else high.getLsbD (c.val - 32)
     let fixed (c : Cause) : Bool := c.val == 30 || c.val == 31 || c.val == 34 || c.val == 37 || c.val == 54
     let x := s.tiers.get k
     ∃ (mask : BitVec 61) (answer : Status) (fields : List Item),
       exec (.setMask h tier low high) s =
         .next (State.replyWith { s with tiers := upd s.tiers k { x with mask := mask } } m answer fields) ∧
       (∀ c : Cause, mask.getLsbD c.val = (named c && !(k == 0 && fixed c))) ∧
       (answer = .legalised ↔ k = 0 ∧ ∃ c : Cause, fixed c = true ∧ named c = true))

/-! ### Roll call -/

/-- R12, R14, R19, R83: The period timer restarts with the roll-call period; with the round IDLE a round begins with
cursor 0 and the next call is sought, with a round under way nothing more happens. The reply timer with a call
outstanding adds a miss, stopping at the miss limit; an ENROLLED station at the limit becomes LOST with STATION_LOST,
its trains' queue entries, holds and pending dispatches go and their records stand, the stations behind it follow, and
the call ends; any other keeps its state and the call ends. The order, the station first and those behind it after, is
log entry 18; a miss count above a limit lowered since becoming the limit is log entry 19 (both the model's). Premise:
a command hold holds a command of its own train, part of the invariant StepKeepsClosedGateQuiet. -/
def Obligations.RollCallTimersExpire : Prop :=
  (∀ (s : State) (n : Nat), s.roll.period = some n →
     (s.roll.inRound = true →
       exec .rollCallPeriodExpiry s =
         .next { s with roll := { s.roll with period := some (s.part.rollPeriod * 1000) } }) ∧
     (s.roll.inRound = false →
       exec .rollCallPeriodExpiry s =
         .next (State.seek
           { s with roll := { s.roll with period := some (s.part.rollPeriod * 1000), inRound := true, cursor := 0 } }))) ∧
  (∀ (s : State) (n : Nat) (i : StationId) (q : HWord), s.roll.reply = some n → s.roll.call = some (i, q) →
     s.queue.holdsCommands →
     let m := if s.part.missLimit ≤ (s.station i).misses then s.part.missLimit else (s.station i).misses + 1
     let counted := s.modStation i fun e => { e with misses := m }
     ((s.station i).enrolment ≠ .enrolled ∨ m < s.part.missLimit →
       exec .replyTimerExpiry s = .next (counted.endCall i)) ∧
     ((s.station i).enrolment = .enrolled → s.part.missLimit ≤ m →
       exec .replyTimerExpiry s = .next (((counted.lose i).loseBehind i).endCall i) ∧
       ((counted.lose i).station i).enrolment = .lost ∧ ((counted.lose i).station i).misses = m ∧
       ((counted.lose i).faults.ring.getLast?.map fun r => (r.cause, r.station)) =
         some (Cause.stationLost, some (s.station i).address) ∧
       (∀ u ∈ s.trainsBehind i, (counted.lose i).queue.entriesOf u = [] ∧ (counted.lose i).queue.holds.get u = none ∧
         (counted.lose i).queue.pendings.get u = none ∧ (counted.lose i).run u = s.run u)))

/-- R13: Where no in-use, not REJECTED entry of port D stands at or above the cursor, the round ends. Else the first
such entry: with depth above 3 becomes REJECTED with TOPOLOGY_EXCEEDED carrying its address and depth, and the seeking
goes on; behind a coupler that is not ENROLLED is passed over; otherwise is sent a ROLLCALL with no items, and the
call, its sequence and the reply timer stand; that the cursor stands at the called entry during the call is the
model's choice (log entry 44). -/
def Obligations.SeekingTheNextCall : Prop :=
  ∀ s : State,
    let open_ (i : StationId) : Prop := s.roll.cursor ≤ i.val ∧ (s.station i).inUse = true ∧ (s.station i).port = .d ∧
      (s.station i).enrolment ≠ .rejected
    ((∀ i, ¬ open_ i) → s.seek = { s with roll := { s.roll with inRound := false } }) ∧
    (∀ i, leastIndex open_ i → 3 < s.depth i →
      ∃ u : State, s.seek = u.seek ∧ (u.station i).enrolment = .rejected ∧ u.roll = { s.roll with cursor := i.val + 1 } ∧
        u.faults.counter = s.faults.counter + 1 ∧
        (u.faults.ring.getLast?.map fun r => (r.cause, r.station, r.detail)) =
          some (Cause.topologyExceeded, some (s.station i).address, some (nat (s.depth i)))) ∧
    (∀ i j, leastIndex open_ i → s.depth i ≤ 3 → (s.station i).via = some j → (s.station j).enrolment ≠ .enrolled →
      s.seek = State.seek { s with roll := { s.roll with cursor := i.val + 1 } }) ∧
    (∀ i, leastIndex open_ i → s.depth i ≤ 3 →
      (∀ j, (s.station i).via = some j → (s.station j).enrolment = .enrolled) →
      s.seek =
        { s.emit .d 0x08 (s.station i).address [] with
          roll := { s.roll with cursor := i.val, call := some (i, s.link.d.counter), reply := some s.part.replyTimeout } })

/-- R15, R16, R17, R18, R19: A reply that matches no outstanding call changes nothing. A matching one with another
identity, or without an IDENTITY item first, makes its station REJECTED with miss count 0 and IDENTITY_MISMATCH;
behind a coupler the ENROLLED entries become LOST. A coupler whose depth, count or BEHIND items do not fit is REJECTED
with every entry behind it, TOPOLOGY_EXCEEDED raised once; a BEHIND item of an unknown address raises
UNEXPECTED_STATION, one of an entry of another via also rejects that entry and those behind it. A train controller, or
a coupler whose BEHIND items are all in order, becomes ENROLLED with miss count 0 and its trains UNKNOWN without
entries; already ENROLLED it stays so; with 31 ENROLLED it keeps its state with TOPOLOGY_EXCEEDED and detail 31. Other
entries and the tables stand; then the call ends. Premise as in RollCallTimersExpire. -/
def Obligations.RollCallRepliesEnrol : Prop :=
  ∀ (h : Header) (items : List Item) (s : State), h.dst = s.part.address → 1 ≤ items.length → items.length ≤ 16 →
    s.queue.holdsCommands →
    ((∀ i q, s.roll.call = some (i, q) → h.src ≠ (s.station i).address ∨ h.seq ≠ q) →
      exec (.rollcallReply h items) s = .next s) ∧
    (∀ i x rest, s.roll.call = some (i, h.seq) → h.src = (s.station i).address → items = x :: rest →
      let was := (s.station i).enrolment
      let known : Prop := x.kind = 0x41 ∧ x.auxA = (s.station i).idHigh ∧ x.auxB = (s.station i).idLow
      let behind (j k : StationId) : Prop :=
        (s.station j).inUse = true ∧ (s.station j).port = .d ∧ k ∈ viaChain s.stations j
      let listed := items.filter fun y => y.kind == 0x42
      let misplaced : Prop := x.value ≠ nat (s.depth i) ∨ 15 < x.auxC.toNat ∨ x.auxC.toNat ≠ listed.length ∨
        (0 < listed.length ∧ 3 ≤ s.depth i)
      let othersStand (u : State) : Prop := ∀ j, j ≠ i → u.station j = s.station j
      let judgedTo (Q : State → Prop) : Prop := ∃ u : State, exec (.rollcallReply h items) s = .next (u.endCall i) ∧
        tablesKept { s with stations := u.stations, roll := u.roll } u ∧ Q u
      let lastFault (u : State) (c : Cause) (station : HWord) (detail : Option Word) : Prop :=
        (u.faults.ring.getLast?.map fun r => (r.cause, r.station, r.detail)) = some (c, some station, detail)
      let enrolledAs (u : State) (e : Enrolment) : Prop :=
        (u.station i).enrolment = e ∧ (u.station i).misses = 0 ∧ othersStand u
      let passes : Prop := (s.station i).role = .train ∨ ((s.station i).role = .coupler ∧ ¬ misplaced ∧
        ∀ y ∈ listed, ∃ j, s.findStation .d y.refId = some j ∧ (s.station j).via = some i)
      (known → passes → was = .unenrolled ∨ was = .lost → s.enrolledCount < 31 →
        judgedTo fun u => enrolledAs u .enrolled ∧ u.faults = s.faults ∧
          (∀ t ∈ s.trainsBehind i, (u.run t).state = .unknown ∧ (u.run t).timer = none ∧ u.queue.entriesOf t = []) ∧
          (∀ t, t ∉ s.trainsBehind i → u.run t = s.run t)) ∧
      (known → passes → was = .unenrolled ∨ was = .lost → 31 ≤ s.enrolledCount →
        judgedTo fun u => enrolledAs u was ∧ (∀ t, u.run t = s.run t) ∧
          lastFault u Cause.topologyExceeded (s.station i).address (some 31)) ∧
      (known → passes → was = .enrolled →
        judgedTo fun u => enrolledAs u .enrolled ∧ (∀ t, u.run t = s.run t) ∧ u.faults = s.faults) ∧
      (¬ known → judgedTo fun u => (u.station i).enrolment = .rejected ∧ (u.station i).misses = 0 ∧
        ((s.station i).role = .train → othersStand u ∧
          lastFault u Cause.identityMismatch (s.station i).address (some (if x.kind = 0x41 then x.auxB else 0))) ∧
        ((s.station i).role = .coupler → ∀ j, j ≠ i →
          (behind j i → (s.station j).enrolment = .enrolled → u.station j = { s.station j with enrolment := .lost }) ∧
          (¬ behind j i ∨ (s.station j).enrolment ≠ .enrolled → u.station j = s.station j))) ∧
      (known → (s.station i).role = .coupler → misplaced →
        judgedTo fun u => (u.station i).enrolment = .rejected ∧
          (∀ j, j ≠ i → (behind j i → (u.station j).enrolment = .rejected) ∧ (¬ behind j i → u.station j = s.station j)) ∧
          lastFault u Cause.topologyExceeded (s.station i).address (some x.auxC)) ∧
      (∀ y, known → (s.station i).role = .coupler → ¬ misplaced → listed = [y] → s.enrolledCount < 31 →
        (s.findStation .d y.refId = none → judgedTo fun u => othersStand u ∧
          lastFault u Cause.unexpectedStation y.refId none) ∧
        (∀ j, s.findStation .d y.refId = some j → (s.station j).via ≠ some i →
          judgedTo fun u => (u.station j).enrolment = .rejected ∧
            (∀ k, behind k j → (u.station k).enrolment = .rejected) ∧
            (∀ k, k ≠ i → k ≠ j → ¬ behind k j → u.station k = s.station k) ∧
            lastFault u Cause.unexpectedStation y.refId none)))

/-! ### Admission and translation -/

/-- R21, R45: A DISPATCH from an accepted source decides its items one by one, each on the state the one before it
left. With reply requested an ADMIT_REPLY follows the last item with one OUTCOME item for each, in item order,
carrying its tag and reference, an outcome code 0 to 6, and for REFUSED a cause and the value 0; without it nothing is
sent, and the effects are the same. -/
def Obligations.DispatchItemsInTurn : Prop :=
  (∀ (h : Header) (s : State) (src : Source), s.dispatches h src →
     exec (.dispatch h []) s = .next (if wantsReply h then s.answer 0x0C h.src h.seq [] else s) ∧
     (∀ i rest, rest.length ≤ 15 → wantsReply h = false →
       ∃ u : State, exec (.dispatch h [i]) s = .next u ∧ u.dispatches h src ∧
         exec (.dispatch h (i :: rest)) s = exec (.dispatch h rest) u)) ∧
  (∀ (h : Header) (items : List Item) (s : State) (src : Source), s.dispatches h src → items.length ≤ 16 →
     ∃ (u : State) (replies : List Item),
       exec (.dispatch { h with flags := 0 } items) s = .next u ∧
       (wantsReply h = true → exec (.dispatch h items) s = .next (u.answer 0x0C h.src h.seq replies)) ∧
       (wantsReply h = false → exec (.dispatch h items) s = .next u) ∧
       List.Forall₂
         (fun i o : Item => o.kind = 0x68 ∧ o.tag = i.tag ∧ o.refKind = i.refKind ∧ o.refId = i.refId ∧
           o.auxA.toNat ≤ 6 ∧ (o.auxA = 5 → o.value = 0 ∧ o.auxB ≠ 0xFFFFFFFF)) items replies)

/-- R23, R24, R25, R26, R29, R31, R32, R33, R34, R39, R41, R44: With the gate CLOSED every item that is no TRIP is
refused GATE_CLOSED. An undefined kind or reference kind is refused KIND_ILLEGAL with the kind as detail. With the
gate OPEN: a TRAIN reference of a kind other than TRIP from level 2 or 3 is refused REF_FORBIDDEN, a control kind with
a DUTY or POSITION reference KIND_ILLEGAL, and UNLOCK from level 1 KIND_FORBIDDEN. A POWER, REACTIVE, REHEAT, START or
STOP item by any reference kind, gate OPEN: a reference that does not resolve is refused its cause; else the first of
these refuses: a desk's POSITION of another desk POSITION_FOREIGN; a START without a mode MODE_MISMATCH; a direction
needed that the allow set lacks POSITION_DENIED or DUTY_DENIED; a POWER value of the wrong sign for its reference kind
and the engaged mode MODE_MISMATCH (direction before sign: log entry 20); a source above the ceiling without
permission NOT_PERMITTED; a controller that is not ENROLLED TRAIN_UNREACHABLE. A refusal raises one fault with the
item's fields and, once resolved, the train and duty, and changes nothing else but the translation cache. POWER that
passes, for a train RUNNING in MANUAL with a place, is placed as the least of its magnitude, the translation limit,
the rated power and the cavern's cap. -/
def Obligations.AdmissionRefusals : Prop :=
  (∀ (h : Header) (i : Item) (s : State) (src : Source), s.dispatches h src → wantsReply h = false →
     s.gateOpen = false → 1 ≤ i.kind.toNat → i.kind.toNat ≤ 11 → 1 ≤ i.refKind.toNat → i.refKind.toNat ≤ 3 → i.kind ≠ kTrip →
       exec (.dispatch h [i]) s = .next (s.raise (dispatchFaultInfo src i Cause.gateClosed))) ∧
  (∀ (h : Header) (i : Item) (s : State) (src : Source), s.dispatches h src → wantsReply h = false →
     let refused (c : Cause) (detail : Word) : Host.Outcome State Fault Refusal :=
       .next (s.raise { dispatchFaultInfo src i c with detail := some detail })
     let here := exec (.dispatch h [i]) s
     let k := i.kind.toNat
     (k = 0 ∨ 11 < k ∨ i.refKind = 0 ∨ 3 < i.refKind.toNat → here = refused Cause.kindIllegal (i.kind.setWidth 32)) ∧
     (s.gateOpen = true → 1 ≤ k → k ≤ 11 →
       (i.refKind = 1 → i.kind ≠ kTrip → 2 ≤ src.level → here = refused Cause.refForbidden i.value) ∧
       (i.refKind = 2 ∨ i.refKind = 3 → 5 < k → here = refused Cause.kindIllegal (i.kind.setWidth 32)) ∧
       (i.refKind = 1 → i.kind = kUnlock → src.level = 1 → here = refused Cause.kindForbidden i.value))) ∧
  (∀ (h : Header) (i : Item) (s : State) (src : Source), s.dispatches h src → wantsReply h = false → s.gateOpen = true →
     i.kind = kPower ∨ i.kind = kReactive ∨ i.kind = kReheat ∨ i.kind = kStart ∨ i.kind = kStop →
     1 ≤ i.refKind.toNat → i.refKind.toNat ≤ 3 → i.refKind ≠ 1 ∨ src.level ≤ 1 →
     let here := exec (.dispatch h [i]) s
     let r : State × Except Failure Resolution :=
       if i.refKind = 1 then
         (s, match (fins 6).find? fun t => t.val == i.refId.toNat && (s.cfg t).configured with
           | some t => .ok { train := t, duty := none, allow := 7, limit := none, desk := none }
           | none => .error { cause := Cause.trainUnconfigured })
       else s.lookup (i.refKind == 3) i.refId.toNat
     (∀ f, r.2 = .error f → here = .next (r.1.raise { dispatchFaultInfo src i f.cause with duty := f.duty })) ∧
     (∀ x, r.2 = .ok x →
       let v := i.value.toInt
       let quantity : Prop := i.kind = kPower ∨ i.kind = kReactive ∨ i.kind = kReheat
       let denied := if i.refKind = 3 then Cause.positionDenied else Cause.dutyDenied
       let allowed (m : RunMode) : Prop := x.allow.getLsbD (match m with | .generate => 0 | .charge => 1) = true
       let engaged (m : RunMode) : Prop := (s.run x.train).engaged = some m
       let against (m : RunMode) : Prop := i.kind = kPower ∧
         if i.refKind = 3 then (0 < v ∧ m = .charge) ∨ (v < 0 ∧ m = .generate) else v < 0
       let first : Option Cause :=
         if i.refKind = 3 ∧ src.role = .desk ∧ x.desk ≠ some src.entry then some Cause.positionForeign
         else if i.kind = kStart ∧ i.auxA ≠ 1 ∧ i.auxA ≠ 2 then some Cause.modeMismatch
         else if i.kind = kStart ∧ i.auxA = 1 ∧ ¬ allowed .charge then some denied
         else if i.kind = kStart ∧ i.auxA = 2 ∧ ¬ allowed .generate then some denied
         else if quantity ∧ ((engaged .charge ∧ ¬ allowed .charge) ∨ (engaged .generate ∧ ¬ allowed .generate)) then
           some denied
         else if (engaged .charge ∧ against .charge) ∨ (engaged .generate ∧ against .generate) then
           some Cause.modeMismatch
         else if (s.cfg x.train).ceiling < src.level ∧ s.permits src.entry x.train i.kind = false then
           some Cause.notPermitted
         else if s.reachable x.train = false then some Cause.trainUnreachable
         else none
       (∀ c, first = some c →
         here = .next (r.1.raise { dispatchFaultInfo src i c with train := some x.train, duty := x.duty })) ∧
       (∀ m, first = none → i.kind = kPower → engaged m → (s.run x.train).state = .running → (s.run x.train).auto = false →
         (s.queue.entries.any fun e => e.train == x.train && e.kind == .power) = true ∨ s.queue.entries.length < 12 →
         ∃ u : State, here = .next u ∧ othersKept s u x.train ∧ tablesKept s u ∧ u.faults = s.faults ∧ u.cache = r.1.cache ∧
           u.run x.train = { s.run x.train with
             power := min (min v.natAbs (min (x.limit.getD ((s.cfg x.train).rated (some m)))
               ((s.cfg x.train).rated (some m)))) (s.powerCap x.train) })))

/-- R30, R31, R35, R36: A resolution request whose key a valid entry of its set holds answers that entry and makes the
other way the least recent; a train no longer configured is refused TRAIN_UNCONFIGURED. One that misses walks the
tables: a failure changes nothing, a success fills an invalid way, else the least recent one. A POSITION resolves
through its duty to a train with both allow sets and the lower limit, a DUTY to its train, with the refusals of UNUSED
and NULL positions, unmapped duties and unconfigured trains. -/
def Obligations.ReferencesAreResolved : Prop :=
  (∀ (s : State) (isPosition : Bool) (id : Nat),
     let set := cacheSet id
     let entry (w : Bool) := s.cache.get (cacheIndex set w)
     let holds (w : Bool) : Prop :=
       (entry w).valid = true ∧ (entry w).isPosition = isPosition ∧ (entry w).key = id
     let r := s.lookup isPosition id
     (∀ w, holds w → (w = true → ¬ holds false) →
       r.1 = { s with lru := upd s.lru set (!w) } ∧
       ((s.cfg (entry w).train).configured = true →
         r.2 = .ok { train := (entry w).train, duty := (entry w).duty, allow := (entry w).allow,
                     limit := some (entry w).limit, desk := (entry w).desk }) ∧
       ((s.cfg (entry w).train).configured = false →
         r.2 = .error { cause := Cause.trainUnconfigured, duty := (entry w).duty })) ∧
     (¬ holds false → ¬ holds true →
       (∀ f, walk s isPosition id = .error f → r = (s, .error f)) ∧
       (∀ x, walk s isPosition id = .ok x →
         let w := if (entry false).valid = false then false else if (entry true).valid = false then true else s.lru.get set
         r.2 = .ok x ∧
         r.1 = { s with
           lru := upd s.lru set (!w)
           cache := upd s.cache (cacheIndex set w)
             { valid := true, isPosition := isPosition, key := id, duty := x.duty, train := x.train, allow := x.allow,
               limit := x.limit.getD 0, desk := x.desk } }))) ∧
  (∀ (s : State) (p : Fin 128) (u : DutyId),
     let x := s.positions.get p
     let d := s.duties.get u
     (x.state = .unused → walk s true p.val = .error { cause := Cause.positionUnused }) ∧
     (x.state = .null → walk s true p.val = .error { cause := Cause.positionNull }) ∧
     (d.mapped = false → walk s false u.val = .error { cause := Cause.dutyUnused }) ∧
     (d.mapped = true → (s.cfg d.train).configured = false →
       walk s false u.val = .error { cause := Cause.trainUnconfigured }) ∧
     (d.mapped = true → (s.cfg d.train).configured = true →
       walk s false u.val = .ok { train := d.train, duty := none, allow := d.allow, limit := some d.limit, desk := none }) ∧
     (x.state = .mapped → x.duty = u → d.mapped = true → (s.cfg d.train).configured = true →
       walk s true p.val =
         .ok { train := d.train, duty := some u, allow := d.allow &&& x.allow, limit := some (min x.limit d.limit),
               desk := x.desk }) ∧
     (x.state = .mapped → x.duty = u → d.mapped = false →
       walk s true p.val = .error { cause := Cause.dutyUnused, duty := some u }))

/-- R37: From a manager of level 0 to 2, each fence makes exactly the valid cache entries of its scope invalid: every
entry; the one with the POSITION key; those with a POSITION key and that owning desk; the one with the DUTY key and
those with a POSITION key resolved through that duty. Every other entry, the LRU indicators and everything else but
the DONE reply stand. -/
def Obligations.FencesInvalidateTheirScope : Prop :=
  ∀ (h : Header) (n : HWord) (s : State) (m : Manager), s.managerOf h = some m → m.level ≤ 2 →
    let fenced (scope : CacheEntry → Prop) (c : Instr) : Prop :=
      ∃ v : Vector CacheEntry 16,
        exec c s = .next (State.replyWith { s with cache := v } m .done []) ∧
        ∀ i, let e := s.cache.get i
          (e.valid = true → scope e → v.get i = { e with valid := false }) ∧ (e.valid = false ∨ ¬ scope e → v.get i = e)
    fenced (fun _ => True) (.fenceAll h) ∧
    fenced (fun e => e.isPosition = true ∧ e.key = n.toNat) (.fencePosition h n) ∧
    fenced (fun e => e.isPosition = true ∧ ∃ d, e.desk = some d ∧ d.val = n.toNat) (.fenceDesk h n) ∧
    fenced (fun e => (e.isPosition = false ∧ e.key = n.toNat) ∨
      (e.isPosition = true ∧ ∃ u, e.duty = some u ∧ u.val = n.toNat)) (.fenceDuty h n)

/-! ### Requests for a train -/

/-- R52, R58, R60, R64, R65: By a TRAIN reference from level 0 or 1 within the ceiling, gate OPEN: AUTO and MANUAL set
the control in every state but UNKNOWN, where they are refused TRAIN_STATE; LOCK in STANDSTILL enters LOCKED with the
lock held, in LOCKED changes nothing, else is refused; UNLOCK from level 0 in LOCKED clears failures and lock and
enters STANDSTILL, else is refused. STOP of a reachable train changes nothing in STANDSTILL, STOPPING and LOCKED, is
refused TRAIN_STATE in UNKNOWN and TRIPPED, and in ENGAGING, STARTING and RUNNING makes it STOPPING with its stop
timer and without reservations, its claim kept, from RUNNING with set values 0. TRIP_RESET of a TRIPPED, reachable
train is refused TRIP_LINE_ACTIVE while PTRIP is asserted, else sets reset requested and touches no other record of a
train. -/
def Obligations.ControlLockAndResetRequests : Prop :=
  (∀ (h : Header) (i : Item) (s : State) (src : Source) (t : TrainId),
     s.dispatches h src → wantsReply h = false → s.controls src i t →
     let here := exec (.dispatch h [i]) s
     let refused := (s.modRun t fun r => { r with lastCause := some Cause.trainState }).raise
       { dispatchFaultInfo src i Cause.trainState with train := some t }
     (i.kind = kAuto → (s.run t).state ≠ .unknown → here = .next (s.modRun t fun r => { r with auto := true })) ∧
     (i.kind = kManual → (s.run t).state ≠ .unknown → here = .next (s.modRun t fun r => { r with auto := false })) ∧
     (i.kind = kAuto ∨ i.kind = kManual → (s.run t).state = .unknown → here = .next refused) ∧
     (i.kind = kLock → (s.run t).state = .standstill →
       here = .next (s.modRun t fun r => { r with state := .locked, mode := none, lock := true })) ∧
     (i.kind = kLock → (s.run t).state = .locked → here = .next s) ∧
     (i.kind = kLock → (s.run t).state ≠ .standstill → (s.run t).state ≠ .locked → here = .next refused) ∧
     (i.kind = kUnlock → src.level = 0 → (s.run t).state = .locked →
       here = .next (s.modRun t fun r => { r with state := .standstill, mode := none, failures := 0, lock := false })) ∧
     (i.kind = kUnlock → src.level = 0 → (s.run t).state ≠ .locked → here = .next refused) ∧
     (i.kind = kStop → s.reachable t = true →
       let st := (s.run t).state
       (st = .standstill ∨ st = .stopping ∨ st = .locked → here = .next s) ∧
       (st = .unknown ∨ st = .tripped → here = .next refused) ∧
       (st = .engaging ∨ st = .starting ∨ st = .running → ∃ u : State, here = .next u ∧ othersKept s u t ∧
         tablesKept s u ∧ u.caverns = s.caverns ∧ u.faults = s.faults ∧
         u.run t = { s.run t with
           state := .stopping, timer := some (.stop, (s.cfg t).stopTimeout * 1000)
           power := if st = .running then 0 else (s.run t).power
           reactive := if st = .running then 0 else (s.run t).reactive
           reheat := if st = .running then 0 else (s.run t).reheat } ∧
         u.reservations = s.reservations.filter fun r => r.train != t))) ∧
  (∀ (h : Header) (i : Item) (s : State) (src : Source) (t : TrainId),
     s.dispatches h src → wantsReply h = false → s.controls src i t → i.kind = kTripReset → s.reachable t = true →
     (s.run t).state = .tripped →
     (s.ptrip = true → exec (.dispatch h [i]) s = .next
       ((s.modRun t fun r => { r with lastCause := some Cause.tripLineActive }).raise
         { dispatchFaultInfo src i Cause.tripLineActive with train := some t })) ∧
     (s.ptrip = false → ∃ u : State, exec (.dispatch h [i]) s = .next u ∧ othersKept s u t ∧ tablesKept s u ∧
       u.run t = { s.run t with reset := true } ∧ u.faults = s.faults ∧ u.reservations = s.reservations ∧
       u.caverns = s.caverns))

/-- R53, R54, R103, R112, R114: A START by a TRAIN reference for a reachable train at STANDSTILL whose kind allows the
mode, with PTRIP not asserted, its cavern permitting the start and free or in that direction, and its store able to
grant the amount (for CHARGE with stored heat not above its capacity), or a heat ratio of 0, is accepted: the train is
STARTING where already engaged in the mode, else ENGAGING, with its timer; it holds the claim; a CURRENT reservation
of the amount joins the list unless the heat ratio is 0; other trains, tables, gate and stations stand. Else the first
check that fails names the cause of the one fault, and of the train's last cause, and nothing else changes:
TRAIN_STATE, MODE_MISMATCH, TRIP_LINE_ACTIVE, ENVELOPE_START, DIRECTION_CONFLICT, then the heat account unit's (on an
overfull store HEAT_SHORT: log entry 49). -/
def Obligations.StartRequests : Prop :=
  (∀ (h : Header) (i : Item) (s : State) (src : Source) (t : TrainId) (m : RunMode),
     s.dispatches h src → wantsReply h = false → s.controls src i t → i.kind = kStart →
     i.auxA = (match m with | .charge => 1 | .generate => 2) → s.reachable t = true →
     (s.run t).state = .standstill → (s.cfg t).kind.allows m = true → s.ptrip = false →
     s.permitsStart (s.cfg t).cavern m = true →
     (s.cavern (s.cfg t).cavern).run.direction = none ∨ (s.cavern (s.cfg t).cavern).run.direction = some m →
     let k := s.store (s.cfg t).store
     let ratio := (s.cfg t).heatRatio m
     let amount := max ((s.cfg t).defaultEnergy * ratio / 1000) k.cfg.minGrant
     ratio = 0 ∨ (k.cfg.configured = true ∧ k.run.condition ≠ .blind ∧ s.reservations.length < 10 ∧
       (m = .charge → k.run.stored ≤ k.cfg.capacity) ∧ amount ≤ s.available (s.cfg t).store m.heatKind) →
     ∃ u : State, exec (.dispatch h [i]) s = .next u ∧ othersKept s u t ∧ tablesKept s u ∧
       (u.run t).mode = some m ∧ (u.run t).failures = (s.run t).failures ∧ (u.run t).engaged = (s.run t).engaged ∧
       ((s.run t).engaged = some m →
         (u.run t).state = .starting ∧ (u.run t).timer = some (.start, (s.cfg t).startTimeout * 1000)) ∧
       ((s.run t).engaged ≠ some m →
         (u.run t).state = .engaging ∧ (u.run t).timer = some (.engage, (s.cfg t).engageTimeout * 1000)) ∧
       (u.cavern (s.cfg t).cavern).run.direction = some m ∧ (u.cavern (s.cfg t).cavern).run.holders.getLsbD t.val = true ∧
       (ratio = 0 → u.reservations = s.reservations) ∧
       (ratio ≠ 0 → ∃ r : Reservation, u.reservations = s.reservations ++ [r] ∧ r.train = t ∧ r.store = (s.cfg t).store ∧
         r.kind = m.heatKind ∧ r.phase = .current ∧ r.slot = none ∧ r.granted = amount ∧ r.consumed = 0)) ∧
  (∀ (h : Header) (i : Item) (s : State) (src : Source) (t : TrainId) (m : RunMode),
     s.dispatches h src → wantsReply h = false → s.controls src i t → i.kind = kStart →
     i.auxA = (match m with | .charge => 1 | .generate => 2) → s.reachable t = true →
     let d := (s.cavern (s.cfg t).cavern).run.direction
     let refused (c : Cause) : Host.Outcome State Fault Refusal :=
       .next ((s.modRun t fun r => { r with lastCause := some c }).raise { dispatchFaultInfo src i c with train := some t })
     let ask : HeatAsk := { train := t, mode := m, phase := .current, slot := none, basis := (s.cfg t).defaultEnergy }
     let first : Option Cause :=
       if (s.run t).state ≠ .standstill then some Cause.trainState
       else if (s.cfg t).kind.allows m = false then some Cause.modeMismatch
       else if s.ptrip = true then some Cause.tripLineActive
       else if s.permitsStart (s.cfg t).cavern m = false then some Cause.envelopeStart
       else if d ≠ none ∧ d ≠ some m then some Cause.directionConflict
       else match s.grantHeat ask with
         | .error c => some c
         | .ok _ => none
     ∀ c, first = some c → exec (.dispatch h [i]) s = refused c)

/-- R61, R62, R78, R80: A TRIP by a TRAIN reference from level 0 or 1, or permitted by the map, in either gate state.
For a train without a claim: one DRIVE of kind TRIP is sent on Port D at once, its pacing timer starts, nothing else
changes. For one in ENGAGING, STARTING, RUNNING or STOPPING: TRIPPED, mode NONE, timer stopped, failures kept, its
entries, hold, pending dispatch, held polls, reservations and claim gone, the fault TRIP with the item's station,
sequence and tag; other trains and the tables stand. Premise: command holds hold their own train's command (part of
StepKeepsClosedGateQuiet). -/
def Obligations.TripRequests : Prop :=
  (∀ (h : Header) (i : Item) (s : State) (src : Source) (t : TrainId),
     s.dispatches h src → wantsReply h = false → i.kind = kTrip → i.refKind = 1 → i.refId.toNat = t.val →
     (s.cfg t).configured = true → (src.level ≤ 1 ∨ s.permits src.entry t kTrip = true) →
     (s.run t).state.holdsClaim = false →
     exec (.dispatch h [i]) s = .next
       ((s.emit .d 0x02 (s.controller t).address
           [{ kind := 0x06, refKind := 1, refId := BitVec.ofNat 16 t.val, value := 0, auxA := 0,
              auxB := src.address.setWidth 32, auxC := src.seq.setWidth 32, flags := 0, tag := i.tag }]).modQueue
         fun q => { q with pacing := upd q.pacing t (some (s.cfg t).pacingGap) })) ∧
  (∀ (h : Header) (i : Item) (s : State) (src : Source) (t : TrainId),
     s.dispatches h src → wantsReply h = false → i.kind = kTrip → i.refKind = 1 → i.refId.toNat = t.val →
     (s.cfg t).configured = true → (src.level ≤ 1 ∨ s.permits src.entry t kTrip = true) →
     (s.run t).state.holdsClaim = true → s.queue.holdsCommands →
     ∃ u : State, exec (.dispatch h [i]) s = .next u ∧ othersKept s u t ∧ tablesKept s u ∧
       (u.run t).state = .tripped ∧ (u.run t).mode = none ∧ (u.run t).reset = false ∧ (u.run t).timer = none ∧
       (u.run t).failures = (s.run t).failures ∧ (u.run t).lastCause = some Cause.trip ∧
       u.queue.entriesOf t = [] ∧ u.queue.holds.get t = none ∧ u.queue.pendings.get t = none ∧
       (∀ p ∈ u.queue.polls, p.train ≠ t) ∧ u.queue.pacing.get t = some (s.cfg t).pacingGap ∧
       ((s.run t).state ≠ .stopping → ∀ r ∈ u.reservations, r.train ≠ t) ∧
       (u.cavern (s.cfg t).cavern).run.holders.getLsbD t.val = false ∧
       (u.faults.ring.getLast?.map fun r => (r.cause, r.train, r.place, r.station, r.seq, r.tag)) =
         some (Cause.trip, some t, some (s.cfg t).cavern.val, some src.address, some src.seq, some i.tag))

/-- R34, R43, R57, R73, R99, R122: By a TRAIN reference from level 0 or 1 for a reachable train. POWER of a value not
negative, RUNNING in MANUAL, with a place for it, makes the POWER set value the least of the magnitude, the rated
power of the engaged mode and the cavern's cap; from level 0 in AUTO it also makes the control MANUAL with OVERRIDE
raised, from another level it is refused NOT_MANUAL. REACTIVE is placed within the reactive limit. REHEAT, run mode
not CHARGE (there MODE_MISMATCH), is placed at most the last temperature of the store's first usable layer minus the
reheat approach; an unconfigured or BLIND store refuses STORE_BLIND. Each is refused TRAIN_STATE unless the train is
RUNNING and, without a place, QUEUE_FULL. What is placed changes nothing else of the train's record, no other train,
no table, reservation or cavern; a refusal raises one fault and leaves the set values. (First usable layer without a
last temperature: log entry 10.) -/
def Obligations.QuantityRequests : Prop :=
  (∀ (h : Header) (i : Item) (s : State) (src : Source) (t : TrainId) (m : RunMode),
     s.dispatches h src → wantsReply h = false → s.controls src i t → i.kind = kPower → 0 ≤ i.value.toInt →
     s.reachable t = true → (s.run t).state = .running → (s.run t).auto = false → (s.run t).engaged = some m →
     (s.queue.entries.any fun e => e.train == t && e.kind == .power) = true ∨ s.queue.entries.length < 12 →
     ∃ u : State, exec (.dispatch h [i]) s = .next u ∧ othersKept s u t ∧ tablesKept s u ∧
       u.run t = { s.run t with power := min (min i.value.toInt.toNat ((s.cfg t).rated (some m))) (s.powerCap t) } ∧
       u.faults = s.faults ∧ u.reservations = s.reservations ∧ u.caverns = s.caverns) ∧
  (∀ (h : Header) (i : Item) (s : State) (src : Source) (t : TrainId),
     s.dispatches h src → wantsReply h = false → s.controls src i t → s.reachable t = true →
     let here := exec (.dispatch h [i]) s
     let v := i.value.toInt
     let st := s.run t
     let k := s.store (s.cfg t).store
     let placed (run : TrainRun) : Prop := ∃ u : State, here = .next u ∧ othersKept s u t ∧ tablesKept s u ∧
       u.run t = run ∧ u.faults = s.faults ∧ u.reservations = s.reservations ∧ u.caverns = s.caverns
     let sequencer (c : Cause) : Host.Outcome State Fault Refusal :=
       .next ((s.modRun t fun r => { r with lastCause := some c }).raise { dispatchFaultInfo src i c with train := some t })
     let room (q : DriveKind) : Prop :=
       (s.queue.entries.any fun e => e.train == t && e.kind == q) = true ∨ s.queue.entries.length < 12
     let top (l : LayerId) : Prop := leastIndex (fun l : LayerId =>
       l.val / 16 = (s.cfg t).store.val ∧ l.val % 16 < k.cfg.layerCount ∧ s.layerUsable l = true) l
     let blind : Prop := k.cfg.configured = false ∨ k.run.condition = .blind
     let admits (q : DriveKind) (code_ : Byte) : Prop := i.kind = code_ ∧ (st.state = .running) ∧
       (q = .power → 0 ≤ v ∧ st.auto = false ∧ st.engaged ≠ none) ∧ (q = .reheat → st.mode ≠ some .charge ∧ ¬ blind)
     (i.kind = kReactive ∨ i.kind = kReheat ∨ (i.kind = kPower ∧ 0 ≤ v) → st.state ≠ .running →
       here = sequencer Cause.trainState) ∧
     (i.kind = kReheat → st.state = .running → st.mode = some .charge → here = sequencer Cause.modeMismatch) ∧
     (i.kind = kPower → 0 ≤ v → st.state = .running → st.auto = true → src.level ≠ 0 → here = sequencer Cause.notManual) ∧
     (i.kind = kPower → 0 ≤ v → st.state = .running → st.auto = true → src.level = 0 → room .power →
       ∃ u : State, here = .next u ∧ othersKept s u t ∧ tablesKept s u ∧
         u.run t = { st with auto := false, lastCause := some Cause.override,
                             power := min (min v.toNat ((s.cfg t).rated st.engaged)) (s.powerCap t) } ∧
         (u.faults.ring.getLast?.map fun r => (r.cause, r.train, r.station, r.seq, r.tag)) =
           some (Cause.override, some t, some src.address, some src.seq, some i.tag)) ∧
     (admits .reactive kReactive → room .reactive →
       placed { st with reactive := max (-((s.cfg t).reactiveLimit : Int)) (min v (s.cfg t).reactiveLimit) }) ∧
     (∀ l, top l → ∀ x, (s.layer l).last = some x → admits .reheat kReheat → room .reheat →
       placed { st with reheat := min v (x - (s.cfg t).reheatApproach) }) ∧
     (i.kind = kReheat → st.state = .running → st.mode ≠ some .charge → blind →
       here = .next (s.raise { dispatchFaultInfo src i Cause.storeBlind with
         train := some t, place := some (16 + (s.cfg t).store.val) })) ∧
     (∀ l, top l → ∀ x, (s.layer l).last = some x → admits .reheat kReheat → ¬ room .reheat →
       here = .next (s.raise { dispatchFaultInfo src i Cause.queueFull with train := some t })) ∧
     (admits .reactive kReactive → ¬ room .reactive →
       here = .next (s.raise { dispatchFaultInfo src i Cause.queueFull with train := some t })) ∧
     (admits .power kPower → ¬ room .power →
       here = .next (s.raise { dispatchFaultInfo src i Cause.queueFull with train := some t })))

/-! ### The drive queue -/

/-- R71, R72, R73, R74, R75, R76: An offer of a quantity is refused TRAIN_STATE unless its train is RUNNING, then
GATE_CLOSED while the gate is CLOSED; it merges into the train's entry of that quantity, which keeps its place; else
it joins the tail below 12 places (ADMITTED) or 16 (others), a POWER entry discarding the pending dispatch; beyond, an
ADMITTED offer is refused QUEUE_FULL and another becomes the pending dispatch. What is placed becomes the set value; a
refusal changes nothing. A command replaces the train's waiting command: at the tail below 16 places, else in the
command hold. -/
def Obligations.DriveQueuePlacement : Prop :=
  (∀ (s : State) (o : Offer), o.kind.isQuantity = true →
     let r := s.placeOffer o
     let set (x : TrainRun) : TrainRun :=
       match o.kind with
       | .power => { x with power := o.value.natAbs }
       | .reactive => { x with reactive := o.value }
       | _ => { x with reheat := o.value }
     let queued (e : Entry) : Prop := e.train = o.train ∧ e.kind = o.kind
     let entry : Entry := { train := o.train, kind := o.kind, value := o.value, origin := o.origin, station := o.station,
                            seq := o.seq, tag := o.tag, clamped := o.clamped, merges := 0, stamp := s.queue.stamp }
     ((s.run o.train).state ≠ .running → r = (s, .refused Cause.trainState)) ∧
     ((s.run o.train).state = .running → s.gateOpen = false → r = (s, .refused Cause.gateClosed)) ∧
     ((s.run o.train).state = .running → s.gateOpen = true →
       ((∃ e ∈ s.queue.entries, queued e) → r.2 = .merged ∧ ∃ l,
         r.1 = { s.modRun o.train set with queue := { s.queue with entries := l } } ∧
         List.Forall₂ (fun e e' : Entry =>
           (queued e → e' = { entry with merges := min (e.merges + 1) 255, stamp := e.stamp }) ∧ (¬ queued e → e' = e))
           s.queue.entries l) ∧
       ((∀ e ∈ s.queue.entries, ¬ queued e) →
         let room := if o.origin = .admitted then 12 else 16
         (s.queue.entries.length < room → r.2 = .new ∧
           r.1 = { s.modRun o.train set with
             queue := { s.queue with
               entries := s.queue.entries ++ [entry]
               pendings := if o.kind = .power then upd s.queue.pendings o.train none else s.queue.pendings
               stamp := s.queue.stamp + 1 } }) ∧
         (room ≤ s.queue.entries.length → o.origin = .admitted → r = (s, .refused Cause.queueFull)) ∧
         (room ≤ s.queue.entries.length → o.origin ≠ .admitted → r.2 = .pending ∧
           r.1 = { s.modRun o.train set with
             queue := { s.queue with
               pendings := upd s.queue.pendings o.train
                 (some { value := o.value.natAbs, origin := o.origin, clamped := o.clamped }) } })))) ∧
  (∀ (s : State) (t : TrainId) (k : DriveKind) (value : Int) (ref : Option ItemRef), k.isQuantity = false →
     let kept := s.queue.entries.filter fun e => !(e.train == t && !e.kind.isQuantity)
     let entry : Entry := { train := t, kind := k, value := value, origin := .sequencer, station := ref.map (·.station),
                            seq := ref.map (·.seq), tag := (ref.map (·.tag)).getD 0, stamp := s.queue.stamp }
     let r := s.placeCommand t k value ref
     (kept.length < 16 → r = ({ s with queue := { s.queue with
       entries := kept ++ [entry], holds := upd s.queue.holds t none, stamp := s.queue.stamp + 1 } }, false)) ∧
     (16 ≤ kept.length → r = ({ s with queue := { s.queue with
       entries := kept, holds := upd s.queue.holds t (some entry), stamp := s.queue.stamp + 1 } }, true)))

/-- R79, R78: The expiry of a pacing timer touches no train record, table, fault, reservation or cavern. With no
holds, pending dispatches and held polls, and every other train with entries pacing or unreachable: where the train is
unreachable or has no entry the timer becomes IDLE and nothing else; else its oldest entry leaves as one DRIVE
telegram to its controller with value, origin, clamped flag, station, sequence and tag, and the timer starts with the
pacing gap. -/
def Obligations.PacingExpirySendsTheOldestEntry : Prop :=
  ∀ (t : TrainId) (s : State),
    (∃ u : State, exec (.pacingTimerExpiry t) s = .next u ∧ (∀ x, u.run x = s.run x ∧ u.cfg x = s.cfg x) ∧ tablesKept s u ∧
      u.faults = s.faults ∧ u.reservations = s.reservations ∧ u.caverns = s.caverns) ∧
    ((∀ x, s.queue.holds.get x = none) → (∀ x, s.queue.pendings.get x = none) → s.queue.polls = [] →
      (∀ e ∈ s.queue.entries, e.train ≠ t → (s.queue.pacing.get e.train).isSome = true ∨ s.reachable e.train = false) →
      (s.reachable t = false ∨ s.queue.entriesOf t = [] →
        exec (.pacingTimerExpiry t) s = .next (s.modQueue fun q => { q with pacing := upd q.pacing t none })) ∧
      (∀ e rest, s.reachable t = true → s.queue.entriesOf t = e :: rest →
        exec (.pacingTimerExpiry t) s = .next
          ((s.emit .d 0x02 (s.controller t).address
              [{ kind := driveCode e.kind, refKind := 1, refId := BitVec.ofNat 16 t.val, value := num e.value,
                 auxA := code originListing e.origin, auxB := (e.station.getD 0).setWidth 32,
                 auxC := (e.seq.getD 0).setWidth 32, flags := if e.clamped then 1 else 0, tag := e.tag }]).modQueue
            fun q => { q with entries := q.entries.erase e
                              pacing := upd q.pacing t (some (s.cfg t).pacingGap) })))

/-- R8, R46, R85: For a destination of a D entry with a train behind it: with no entry and no held command of the
train the frame is handed to Port D; else with fewer than 4 held it joins the poll hold list; else POLL_HOLD_FULL is
raised and an ADMIT_REPLY of one REFUSED outcome answers. For a D entry with no train, and for all stations, the frame
is handed to Port D; any other destination raises CLASS_NOT_ALLOWED (its fields: log entry 17). The number ahead of a
new poll is the count of the train's entries and held command (kept by placement stamps, the model's, log entry
28). -/
def Obligations.PollsAreForwardedHeldOrRefused : Prop :=
  ∀ (eth : Eth) (h : Header) (items : List Item) (pad : List Byte) (s : State) (k : StationId), items.length ≤ 16 →
    s.findStation .u h.src = some k →
    let frame : Frame := { eth := eth, type := s.part.telegramType,
                           payload := .telegram { cls := 0x03, hdr := h, items := items, pad := pad } }
    let here := exec (.poll eth h items pad) s
    (∀ i t rest, s.findStation .d h.dst = some i → s.trainsBehind i = t :: rest →
      let idle : Prop := s.queue.entriesOf t = [] ∧ s.queue.holds.get t = none
      (idle → here = .next (s.hand .d frame)) ∧
      (¬ idle → s.queue.polls.length < 4 → here = .next
        { s with queue := { s.queue with
          polls := s.queue.polls ++ [{ train := t, frame := frame, src := h.src, seq := h.seq, stamp := s.queue.stamp }]
          stamp := s.queue.stamp + 1 } }) ∧
      ((∀ e ∈ s.queue.entriesOf t, e.stamp < s.queue.stamp) → (∀ e, s.queue.holds.get t = some e → e.stamp < s.queue.stamp) →
        s.queue.ahead t s.queue.stamp =
          (s.queue.entriesOf t).length + (if (s.queue.holds.get t).isSome then 1 else 0)) ∧
      (¬ idle → 4 ≤ s.queue.polls.length → here = .next
        ((s.raise { cause := Cause.pollHoldFull, train := some t, station := some h.src, seq := some h.seq }).answer 0x0C
          h.src h.seq
          [{ kind := 0x68, refKind := 1, refId := BitVec.ofNat 16 t.val, value := 0, auxA := 5, auxB := 20, tag := 0 }]))) ∧
    (∀ i, s.findStation .d h.dst = some i → s.trainsBehind i = [] → here = .next (s.hand .d frame)) ∧
    (s.findStation .d h.dst = none → h.dst = 0xFFFF → here = .next (s.hand .d frame)) ∧
    (s.findStation .d h.dst = none → h.dst ≠ 0xFFFF →
      here = .next (s.raise { cause := Cause.classNotAllowed, detail := some 0x03 }))

/-! ### The train sequencer -/

/-- R7, R55, R56, R59, R61, R64, R66, R67, R69: A REPORT from a D entry is handed to Port U whole; it is not read from
a station that is not ENROLLED or has no train, and is read for each configured train of the station in train number
order (the model's order, log entry 49). At STANDSTILL a standstill report is recorded, age 0, absent items keeping
their field. For an ENROLLED station with one train: MODE equal to the run mode in ENGAGING makes it STARTING with its
timer; starting, synchronised or stopping there, or stopping in STARTING or RUNNING, makes it STOPPING with its timer
and UNEXPECTED_REPORT; tripped in any state but UNKNOWN and TRIPPED makes it TRIPPED with TRIP (in STARTING the
engaged mode kept, where the train is at rest, ENGAGING or STOPPING taken from MODE); synchronised in STARTING makes
it RUNNING with failures 0 and, gate OPEN, the least of minimum stable and rated power; standstill in STOPPING, in
RUNNING with UNEXPECTED_REPORT, and in TRIPPED with reset requested makes it STANDSTILL or, locked or at the failure
limit, LOCKED; a moving state makes a LOCKED train TRIPPED with UNEXPECTED_REPORT; other reports in STARTING, RUNNING,
STOPPING, LOCKED and TRIPPED are recorded and nothing else of the train changes. A moving state at STANDSTILL, with
UNEXPECTED_REPORT raised, and any report in UNKNOWN resynchronise the train by the table of R69: standstill, tripped,
TRIPPED for want of a mode, for PTRIP or for the opposite direction, else holding its claim STOPPING or, synchronised,
RUNNING within the ratings or, its heat refused, STOPPING with HEAT_SHORT. Other trains and the tables stand. Premise:
holds hold their own train's command (part of StepKeepsClosedGateQuiet). -/
def Obligations.ReportsAreTaken : Prop :=
  (∀ (eth : Eth) (h : Header) (items : List Item) (pad : List Byte) (s : State) (i : StationId), items.length ≤ 16 →
     s.findStation .d h.src = some i →
     let passed := s.hand .u { eth := eth, type := s.part.telegramType,
                               payload := .telegram { cls := 0x04, hdr := h, items := items, pad := pad } }
     let rep := readReport items
     let here := exec (.report eth h items pad) s
     ((s.station i).enrolment ≠ .enrolled ∨ s.trainsBehind i = [] → here = .next passed) ∧
     ((s.station i).enrolment = .enrolled →
       here = .next ((s.trainsBehind i).foldl (fun x t => x.readReport rep t) passed) ∧
       (s.trainsBehind i).Pairwise (· < ·) ∧
       ∀ t, t ∈ s.trainsBehind i ↔ (s.cfg t).configured = true ∧ (s.cfg t).controller = i) ∧
     (∀ t, (s.station i).enrolment = .enrolled → s.trainsBehind i = [t] → (s.run t).state = .standstill →
       rep.runState = none ∨ rep.runState = some .standstill →
       here = .next (passed.modRun t fun r => { r with
         age := some 0
         engaged := if (s.cfg t).kind = .reversible then rep.mode.getD r.engaged else r.engaged
         report :=
           { runState := rep.runState.or r.report.runState, mode := rep.mode.or r.report.mode,
             active := rep.active.or r.report.active, reactive := rep.reactive.or r.report.reactive,
             gen := rep.gen.or r.report.gen, chg := rep.chg.or r.report.chg,
             tripCause := rep.tripCause.or r.report.tripCause } }))) ∧
  (∀ (eth : Eth) (h : Header) (items : List Item) (pad : List Byte) (s : State) (i : StationId) (t : TrainId),
     items.length ≤ 16 → s.findStation .d h.src = some i → (s.station i).enrolment = .enrolled → s.trainsBehind i = [t] →
     s.queue.holdsCommands →
     let rep := readReport items
     ∃ u : State, exec (.report eth h items pad) s = .next u ∧ othersKept s u t ∧ tablesKept s u ∧
       (u.run t).age = some 0 ∧ (u.run t).report = (s.run t).report.laidOver rep ∧
       (∀ m, (s.run t).state = .engaging → (s.run t).mode = some m → rep.mode = some (some m) →
         rep.runState = none ∨ rep.runState = some .standstill ∨ rep.runState = some .engaging →
         (u.run t).state = .starting ∧ (u.run t).timer = some (.start, (s.cfg t).startTimeout * 1000) ∧
           (u.run t).mode = some m ∧ (u.run t).failures = (s.run t).failures ∧
           ((s.cfg t).kind = .reversible → (u.run t).engaged = some m)) ∧
       ((s.run t).state = .engaging → rep.mode ≠ some (s.run t).mode →
         rep.runState = none ∨ rep.runState = some .standstill ∨ rep.runState = some .engaging →
         (u.run t).state = .engaging ∧ (u.run t).timer = (s.run t).timer) ∧
       ((s.run t).state = .engaging →
         rep.runState = some .starting ∨ rep.runState = some .synchronised ∨ rep.runState = some .stopping →
         (u.run t).state = .stopping ∧ (u.run t).timer = some (.stop, (s.cfg t).stopTimeout * 1000) ∧
         (u.run t).lastCause = some Cause.unexpectedReport ∧
         ((s.cfg t).kind = .reversible → (u.run t).engaged = rep.mode.getD (s.run t).engaged)) ∧
       ((s.run t).state = .engaging ∨ (s.run t).state = .stopping → rep.runState = some .tripped →
         (u.run t).state = .tripped ∧ (u.run t).mode = none ∧ (u.run t).timer = none ∧
         (u.run t).lastCause = some Cause.trip ∧
         ((s.cfg t).kind = .reversible → (u.run t).engaged = rep.mode.getD (s.run t).engaged)) ∧
       ((s.run t).state = .starting → rep.runState = some .synchronised →
         (u.run t).state = .running ∧ (u.run t).timer = none ∧ (u.run t).failures = 0 ∧
         (s.gateOpen = true →
           (u.run t).power = min (s.cfg t).minStable ((s.cfg t).rated (s.run t).mode)) ∧
         (s.gateOpen = false → (u.run t).power = (s.run t).power)) ∧
       ((s.run t).state = .stopping → rep.runState = some .standstill →
         (u.run t).timer = none ∧ (u.run t).mode = none ∧
         ((s.run t).failures < s.part.failureLimit → (s.run t).lock = false → (u.run t).state = .standstill) ∧
         (s.part.failureLimit ≤ (s.run t).failures ∨ (s.run t).lock = true →
           (u.run t).state = .locked ∧ (u.run t).lock = true)) ∧
       ((s.run t).state = .running → rep.runState = some .tripped →
         (u.run t).state = .tripped ∧ (u.run t).timer = none ∧ (u.run t).mode = none ∧ (u.run t).power = 0 ∧
         (u.run t).lastCause = some Cause.trip ∧ u.queue.entriesOf t = [] ∧ (∀ r ∈ u.reservations, r.train ≠ t)) ∧
       ((s.run t).state = .running → rep.runState = some .standstill →
         (u.run t).mode = none ∧ (u.run t).power = 0 ∧ (u.run t).reactive = 0 ∧ (u.run t).reheat = 0 ∧
         (u.run t).lastCause = some Cause.unexpectedReport ∧ (∀ r ∈ u.reservations, r.train ≠ t) ∧
         (u.cavern (s.cfg t).cavern).run.holders.getLsbD t.val = false ∧
         ((s.run t).failures < s.part.failureLimit → (s.run t).lock = false → (u.run t).state = .standstill) ∧
         (s.part.failureLimit ≤ (s.run t).failures ∨ (s.run t).lock = true → (u.run t).state = .locked)) ∧
       ((s.run t).state = .running ∨ (s.run t).state = .starting → rep.runState = some .stopping →
         (u.run t).state = .stopping ∧ (u.run t).timer = some (.stop, (s.cfg t).stopTimeout * 1000) ∧
         (u.run t).mode = (s.run t).mode ∧ (u.run t).lastCause = some Cause.unexpectedReport ∧ u.caverns = s.caverns ∧
         (∀ r ∈ u.reservations, r.train ≠ t) ∧ ((s.run t).state = .running → (u.run t).power = 0)) ∧
       ((s.run t).state = .running →
         rep.runState ≠ some .standstill → rep.runState ≠ some .stopping → rep.runState ≠ some .tripped →
         u.run t = { s.run t with age := some 0, report := (s.run t).report.laidOver rep }) ∧
       ((s.run t).state = .starting → rep.runState = some .tripped →
         (u.run t).state = .tripped ∧ (u.run t).mode = none ∧ (u.run t).timer = none ∧
         (u.run t).lastCause = some Cause.trip ∧ (u.run t).engaged = (s.run t).engaged) ∧
       ((s.run t).state = .starting →
         rep.runState = none ∨ rep.runState = some .standstill ∨ rep.runState = some .engaging ∨ rep.runState = some .starting →
         u.run t = { s.run t with age := some 0, report := (s.run t).report.laidOver rep }) ∧
       ((s.run t).state = .stopping → rep.runState ≠ some .standstill → rep.runState ≠ some .tripped →
         u.run t = { s.run t with age := some 0, report := (s.run t).report.laidOver rep }) ∧
       (let taken : Mode := if (s.cfg t).kind = .reversible then rep.mode.getD (s.run t).engaged else (s.run t).engaged
        let recorded : TrainRun :=
         { s.run t with age := some 0, report := (s.run t).report.laidOver rep, engaged := taken }
        ((s.run t).state = .standstill ∨ (s.run t).state = .locked → rep.runState = some .tripped →
         (u.run t).state = .tripped ∧ (u.run t).mode = none ∧ (u.run t).lastCause = some Cause.trip ∧
         (u.run t).engaged = taken ∧ (u.run t).lock = (s.run t).lock) ∧
        ((s.run t).state = .locked → rep.runState = none ∨ rep.runState = some .standstill → u.run t = recorded) ∧
        ((s.run t).state = .locked → rep.runState ≠ none → rep.runState ≠ some .standstill → rep.runState ≠ some .tripped →
         (u.run t).state = .tripped ∧ (u.run t).lastCause = some Cause.unexpectedReport ∧ (u.run t).engaged = taken ∧
         (u.run t).lock = (s.run t).lock) ∧
        ((s.run t).state = .tripped → rep.runState = some .standstill → (s.run t).reset = true →
         (u.run t).reset = false ∧ (u.run t).mode = none ∧ (u.run t).engaged = taken ∧
         (u.run t).failures = (s.run t).failures ∧
         ((s.run t).failures < s.part.failureLimit → (s.run t).lock = false → (u.run t).state = .standstill) ∧
         (s.part.failureLimit ≤ (s.run t).failures ∨ (s.run t).lock = true → (u.run t).state = .locked)) ∧
        ((s.run t).state = .tripped → rep.runState ≠ some .standstill ∨ (s.run t).reset = false → u.run t = recorded)) ∧
       ((s.run t).state = .unknown ∨ (s.run t).state = .standstill →
         let st := (s.run t).state
         let engaged : Mode := if st = .standstill then rep.mode.getD (s.run t).engaged else (s.run t).engaged
         let used : Mode := match (s.cfg t).kind with
           | .compressor => some .charge
           | .expander => some .generate
           | .reversible => match rep.mode with
             | some (some m) => some m
             | _ => engaged
         let place := s.cavern (s.cfg t).cavern
         let moving : Prop := ∃ x ∈ [ReportedState.engaging, .starting, .stopping, .synchronised], rep.runState = some x
         let tripped (c : Cause) : Prop :=
           (u.run t).state = .tripped ∧ (u.run t).mode = none ∧ (u.run t).lastCause = some c ∧ u.queue.entriesOf t = []
         let free (m : RunMode) : Prop := place.run.direction = none ∨ place.run.direction = some m
         (st = .standstill → moving →
           ∃ r ∈ u.faults.ring, r.cause = Cause.unexpectedReport ∧ r.train = some t) ∧
         (st = .unknown → rep.runState = none → (u.run t).state = .unknown) ∧
         (st = .unknown → rep.runState = some .standstill →
           ((s.run t).failures < s.part.failureLimit → (s.run t).lock = false → (u.run t).state = .standstill) ∧
           (s.part.failureLimit ≤ (s.run t).failures ∨ (s.run t).lock = true → (u.run t).state = .locked) ∧
           ((s.cfg t).kind = .reversible → (u.run t).engaged = rep.mode.getD (s.run t).engaged)) ∧
         (st = .unknown → rep.runState = some .tripped → (u.run t).state = .tripped ∧ (u.run t).mode = none) ∧
         (moving → used = none → tripped Cause.resyncConflict) ∧
         (moving → used ≠ none → s.ptrip = true → tripped Cause.tripLineActive) ∧
         (∀ m d, moving → used = some m → s.ptrip = false → place.run.direction = some d → d ≠ m →
           tripped Cause.resyncConflict) ∧
         (∀ m, moving → used = some m → s.ptrip = false → free m →
           (u.run t).mode = some m ∧ (u.cavern (s.cfg t).cavern).run.direction = some m ∧
           (u.cavern (s.cfg t).cavern).run.holders.getLsbD t.val = true ∧
           (rep.runState ≠ some .synchronised → (u.run t).state = .stopping) ∧
           ((u.run t).state = .stopping → (u.run t).timer = some (.stop, (s.cfg t).stopTimeout * 1000)) ∧
           (rep.runState = some .synchronised →
             ((u.run t).state = .stopping ∧ (u.run t).lastCause = some Cause.heatShort) ∨
             ((u.run t).state = .running ∧ (u.run t).reheat = 0 ∧ (u.run t).failures = (s.run t).failures ∧
               ((u.run t).power : Int) = max 0 (min ((rep.active.map BitVec.toInt).getD 0) ((s.cfg t).rated (some m))) ∧
               (u.run t).reactive = max (-((s.cfg t).reactiveLimit : Int))
                 (min ((rep.reactive.map BitVec.toInt).getD 0) (s.cfg t).reactiveLimit))) ∧
           (rep.runState = some .synchronised → (s.cfg t).heatRatio m = 0 → (u.run t).state = .running))))

/-- R52, R55, R56, R58, R59, R60: The engage timer's expiry adds a failure (at most 7) and ends the attempt in
STANDSTILL or LOCKED, its last cause ENGAGE_TIMEOUT also where it locks (TRAIN_LOCKED is raised first: the model's,
log entry 23); the start timer's adds a failure and makes the train STOPPING with its stop timer; the stop timer's
makes it TRIPPED. An expiry of a timer that does not run changes nothing (the model's choice, log entry 2). A stop
request for a train at STANDSTILL, STOPPING or LOCKED is dropped; for one ENGAGING, STARTING or RUNNING makes it
STOPPING without reservations, from RUNNING with set values 0 and no quantity waiting; for one UNKNOWN or TRIPPED
raises TRAIN_STATE (the model's, log entry 26). Other trains and the tables stand. Premise: holds hold their own
train's command (part of StepKeepsClosedGateQuiet). -/
def Obligations.TrainTimersAndStopRequests : Prop :=
  (∀ (t : TrainId) (s : State), s.queue.holdsCommands →
     let r := s.run t
     let failures := min (r.failures + 1) 7
     (∀ n, r.timer = some (.engage, n) → ∃ u : State, exec (.engageTimerExpiry t) s = .next u ∧ othersKept s u t ∧
       tablesKept s u ∧ (u.run t).failures = failures ∧ (u.run t).timer = none ∧
       (u.run t).lastCause = some Cause.engageTimeout ∧ (u.run t).mode = none ∧
       (failures < s.part.failureLimit → r.lock = false → (u.run t).state = .standstill ∧ (u.run t).lock = false) ∧
       (s.part.failureLimit ≤ failures ∨ r.lock = true → (u.run t).state = .locked ∧ (u.run t).lock = true) ∧
       (∀ e ∈ u.queue.entriesOf t, e.kind ≠ .engage)) ∧
     (∀ n, r.timer = some (.start, n) → ∃ u : State, exec (.startTimerExpiry t) s = .next u ∧ othersKept s u t ∧
       tablesKept s u ∧ (u.run t).failures = failures ∧ (u.run t).state = .stopping ∧
       (u.run t).timer = some (.stop, (s.cfg t).stopTimeout * 1000) ∧ (u.run t).lastCause = some Cause.startTimeout) ∧
     (∀ n, r.timer = some (.stop, n) → ∃ u : State, exec (.stopTimerExpiry t) s = .next u ∧ othersKept s u t ∧
       tablesKept s u ∧ (u.run t).failures = r.failures ∧ (u.run t).state = .tripped ∧
       (u.run t).timer = none ∧ (u.run t).mode = none ∧ (u.run t).reset = false ∧
       (u.run t).lastCause = some Cause.stopTimeout ∧ u.queue.entriesOf t = []) ∧
     ((∀ n, r.timer ≠ some (.engage, n)) → exec (.engageTimerExpiry t) s = .next s) ∧
     ((∀ n, r.timer ≠ some (.start, n)) → exec (.startTimerExpiry t) s = .next s) ∧
     ((∀ n, r.timer ≠ some (.stop, n)) → exec (.stopTimerExpiry t) s = .next s)) ∧
  (∀ (s : State) (x : StopRequest) (rest : List StopRequest), s.stopRequests = x :: rest → s.queue.holdsCommands →
     let t := x.train
     let st := (s.run t).state
     (st = .standstill ∨ st = .stopping ∨ st = .locked → exec .trainStopRequest s = .next { s with stopRequests := rest }) ∧
     (st = .engaging ∨ st = .starting ∨ st = .running → ∃ u : State, exec .trainStopRequest s = .next u ∧
       u.stopRequests = rest ∧ othersKept s u t ∧ tablesKept s u ∧ u.caverns = s.caverns ∧
       (u.run t).state = .stopping ∧ (u.run t).timer = some (.stop, (s.cfg t).stopTimeout * 1000) ∧
       (u.run t).lastCause = some x.cause ∧ (u.run t).failures = (s.run t).failures ∧
       (∀ r ∈ u.reservations, r.train ≠ t) ∧
       (st = .running → (u.run t).power = 0 ∧ (u.run t).reactive = 0 ∧ (u.run t).reheat = 0 ∧
         u.queue.pendings.get t = none ∧ ∀ e ∈ u.queue.entriesOf t, e.kind.isQuantity = false)) ∧
     (st = .unknown ∨ st = .tripped → exec .trainStopRequest s =
       .next (({ s with stopRequests := rest }.modRun t fun r => { r with lastCause := some Cause.trainState }).raise
         { cause := Cause.trainState, train := some t })))

/-- R63: PTRIP asserted: every configured train in ENGAGING, STARTING, RUNNING or STOPPING becomes TRIPPED with
TRIP_LINE_ACTIVE, its timer stopped, its entries gone; every other keeps its record but for the trip line and, where
TRIPPED, reset requested, which is cleared; tables, stations and gate stand. PTRIP deasserted clears the trip line of
every record and changes nothing else. Premise: holds hold their own train's command (part of
StepKeepsClosedGateQuiet). -/
def Obligations.TripLineTakesTrainsDown : Prop :=
  ∀ s : State, s.queue.holdsCommands →
    (∃ u : State, exec .ptripAsserted s = .next u ∧ tablesKept { s with ptrip := true } u ∧ (∀ t, u.cfg t = s.cfg t) ∧
      ∀ t, let r := s.run t
        let moving : Prop := (s.cfg t).configured = true ∧ r.state.holdsClaim = true
        (u.run t).tripLine = true ∧
        (moving → (u.run t).state = .tripped ∧ (u.run t).timer = none ∧ (u.run t).mode = none ∧
          (u.run t).reset = false ∧ (u.run t).lastCause = some Cause.tripLineActive ∧ u.queue.entriesOf t = []) ∧
        (¬ moving → u.run t = { r with tripLine := true, reset := if r.state = .tripped then false else r.reset })) ∧
    exec .ptripDeasserted s = .next
      { s with ptrip := false, trains := tabMap (fun x => { x with run := { x.run with tripLine := false } }) s.trains }

/-! ### Caverns and heat stores -/

/-- R99, R103, R104: A claim on an IDLE cavern makes the train its only holder in the direction; in the same direction
it joins the holders; in the other it is refused; a grant with the blind timer EXPIRED is followed by a BLIND_STOP
request. A train removed leaves the holder set, and the direction becomes IDLE where the set is then empty; one that
is no holder changes nothing. The cap is 0 for a train that is no holder, the present set value in a BLIND cavern,
else the band's allowance less the other holders' set values, not below 0, lowered to the set value by the bars
DISAGREED, RISE_HOLD and FALL_HOLD. -/
def Obligations.DirectionClaimsAndPowerCap : Prop :=
  (∀ (s : State) (t : TrainId) (d : RunMode),
     let c := (s.cfg t).cavern
     let r := (s.cavern c).run
     let now := (s.run t).power
     let band := match d with | .charge => r.chargeBand | .generate => r.generateBand
     let allowance := match band with
       | some b => (match d with
         | .charge => (s.bands.get (bandIndex c b)).charge
         | .generate => (s.bands.get (bandIndex c b)).generate)
       | none => 0
     let others := (((fins 6).filter fun u => r.holders.getLsbD u.val && u != t).map fun u => (s.run u).power).sum
     let barred : Prop := r.condition = .disagreed ∨ (d = .charge ∧ r.riseHold = true) ∨ (d = .generate ∧ r.fallHold = true)
     (r.holders.getLsbD t.val = false → s.powerCap t = 0) ∧
     (r.holders.getLsbD t.val = true → r.condition = .blind → s.powerCap t = now) ∧
     (r.holders.getLsbD t.val = true → r.condition ≠ .blind → r.direction = some d →
       (¬ barred → s.powerCap t = allowance - others) ∧ (barred → s.powerCap t = min (allowance - others) now))) ∧
  (∀ (s : State) (t : TrainId) (m : RunMode),
     let c := (s.cfg t).cavern
     let r := (s.cavern c).run
     let granted (h : TrainSet) : State :=
       { s.modCavern c (fun r => { r with direction := some m, holders := h }) with
         stopRequests := s.stopRequests ++ (if r.blindTimer = .expired then [{ train := t, cause := Cause.blindStop }] else []) }
     (r.direction = none → s.claim t m = some (granted (BitVec.twoPow 6 t.val))) ∧
     (r.direction = some m → s.claim t m = some (granted (r.holders ||| BitVec.twoPow 6 t.val))) ∧
     (∀ d, r.direction = some d → d ≠ m → s.claim t m = none) ∧
     (r.holders.getLsbD t.val = false → s.unclaim t = s) ∧
     (r.holders.getLsbD t.val = true →
       let h := r.holders &&& ~~~ (BitVec.twoPow 6 t.val)
       s.unclaim t = s.modCavern c fun r => { r with holders := h, direction := if h = 0 then none else r.direction }))

/-- R91, R92, R93, R94, R96, R97, R98, R102: A configured cavern recomputed with two usable pressures is AGREED within
the tolerance, else DISAGREED, with the higher and lower as its pressures; with one is SINGLE; with none is BLIND
without pressures and bands, rates and holds kept, and on becoming BLIND its blind timer starts and CAVERN_BLIND is
raised; leaving BLIND makes the blind timer IDLE; bands in force are those of the high and low pressures. The rate
window starts, and restarts where the usable set changes; at 10 s and more the rates are those of R97 and the hold
flags compare them with the bands' limits, RATE_HOLD raised where one changes; at a hard limit every holder on the
move is TRIPPED with ENVELOPE_TRIP, and no other train's record changes. A transmitter is usable with quality GOOD or
SUSPECT and its last success no further back than the staleness limit, at the limit itself until the timer has expired
there (the model's, log entry 29). A staleness expiry recomputes the cavern (the point's age: the model's, log entries
29 and 30); a blind expiry asks every holder to stop with BLIND_STOP in train number order; a timer that does not run
does nothing (log entry 2). -/
def Obligations.CavernConditionAndTimers : Prop :=
  (∀ (s : State) (c : CavernId),
     let k := s.cavern c
     let u := s.recomputeCavern c
     let r := (u.cavern c).run
     let inForce (p : Int) (b : Fin 8) : Prop :=
       (p ≤ (s.bands.get (bandIndex c b)).bound ∨ b = 7) ∧ ∀ a : Fin 8, a < b → ¬ p ≤ (s.bands.get (bandIndex c a)).bound
     (k.cfg.configured = false → u = s) ∧
     (k.cfg.configured = true →
       (∀ a b, s.usablePressure c .a = some a → s.usablePressure c .b = some b →
         r.condition = (if (a - b).natAbs ≤ k.cfg.tolerance then .agreed else .disagreed) ∧
         r.high = some (max a b) ∧ r.low = some (min a b)) ∧
       (∀ x, (s.usablePressure c .a = some x ∧ s.usablePressure c .b = none) ∨
           (s.usablePressure c .a = none ∧ s.usablePressure c .b = some x) →
         r.condition = .single ∧ r.high = some x ∧ r.low = some x) ∧
       (s.usablePressure c .a = none → s.usablePressure c .b = none →
         r.condition = .blind ∧ r.high = none ∧ r.low = none ∧ r.chargeBand = none ∧ r.generateBand = none ∧
         r.rise = k.run.rise ∧ r.fall = k.run.fall ∧ r.riseHold = k.run.riseHold ∧ r.fallHold = k.run.fallHold ∧
         (k.run.condition ≠ .blind → r.blindTimer = .running (k.cfg.blindLimit * 1000) ∧ r.windowAge = none ∧
           (u.faults.ring.getLast?.map fun x => (x.cause, x.place)) = some (Cause.cavernBlind, some c.val))) ∧
       (∀ p, r.high = some p → ∃ b, r.chargeBand = some b ∧ inForce p b) ∧
       (∀ p, r.low = some p → ∃ b, r.generateBand = some b ∧ inForce p b) ∧
       (k.run.condition = .blind → r.condition ≠ .blind → r.blindTimer = .idle) ∧
       (∀ hi lo, r.high = some hi → r.low = some lo →
         let changed : Prop := k.run.usableA ≠ (s.usablePressure c .a).isSome ∨ k.run.usableB ≠ (s.usablePressure c .b).isSome
         let windowIs (age high low) : Prop := r.windowAge = age ∧ r.windowHigh = high ∧ r.windowLow = low
         let ratesStand : Prop :=
           r.rise = k.run.rise ∧ r.fall = k.run.fall ∧ r.riseHold = k.run.riseHold ∧ r.fallHold = k.run.fallHold
         (k.run.windowAge = none ∨ changed → windowIs (some 0) (some hi) (some lo) ∧ ratesStand) ∧
         (∀ e wh wl, k.run.windowAge = some e → k.run.windowHigh = some wh → k.run.windowLow = some wl → ¬ changed →
           (e < 10000 → windowIs (some e) (some wh) (some wl) ∧ ratesStand) ∧
           (10000 ≤ e →
             r.rise = (Int.fdiv ((hi - wh) * 3600000) e).toNat ∧ r.fall = (Int.fdiv ((wl - lo) * 3600000) e).toNat ∧
             (∀ b, r.chargeBand = some b → r.riseHold = decide ((s.bands.get (bandIndex c b)).maxRise < r.rise)) ∧
             (∀ b, r.generateBand = some b → r.fallHold = decide ((s.bands.get (bandIndex c b)).maxFall < r.fall)) ∧
             (k.cfg.rateWindow * 1000 ≤ e → windowIs (some 0) (some hi) (some lo)) ∧
             (e < k.cfg.rateWindow * 1000 → windowIs (some e) (some wh) (some wl))))) ∧
       (let atLimit : Prop :=
         (k.run.direction = some .charge ∧ ∃ hi, r.high = some hi ∧ (k.cfg.hardMax : Int) ≤ hi) ∨
         (k.run.direction = some .generate ∧ ∃ lo, r.low = some lo ∧ lo ≤ (k.cfg.hardMin : Int))
        let holdFault (rate : Nat) : Prop :=
         (u.faults.ring.getLast?.map fun x => (x.cause, x.place, x.detail)) =
           some (Cause.rateHold, some c.val, some (nat rate))
        (∀ t, atLimit → k.run.holders.getLsbD t.val = true → (s.run t).state.holdsClaim = true →
         (u.run t).state = .tripped ∧ (u.run t).mode = none ∧ (u.run t).timer = none ∧
           (u.run t).lastCause = some Cause.envelopeTrip) ∧
        (∀ t, ¬ atLimit ∨ k.run.holders.getLsbD t.val = false ∨ (s.run t).state.holdsClaim = false → u.run t = s.run t) ∧
        (¬ atLimit → r.riseHold ≠ k.run.riseHold → r.fallHold = k.run.fallHold → holdFault r.rise) ∧
        (¬ atLimit → r.riseHold = k.run.riseHold → r.fallHold ≠ k.run.fallHold → holdFault r.fall)))) ∧
  (∀ (s : State) (c : CavernId) (x : Transmitter),
     let r := (s.cavern c).run
     (r.stale x = none → exec (.cavernStalenessTimerExpiry c x) s = .next s) ∧
     (∀ n, r.stale x = some n → s.cavernPoint c x = none →
       exec (.cavernStalenessTimerExpiry c x) s =
         .next ((s.modCavern c fun r => r.setStale x none).recomputeCavern c)) ∧
     (∀ n i, r.stale x = some n → s.cavernPoint c x = some i →
       exec (.cavernStalenessTimerExpiry c x) s =
         .next (((s.modCavern c fun r => r.setStale x none).modPoint i fun p =>
           let age := p.age.map fun a => min (a + n) 0xFFFFFFFE
           { p with age := age, staleAt := age }).recomputeCavern c)) ∧
     (∀ i, s.cavernPoint c x = some i →
       let p := s.points.get i
       let limit := (s.cavern c).cfg.staleness * 1000
       (p.quality = .bad ∨ p.age = none → s.usablePressure c x = none) ∧
       (∀ a, p.quality ≠ .bad → p.age = some a →
         (a < limit → s.usablePressure c x = p.value) ∧
         (a = limit → p.staleAt ≠ some a → s.usablePressure c x = p.value) ∧
         (a = limit → p.staleAt = some a → s.usablePressure c x = none) ∧
         (limit < a → s.usablePressure c x = none))) ∧
     (∀ n, r.blindTimer = .running n → exec (.blindTimerExpiry c) s = .next
       { s.modCavern c (fun r => { r with blindTimer := .expired }) with
         stopRequests := s.stopRequests ++
           (((fins 6).filter fun t => r.holders.getLsbD t.val).map fun t => { train := t, cause := Cause.blindStop }) }) ∧
     ((∀ n, r.blindTimer ≠ .running n) → exec (.blindTimerExpiry c) s = .next s))

/-- R109, R110: A recomputed configured store has the sum of its layers' heats, each rounded down and not below 0, the
reservable heat and headroom from it, the count of usable layers and the condition GOOD, DEGRADED or BLIND from it,
for a sum within the field's range (beyond it: log entry 6). A layer's staleness expiry recomputes its store (the
point's age: the model's, log entries 29 and 30); a timer that does not run does nothing (log entry 2). -/
def Obligations.StoreRecomputation : Prop :=
  ∀ (s : State) (h : StoreId) (l : LayerId),
    let k := (s.store h).cfg
    let u := s.recomputeStore h
    let r := (u.store h).run
    let layers := (fins 64).filter fun i => i.val / 16 == h.val && i.val % 16 < k.layerCount
    let heat (i : LayerId) : Nat := match (s.layer i).last with
      | none => 0
      | some x => (Int.fdiv (((s.layer i).coefficient : Int) * (x - (s.layer i).base)) 10).toNat
    let stored := (layers.map heat).sum
    let usable := (layers.filter s.layerUsable).length
    (k.configured = false → u = s) ∧
    (k.configured = true → stored ≤ 0xFFFFFFFE →
      r.stored = stored ∧ r.reservable = stored - k.minReserve ∧ r.headroom = k.capacity - stored ∧ r.usable = usable ∧
      (usable = k.layerCount → r.condition = .good) ∧
      (usable < k.layerCount → k.layerCount < 2 * usable → r.condition = .degraded) ∧
      (usable ≠ k.layerCount → 2 * usable ≤ k.layerCount → r.condition = .blind) ∧
      (∀ i ∈ layers, (u.layer i).contribution = heat i)) ∧
    ((s.layer l).stale = none → exec (.layerStalenessTimerExpiry l) s = .next s) ∧
    (∀ n, (s.layer l).stale = some n → s.pointFor .layer l.val = none → l.val / 16 = h.val → l.val % 16 < k.layerCount →
      exec (.layerStalenessTimerExpiry l) s = .next ((s.modLayer l fun x => { x with stale := none }).recomputeStore h)) ∧
    (∀ n i, (s.layer l).stale = some n → s.pointFor .layer l.val = some i → l.val / 16 = h.val →
      l.val % 16 < k.layerCount →
      exec (.layerStalenessTimerExpiry l) s = .next
        (((s.modLayer l fun x => { x with stale := none }).modPoint i fun p =>
          let age := p.age.map fun a => min (a + n) 0xFFFFFFFE
          { p with age := age, staleAt := age }).recomputeStore h))

/-- R110, R112, R113, R114: The available heat is the reservable heat (DRAW) or headroom (FILL) less the remaining
amounts of that kind on the store, not below 0, and fields 23 and 24 report it. A grant of heat ratio 0 makes no
record (R112); an unconfigured or BLIND store refuses HEAT_SHORT, then a full list RESERVATION_FULL, then a store
whose stored heat exceeds its capacity makes no FILL grant (R110), refused HEAT_SHORT there (the cause and its place
in the order are the model's, log entry 49); the amount is granted in full where available, in part where at least the
minimum grant is, else refused HEAT_SHORT; a grant adds one record at the end with the contents R114 lists and changes
nothing else. -/
def Obligations.HeatGrants : Prop :=
  (∀ (s : State) (h : StoreId),
     let left (k : HeatKind) : Nat :=
       ((s.reservations.filter fun r => r.store == h && r.kind == k).map fun r => r.granted - r.consumed).sum
     s.available h .draw = (s.store h).run.reservable - left .draw ∧
     s.available h .fill = (s.store h).run.headroom - left .fill ∧
     (s.blockFields 3 h.val).map (fun fs => (fs.drop 7).take 2) =
       some [(23, nat (s.available h .draw)), (24, nat (s.available h .fill))]) ∧
  (∀ (s : State) (a : HeatAsk),
     let h := (s.cfg a.train).store
     let k := s.store h
     let ratio := match a.mode with | .generate => (s.cfg a.train).heatGenerate | .charge => (s.cfg a.train).heatCharge
     let kind : HeatKind := match a.mode with | .generate => .draw | .charge => .fill
     let amount := max (a.basis * ratio / 1000) k.cfg.minGrant
     let free := s.available h kind
     let open_ : Prop := ratio ≠ 0 ∧ k.cfg.configured = true ∧ k.run.condition ≠ .blind
     let overfull : Prop := a.mode = .charge ∧ k.cfg.capacity < k.run.stored
     let counter := match a.mode with | .generate => (s.run a.train).report.gen | .charge => (s.run a.train).report.chg
     let made (n : Nat) : Except Cause State := .ok
       { s with reservations := s.reservations ++
           [{ train := a.train, store := h, kind := kind, phase := a.phase, slot := a.slot, granted := n, consumed := 0,
              basis := a.basis, counter := if a.phase = .current then counter else none }] }
     (ratio = 0 → s.grantHeat a = .ok s) ∧
     (ratio ≠ 0 → k.cfg.configured = false ∨ k.run.condition = .blind → s.grantHeat a = .error Cause.heatShort) ∧
     (open_ → 10 ≤ s.reservations.length → s.grantHeat a = .error Cause.reservationFull) ∧
     (open_ → s.reservations.length < 10 → overfull → s.grantHeat a = .error Cause.heatShort) ∧
     (open_ → s.reservations.length < 10 → ¬ overfull →
       (amount ≤ free → s.grantHeat a = made amount) ∧
       (free < amount → k.cfg.minGrant ≤ free → s.grantHeat a = made free) ∧
       (free < amount → free < k.cfg.minGrant → s.grantHeat a = .error Cause.heatShort)))

/-- R115, R117, R118: After the trim of a kind on a store the remaining amounts of that kind sum to no more than the
reservable heat or headroom; without an excess it changes nothing; it changes the reservation list and what its faults
touch, nothing else. A report read for a RUNNING train that holds a CURRENT record, its run state absent or
synchronised: a record without a counter takes the report's counter of its kind, one with a counter has consumed made
the energy since (modulo 2^32) times the heat ratio over 1000, rounded down, and a report without that counter changes
nothing; a record then left with nothing remaining grows by the extension quantum plus the overrun where the store is
configured, not BLIND and has it available, else the train is asked to stop with HEAT_EXHAUSTED, oldest request first
(the list of waiting requests: the model's, log entry 26). -/
def Obligations.TrimAndConsumption : Prop :=
  (∀ (s : State) (h : StoreId) (k : HeatKind),
     let u := s.trimKind h k
     let bound := match k with | .draw => (s.store h).run.reservable | .fill => (s.store h).run.headroom
     ((u.reservations.filter fun r => r.store == h && r.kind == k).map fun r => r.granted - r.consumed).sum ≤ bound ∧
     (s.excess h k = 0 → u = s) ∧
     u = { s with reservations := u.reservations, faults := u.faults, tiers := u.tiers,
                  link := { s.link with u := u.link.u } }) ∧
  (∀ (eth : Eth) (h : Header) (items : List Item) (pad : List Byte) (s : State) (i : StationId) (t : TrainId) (m : RunMode),
     items.length ≤ 16 → s.findStation .d h.src = some i → (s.station i).enrolment = .enrolled → s.trainsBehind i = [t] →
     (s.run t).state = .running → (s.run t).mode = some m →
     let rep := readReport items
     ∀ r, (s.reservations.find? fun x => x.train == t && x.phase == .current) = some r →
     rep.runState = none ∨ rep.runState = some .synchronised →
     let ratio := match m with | .generate => (s.cfg t).heatGenerate | .charge => (s.cfg t).heatCharge
     let used : Reservation :=
       match (match r.kind with | .draw => rep.gen | .fill => rep.chg), r.counter with
       | none, _ => r
       | some c, none => { r with counter := some c }
       | some c, some c0 => { r with consumed := ((c.toNat + 4294967296 - c0.toNat) % 4294967296) * ratio / 1000 }
     let after := s.reservations.map fun x => if x = r then used else x
     let left (x : Reservation) : Nat := x.granted - x.consumed
     let k := s.store r.store
     let set := ((after.filter fun x => x.store == r.store && x.kind == r.kind).map left).sum
     let free := (match r.kind with | .draw => k.run.reservable | .fill => k.run.headroom) - set
     let ask := k.cfg.quantum + (used.consumed - used.granted)
     let extends_ : Prop := k.cfg.configured = true ∧ k.run.condition ≠ .blind ∧ ask ≤ free
     ∃ u : State, exec (.report eth h items pad) s = .next u ∧ tablesKept s u ∧ u.caverns = s.caverns ∧
       u.faults = s.faults ∧
       (0 < left used → u.reservations = after ∧ u.stopRequests = s.stopRequests) ∧
       (left used = 0 → extends_ → u.stopRequests = s.stopRequests ∧
         u.reservations = after.map fun x => if x = used then { used with granted := used.granted + ask } else x) ∧
       (left used = 0 → ¬ extends_ → u.reservations = after ∧
         u.stopRequests = s.stopRequests ++ [{ train := t, cause := Cause.heatExhausted }]))

/-! ### The schedule engine -/

/-- R126, R127, R128, R129: The items of a SCHEDULE from a desk are taken one by one. Refusals in order: a kind that
is none of the three, a slot within the gate lead, beyond a + 47, one past gate closure, a position of the ring still
taken while UNSYNCHRONISED. FIRM makes the record FIRM, CLEAR empties it to FREE, COMMIT by a position of that desk
places or replaces the commitment (at most 8), reserves read as at least 0, and makes it PROVISIONAL; each notes the
desk. A refusal raises one fault and changes nothing else. (The order and other numbers in the ring: log entry 35.) -/
def Obligations.ScheduleItemsActOnTheRing : Prop :=
  ∀ (h : Header) (i : Item) (rest : List Item) (s : State) (src : Source),
    h.dst = s.part.address → s.sourceOf .u h (fun e => e.role == .desk) = some src → rest.length ≤ 15 →
    let n := i.auxA
    let old := s.slots.get (Fin.ofNat 48 n.toNat)
    let here := exec (.schedule h [i]) s
    let refused (c : Cause) : Host.Outcome State Fault Refusal := .next (s.raise
      { cause := c, category := some .schedule, station := some src.address, seq := some src.seq, kind := some i.kind,
        tag := some i.tag, reference := some (referenceWord i.refKind i.refId), detail := some n })
    let put (x : Slot) : Host.Outcome State Fault Refusal := .next (s.modSlotAt (Fin.ofNat 48 n.toNat) fun _ => x)
    let late : Prop := ∃ a, s.engine.active = some a ∧ n.toNat ≤ a.toNat + s.part.gateLead
    let far : Prop := ∃ a, s.engine.active = some a ∧ a.toNat + 47 < n.toNat
    let passed : Prop := old.number = n ∧ old.gatePassed = true
    let taken : Prop := old.number ≠ n ∧ old.state ≠ .free ∧ old.state ≠ .closed ∧ s.engine.active = none
    let x : Slot := if old.number = n then old else { number := n }
    (exec (.schedule h []) s = .next s) ∧
    (∃ u : State, here = .next u ∧ exec (.schedule h (i :: rest)) s = exec (.schedule h rest) u) ∧
    (i.kind ≠ 0x30 → i.kind ≠ 0x31 → i.kind ≠ 0x32 → here = refused Cause.kindIllegal) ∧
    (i.kind = 0x30 ∨ i.kind = 0x31 ∨ i.kind = 0x32 →
      (late → here = refused Cause.slotGateClosed) ∧
      (¬ late → far → here = refused Cause.slotOutOfWindow) ∧
      (¬ late → ¬ far → passed → here = refused Cause.slotGateClosed) ∧
      (¬ late → ¬ far → taken → here = refused Cause.slotOutOfWindow) ∧
      (¬ late → ¬ far → ¬ passed → ¬ taken →
        (i.kind = 0x31 → here = put { x with state := .firm, desk := some src.entry }) ∧
        (i.kind = 0x32 → here = put { x with commits := [], state := .free, desk := some src.entry }) ∧
        (i.kind = 0x30 → i.refKind ≠ 3 → here = refused Cause.kindIllegal) ∧
        (i.kind = 0x30 → i.refKind = 3 → 128 ≤ i.refId.toNat → here = refused Cause.positionUnused) ∧
        (∀ p : Fin 128, i.kind = 0x30 → i.refKind = 3 → i.refId.toNat = p.val →
          let c : Commit := { position := p, power := i.value.toInt, up := (max i.auxB.toInt 0).toNat,
                              down := (max i.auxC.toInt 0).toNat }
          ((s.positions.get p).desk ≠ some src.entry → here = refused Cause.positionForeign) ∧
          ((s.positions.get p).desk = some src.entry → (∀ d ∈ x.commits, d.position ≠ p) → x.commits.length < 8 →
            here = put { x with commits := x.commits ++ [c], state := .provisional, desk := some src.entry }) ∧
          ((s.positions.get p).desk = some src.entry → (∀ d ∈ x.commits, d.position ≠ p) → 8 ≤ x.commits.length →
            here = refused Cause.slotFull) ∧
          ((s.positions.get p).desk = some src.entry → (∃ d ∈ x.commits, d.position = p) →
            here = put { x with commits := x.commits.map fun d => if d.position = p then c else d,
                                state := .provisional, desk := some src.entry }))))

/-- R131, R132, R133, R134: For settings in range (the invariant StepKeepsFixedAndRangedSettings): a mark while
UNSYNCHRONISED makes its slot ACTIVE with the boundary, ramp step and time-mark timers, and the slots within the gate
lead pass gate closure; one for an earlier slot is refused TIME_BACKWARD; one for the active slot sets the boundary
and time-mark timers, and marks the slot ADJUSTED where the error exceeds the tolerance; one for a later slot makes
that slot ACTIVE likewise. Tables, gate, stations and configurations stand. Stated for slot numbers that stay within
32 bits (beyond: log entry 11). -/
def Obligations.TimeMarksSynchroniseAndCorrect : Prop :=
  ∀ (h : Header) (i : Item) (s : State) (src : Source),
    h.dst = s.part.address ∨ h.dst = 0xFFFF → s.sourceOf .u h (fun e => e.role == .clock) = some src → i.kind = 0x3C →
    s.part.inRange →
    let n := i.auxA
    let o := (max 0 (min i.value.toInt ((s.part.slotLength : Int) - 1))).toNat
    let here := exec (.timemark h i) s
    let opened (u : State) : Prop :=
      u.engine.active = some n ∧ u.engine.boundary = some ((s.part.slotLength - o) * 1000) ∧
      u.engine.ramp = some (s.part.rampStep * 1000) ∧ u.engine.mark = some (s.part.markLimit * 1000) ∧
      (u.slots.get (slotPos n)).number = n ∧ (u.slots.get (slotPos n)).state = .active ∧
      (u.slots.get (slotPos n)).gatePassed = true ∧ (∀ t, u.cfg t = s.cfg t) ∧ tablesKept s u
    (s.engine.active = none → n.toNat + s.part.gateLead < 4294967296 → ∃ u : State, here = .next u ∧ opened u ∧
      ∀ k, 1 ≤ k → k ≤ s.part.gateLead →
        let m := BitVec.ofNat 32 (n.toNat + k)
        let old := s.slots.get (slotPos m)
        (u.slots.get (slotPos m)).number = m ∧
        (old.number ≠ m ∨ (old.state ≠ .active ∧ old.state ≠ .closed) →
          (u.slots.get (slotPos m)).state = .firm ∧ (u.slots.get (slotPos m)).gatePassed = true)) ∧
    (∀ a, s.engine.active = some a → n.toNat < a.toNat → here = .next (s.raise
      { cause := Cause.timeBackward, category := some .time, station := some h.src, seq := some h.seq, detail := some n })) ∧
    (∀ b, s.engine.active = some n → s.engine.boundary = some b → s.engine.pre = .done →
      let err := ((o : Int) - ((s.part.slotLength * 1000 - b) / 1000 : Nat)).natAbs
      let timed := { s with engine := { s.engine with boundary := some ((s.part.slotLength - o) * 1000),
                                                      mark := some (s.part.markLimit * 1000) } }
      (err ≤ s.part.timeTolerance → here = .next timed) ∧
      (s.part.timeTolerance < err → here = .next
        (timed.modSlotAt (slotPos n) fun x => { x with flags := { x.flags with adjusted := true } }))) ∧
    (s.engine.active = some n → ∃ u : State, here = .next u ∧ u.engine.active = some n ∧
      u.engine.boundary = some ((s.part.slotLength - o) * 1000) ∧ u.engine.mark = some (s.part.markLimit * 1000) ∧
      u.engine.ramp = s.engine.ramp ∧ u.trains = s.trains ∧ tablesKept s u) ∧
    (∀ a, s.engine.active = some a → a.toNat < n.toNat → n.toNat + s.part.gateLead < 4294967296 →
      ∃ u : State, here = .next u ∧ opened u)

/-- R121, R136, R137, R138, R139, R140, R143, R144: For settings in range: the boundary timer's expiry in slot a
leaves slot a + 1 ACTIVE with its commitments, the boundary and pre-reservation timers started, slot a CLOSED with its
commitments, and its settlement record last in the history of at most 16: scheduled energy rounded toward 0,
generated, charged and activated energy, deviation their balance. Tables, gate, stations and configurations stand.
While no activation stands: each target of slot a + 1 is the sum of its commitments that resolve with their direction
allowed, each within its limit. Gate CLOSED: no train, entry or reservation changes, and UNDELIVERED is set where a
target is not 0. Gate OPEN: UNDELIVERED is set where a configured train not RUNNING in AUTO in the target's mode has
one; a RUNNING AUTO train goes on where its target is in its run mode or, being 0, that of a slot within the
look-ahead is (worked out in slot order, log entry 34), else is STOPPING; where it is the only configured train it is
rolled as R121 tells, a refused grant asking for its stop with HEAT_SHORT, and an AUTO train at STANDSTILL is started
toward its target in a + 1 or else the earliest slot ahead that has one, its reservation of that slot's energy, or
refused with the first failing check's cause. Stated for slot numbers that stay within 32 bits (log entry 11).
Premise: holds hold their own train's command (part of StepKeepsClosedGateQuiet). -/
def Obligations.BoundarySettlesAndDispatches : Prop :=
  (∀ (s : State) (a : Word) (ms : Nat), s.engine.active = some a → s.engine.boundary = some ms → s.part.inRange →
     a.toNat + 1 + s.part.gateLead < 4294967296 →
     let n := BitVec.ofNat 32 (a.toNat + 1)
     let x := s.accumulate.recordFor a
     ∃ (u : State) (r : Settlement), exec .boundaryTimerExpiry s = .next u ∧
       u.engine.active = some n ∧ u.engine.boundary = some (s.part.slotLength * 1000) ∧
       u.engine.pre = .running ((s.part.slotLength - min s.part.preLead (s.part.slotLength - 1)) * 1000) ∧
       u.engine.ramp = s.engine.ramp ∧ u.engine.mark = s.engine.mark ∧
       (u.slots.get (slotPos a)).state = .closed ∧ (u.slots.get (slotPos a)).commits = x.commits ∧
       (u.slots.get (slotPos n)).number = n ∧ (u.slots.get (slotPos n)).state = .active ∧
       (u.slots.get (slotPos n)).commits = (s.recordFor n).commits ∧
       u.history.getLast? = some r ∧ (s.history.length ≤ 16 → u.history.length = min 16 (s.history.length + 1)) ∧
       r.slot = a ∧
       r.scheduled = Int.tdiv ((x.commits.map fun c => c.power).sum * s.part.slotLength) 3600 ∧
       r.activated = Int.tdiv x.accumulator 3600 ∧
       r.generated = s.generatedEnergy x.bases ∧ r.charged = s.chargedEnergy x.bases ∧
       r.deviation = (r.generated : Int) - r.charged - r.scheduled - r.activated ∧
       (∀ t, u.cfg t = s.cfg t) ∧ tablesKept s u) ∧
  (∀ (s : State) (a : Word) (ms : Nat), s.engine.active = some a → s.engine.boundary = some ms → s.part.inRange →
     a.toNat + 1 + s.part.gateLead < 4294967296 → s.queue.holdsCommands → s.act.active = false →
     let n := BitVec.ofNat 32 (a.toNat + 1)
     let resolve (x : State × List (TrainId × Int)) (c : Commit) : State × List (TrainId × Int) :=
       let r := x.1.lookup true c.position.val
       match r.2 with
       | .ok y =>
         let l : Int := y.limit.getD c.power.natAbs
         if (0 < c.power → y.allow.getLsbD 0 = true) ∧ (c.power < 0 → y.allow.getLsbD 1 = true) then
           (r.1, x.2 ++ [(y.train, max (-l) (min l c.power))])
         else (r.1, x.2)
       | .error _ => (r.1, x.2)
     let targets (x : State) (k : Word) : State × List (TrainId × Int) := (s.recordFor k).commits.foldl resolve (x, [])
     let target (l : List (TrainId × Int)) (t : TrainId) : Int := ((l.filter fun y => y.1 == t).map fun y => y.2).sum
     let opened := targets s n
     let ahead : State × List (Word × List (TrainId × Int)) :=
       (List.range (min s.part.lookAhead s.part.gateLead)).foldl
         (fun x k =>
           let w := targets x.1 (BitVec.ofNat 32 (n.toNat + k + 1))
           (w.1, x.2 ++ [(BitVec.ofNat 32 (n.toNat + k + 1), w.2)])) (opened.1, [])
     let g (t : TrainId) : Int := target opened.2 t
     let agrees (v : Int) (m : Mode) : Prop := (m = some .generate ∧ 0 < v) ∨ (m = some .charge ∧ v < 0)
     let runs (t : TrainId) : Prop := (s.run t).state = .running ∧ (s.run t).auto = true
     let rests (t : TrainId) : Prop := (s.run t).state = .standstill ∧ (s.run t).auto = true
     let goes (t : TrainId) : Prop :=
       agrees (g t) (s.run t).mode ∨ (g t = 0 ∧ ∃ y ∈ ahead.2, agrees (target y.2 t) (s.run t).mode)
     let toward (t : TrainId) : Option (Word × Int) :=
       if g t ≠ 0 then some (n, g t)
       else (ahead.2.find? fun y => target y.2 t != 0).map fun y => (y.1, target y.2 t)
     ∃ u : State, exec .boundaryTimerExpiry s = .next u ∧
       (∀ t, (u.slots.get (slotPos n)).targets.get t = g t) ∧
       (s.gateOpen = false → u.queue = s.queue ∧ u.reservations = s.reservations ∧ u.stopRequests = s.stopRequests ∧
         (∀ t, (u.run t).state = (s.run t).state ∧ (u.run t).power = (s.run t).power) ∧
         ((u.slots.get (slotPos n)).flags.undelivered = true ↔
           (s.recordFor n).flags.undelivered = true ∨ ∃ t, g t ≠ 0)) ∧
       (s.gateOpen = true →
         ((u.slots.get (slotPos n)).flags.undelivered = true ↔ (s.recordFor n).flags.undelivered = true ∨
           ∃ t, (s.cfg t).configured = true ∧ g t ≠ 0 ∧ ¬ (runs t ∧ agrees (g t) (s.run t).mode)) ∧
         (∀ t, (s.cfg t).configured = true →
           (runs t → goes t → (u.run t).state = .running ∧ (u.run t).power = (s.run t).power ∧
             (u.run t).timer = (s.run t).timer) ∧
           (runs t → ¬ goes t → (u.run t).state = .stopping ∧ (u.run t).power = 0 ∧
             (u.run t).timer = some (.stop, (s.cfg t).stopTimeout * 1000) ∧ ∀ r ∈ u.reservations, r.train ≠ t) ∧
           (¬ runs t → ¬ rests t ∨ toward t = none → (u.run t).state = (s.run t).state ∧
             (u.run t).timer = (s.run t).timer ∧ (u.run t).lastCause = (s.run t).lastCause)) ∧
         ∀ t, (∀ v, (s.cfg v).configured = true ↔ v = t) →
           let basis (v : Int) : Nat :=
             let e := v.natAbs * s.part.slotLength / 3600
             if e = 0 then (s.cfg t).defaultEnergy else e
           let ask (m : RunMode) (b : Word) (v : Int) : HeatAsk :=
             { train := t, mode := m, phase := .current, slot := some b, basis := basis v }
           (∀ m, runs t → (s.run t).mode = some m → agrees (g t) (some m) →
             let current := s.reservations.find? fun r => r.train == t && r.phase == .current
             let next := s.reservations.find? fun r => r.train == t && r.phase == .next
             let counter := match m with | .generate => (s.run t).report.gen | .charge => (s.run t).report.chg
             let stands (l : List Reservation) : Prop := u.reservations = l ∧ u.stopRequests = s.stopRequests
             let asked (l : List Reservation) : Prop :=
               (∀ y, State.grantHeat { s with reservations := l } (ask m n (g t)) = .ok y → stands y.reservations) ∧
               (∀ c, State.grantHeat { s with reservations := l } (ask m n (g t)) = .error c →
                 u.reservations = l ∧ u.stopRequests = s.stopRequests ++ [{ train := t, cause := Cause.heatShort }])
             (∀ r, current = some r →
               ((r.slot.any fun b => n.toNat ≤ b.toNat) = true → stands s.reservations) ∧
               ((r.slot.any fun b => n.toNat ≤ b.toNat) = false →
                 (∀ x, next = some x → stands ((s.reservations.erase r).map fun y =>
                   if y = x then { x with phase := .current, counter := counter } else y)) ∧
                 (next = none → asked (s.reservations.erase r)))) ∧
             (current = none → (s.cfg t).heatRatio m = 0 → stands s.reservations) ∧
             (current = none → (s.cfg t).heatRatio m ≠ 0 → asked s.reservations)) ∧
           (∀ b v, toward t = some (b, v) → rests t →
             let m : RunMode := if 0 < v then .generate else .charge
             let d := (s.cavern (s.cfg t).cavern).run.direction
             let cause : Option Cause :=
               if (s.cfg t).kind.allows m = false then some Cause.modeMismatch
               else if s.reachable t = false then some Cause.trainUnreachable
               else if s.ptrip = true then some Cause.tripLineActive
               else if s.permitsStart (s.cfg t).cavern m = false then some Cause.envelopeStart
               else if d ≠ none ∧ d ≠ some m then some Cause.directionConflict
               else match s.grantHeat (ask m b v) with
                 | .error c => some c
                 | .ok _ => none
             (∀ c, cause = some c → (u.run t).state = .standstill ∧ (u.run t).lastCause = some c ∧
               u.reservations = s.reservations ∧
               (u.faults.ring.getLast?.map fun r => (r.cause, r.train)) = some (c, some t)) ∧
             (cause = none → (u.run t).mode = some m ∧
               (u.run t).state = (if (s.run t).engaged = some m then TrainState.starting else .engaging) ∧
               (u.cavern (s.cfg t).cavern).run.holders.getLsbD t.val = true ∧
               ∀ y, s.grantHeat (ask m b v) = .ok y → u.reservations = y.reservations))))

/-- R120, R135, R141, R142, R143, R151: The time-mark timer restarts with TIME_STALE. The pre-reservation timer
becomes DONE and, gate OPEN and synchronised, where the ring holds slot a + 1, one NEXT grant is asked in train number
order for each configured train RUNNING in AUTO whose target there is in its run mode, that holds a CURRENT of an
earlier slot or of none and no NEXT, and whose heat ratio is not 0; a refusal raises its cause with the train, the
store and the slot. The ramp step timer restarts with the ramp step read again (field step is the model's own, log
entry 47); with the gate OPEN a share of a train that no longer carries becomes 0, and each configured train RUNNING
in AUTO is moved one step, its ramp rate or, its reserve movement unfinished, its reserve ramp, times the ramp step,
toward its target's magnitude moved by its share, within the rated power, then the cap of its cavern as the trains
before it left it; the movement is finished where it reaches the aim (before rated power and cap: the model's, log
entry 36); no other train's set value changes. Tables, stations, gate stand; an expiry of a timer that does not run
changes nothing (log entry 2). Stated for slot numbers that stay within 32 bits (log entry 11). -/
def Obligations.EngineTimersExpire : Prop :=
  ∀ s : State,
    (∀ ms, s.engine.mark = some ms → exec .timeMarkTimerExpiry s = .next
      (State.raise { s with engine := { s.engine with mark := some (s.part.markLimit * 1000) } }
        { cause := Cause.timeStale, category := some .time })) ∧
    (s.engine.mark = none → exec .timeMarkTimerExpiry s = .next s) ∧
    (∀ ms, s.engine.pre = .running ms → s.gateOpen = false ∨ s.engine.active = none →
      exec .preReservationTimerExpiry s = .next { s with engine := { s.engine with pre := .done } }) ∧
    (∀ a, s.engine.active = some a → ∀ ms, s.engine.pre = .running ms → s.gateOpen = true → a.toNat + 1 < 4294967296 →
      let n := BitVec.ofNat 32 (a.toNat + 1)
      let s1 : State := { s with engine := { s.engine with pre := .done } }
      let w := s1.workTargets n
      let record (x : State) (t : TrainId) (p : Phase) := x.reservations.find? fun r => r.train == t && r.phase == p
      let named (t : TrainId) : Prop := (s.cfg t).configured = true ∧ (s.run t).state = .running ∧ (s.run t).auto = true ∧
        (((s.run t).mode = some .generate ∧ 0 < w.sums.get t) ∨ ((s.run t).mode = some .charge ∧ w.sums.get t < 0))
      let ask (x : State) (t : TrainId) : State :=
        match (s.run t).mode, record x t .current, record x t .next with
        | some m, some r, none =>
          if named t ∧ (s.cfg t).heatRatio m ≠ 0 ∧ (r.slot.any fun b => n.toNat ≤ b.toNat) = false then
            match x.grantHeat { train := t, mode := m, phase := .next, slot := some n,
                                basis := s.energyBasis t (some (w.sums.get t)) } with
            | .ok y => y
            | .error c => x.raise { cause := c, train := some t, place := some (16 + (s.cfg t).store.val), slot := some n }
          else x
        | _, _, _ => x
      ((s.slots.get (slotPos n)).number ≠ n → exec .preReservationTimerExpiry s = .next s1) ∧
      ((s.slots.get (slotPos n)).number = n →
        exec .preReservationTimerExpiry s = .next ((fins 6).foldl ask w.state)) ∧
      ∃ u : State, exec .preReservationTimerExpiry s = .next u ∧ u.engine = { s.engine with pre := .done } ∧
        u.trains = s.trains ∧ u.queue = s.queue ∧ u.slots = s.slots ∧ tablesKept s u ∧
        ∃ l, u.reservations = s.reservations ++ l ∧
          ∀ r ∈ l, r.phase = .next ∧ r.slot = some (BitVec.ofNat 32 (a.toNat + 1)) ∧ r.consumed = 0 ∧
            (s.run r.train).state = .running ∧ (s.run r.train).auto = true) ∧
    ((∀ ms, s.engine.pre ≠ .running ms) → exec .preReservationTimerExpiry s = .next s) ∧
    (s.engine.ramp = none → exec .rampStepTimerExpiry s = .next s) ∧
    (∀ ms, s.engine.ramp = some ms → s.gateOpen = false ∨ s.engine.active = none →
      exec .rampStepTimerExpiry s = .next
        { s with engine := { s.engine with ramp := some (s.part.rampStep * 1000), step := s.part.rampStep } }) ∧
    (∀ ms, s.engine.ramp = some ms → ∀ a, s.engine.active = some a → s.gateOpen = true →
      ∃ u : State, exec .rampStepTimerExpiry s = .next u ∧
        u.engine = { s.engine with ramp := some (s.part.rampStep * 1000), step := s.part.rampStep } ∧
        u.reservations = s.reservations ∧
        u.caverns = s.caverns ∧ u.faults = s.faults ∧ tablesKept s u ∧
        ∀ t,
          let h := s.shares.get t
          let ramped : Prop := (s.run t).state = .running ∧ (s.run t).auto = true
          let dropped : Prop := h.share ≠ 0 ∧ ¬ (ramped ∧ s.reachable t = true)
          let share : Int := if dropped then 0 else h.share
          let unfinished : Bool := if dropped then false else h.unfinished
          let target := (s.slots.get (slotPos a)).targets.get t
          let scheduled : Int := match (s.run t).mode with
            | some .generate => max 0 target
            | some .charge => max 0 (-target)
            | none => 0
          let aim := (if (s.run t).mode = some .charge then scheduled - share else scheduled + share).toNat
          let step := (if unfinished then (s.cfg t).reserveRamp else (s.cfg t).rampRate) * s.part.rampStep
          let now := (s.run t).power
          let stepped := if now < aim then min aim (now + step) else max aim (now - step)
          let seen : State := { s with trains := Vector.ofFn fun v : TrainId => if v < t then u.train v else s.train v }
          u.cfg t = s.cfg t ∧ (u.shares.get t).share = share ∧ u.run t = { s.run t with power := (u.run t).power } ∧
          ((s.cfg t).configured = true ∧ ramped →
            (u.run t).power = min (min stepped ((s.cfg t).rated (s.run t).mode)) (seen.powerCap t) ∧
            (u.shares.get t).unfinished = (unfinished && (u.run t).power != aim)) ∧
          ((s.cfg t).configured = false ∨ ¬ ramped →
            (u.run t).power = now ∧ (u.shares.get t).unfinished = unfinished))

/-! ### The reserve unit -/

/-- R147, R148, R149: Another kind is refused KIND_ILLEGAL, then an UNSYNCHRONISED engine refuses without a fault, a
CLOSED gate refuses GATE_CLOSED, each leaving its last outcome; value 0 ends the activation with every share 0 and no
fault, and the activation id that stood is kept, also where the ending item names another (the model's choice, log
entry 37); any other value is limited to the reserve band, the sums of the reserves of the active slot's commitments
that resolve with RESERVE allowed, held for the hold time, split over configured reachable trains RUNNING in AUTO with
the applied value their sum and within the limited value, the last outcome ACCEPTED or LIMITED. Tables, gate and
stations stand. (The faults' fields: log entry 37.) -/
def Obligations.ActivationsAreDecided : Prop :=
  ∀ (h : Header) (i : Item) (s : State) (src : Source),
    h.dst = s.part.address ∨ h.dst = 0xFFFF → s.sourceOf .u h (fun e => e.role == .grid) = some src →
    let here := exec (.activation h i) s
    let outcome (o : LastOutcome) : State := { s with act := { s.act with outcome := o } }
    let info (c : Cause) : FaultInfo := { cause := c, station := some h.src, seq := some h.seq, act := some i.auxA }
    (i.kind ≠ 0x38 → here = .next
      ((outcome .refusedKind).raise { info Cause.kindIllegal with detail := some (i.kind.setWidth 32) })) ∧
    (i.kind = 0x38 → s.engine.active = none → here = .next (outcome .refusedUnsynchronised)) ∧
    (∀ a, i.kind = 0x38 → s.engine.active = some a →
      (s.gateOpen = false → here = .next ((outcome .refusedGate).raise (info Cause.gateClosed))) ∧
      (s.gateOpen = true → i.value = 0 → ∃ u : State, here = .next u ∧ u.act.active = false ∧ u.act.hold = none ∧
        u.act.requested = 0 ∧ u.act.limited = 0 ∧ u.act.applied = 0 ∧ u.act.id = s.act.id ∧ u.act.outcome = .ended ∧
        (∀ t, (u.shares.get t).share = 0 ∧ (u.shares.get t).carrier = false) ∧ u.faults = s.faults ∧ tablesKept s u) ∧
      (s.gateOpen = true → i.value ≠ 0 → ∃ u : State, here = .next u ∧ u.act.active = true ∧ u.act.id = some i.auxA ∧
        u.act.requested = i.value.toInt ∧ u.act.hold = some (s.part.holdTime * 1000) ∧
        (let carried := ((s.slots.get (slotPos a)).commits.foldl
            (fun (x : State × List Commit) c =>
              let r := x.1.lookup true c.position.val
              (r.1, match r.2 with
                | .ok y => if y.allow.getLsbD 2 then x.2 ++ [c] else x.2
                | .error _ => x.2)) (s, [])).2
         u.act.up = (carried.map fun c => c.up).sum ∧ u.act.down = (carried.map fun c => c.down).sum) ∧
        u.act.limited = max (-(u.act.down : Int)) (min u.act.up i.value.toInt) ∧
        u.act.outcome = (if u.act.limited = i.value.toInt then .accepted else .limited) ∧
        u.act.applied = ((fins 6).map fun t => (u.shares.get t).share).sum ∧
        u.act.applied.natAbs ≤ u.act.limited.natAbs ∧
        (∀ t, (u.shares.get t).carrier = true → (s.cfg t).configured = true ∧ (s.run t).state = .running ∧
          (s.run t).auto = true ∧ s.reachable t = true) ∧
        (∀ t, (u.shares.get t).carrier = false → (u.shares.get t).share = 0) ∧ tablesKept s u))

/-- R152, R154: The hold timer's expiry ends the activation with ACTIVATION_EXPIRED carrying its id: requested,
limited and applied 0, every share 0, trains without a share untouched, trains with one unfinished, the id kept. An
addition adds the applied value times the milliseconds since the last over 1000, rounded toward 0, to the active
slot's accumulator and resets the time, and adds nothing while UNSYNCHRONISED. A hold timer that does not run does
nothing (log entry 2). -/
def Obligations.HoldExpiryAndActivatedEnergy : Prop :=
  (∀ s : State,
     (s.act.hold = none → exec .holdTimerExpiry s = .next s) ∧
     (∀ ms, s.act.hold = some ms → ∃ u : State, exec .holdTimerExpiry s = .next u ∧ u.act.active = false ∧
       u.act.hold = none ∧ u.act.requested = 0 ∧ u.act.limited = 0 ∧ u.act.applied = 0 ∧ u.act.id = s.act.id ∧
       (∀ t, (u.shares.get t).share = 0 ∧ (u.shares.get t).carrier = false) ∧
       (∀ t, (s.shares.get t).share = 0 → u.run t = s.run t) ∧
       (∀ t, (s.shares.get t).share ≠ 0 → (u.shares.get t).unfinished = true) ∧
       u.faults.counter = s.faults.counter + 1 ∧ tablesKept s u ∧
       (u.faults.ring.getLast?.map fun r => (r.cause, r.category, r.slot, r.detail)) =
         some (Cause.activationExpired, .reserve, s.engine.active, s.act.id))) ∧
  (∀ s : State,
     (s.engine.active = none → s.accumulate = s) ∧
     (∀ a, s.engine.active = some a → s.accumulate =
       { s.modSlotAt (slotPos a) (fun x => { x with
           accumulator := x.accumulator + Int.tdiv (s.act.applied * s.act.since) 1000 }) with
         act := { s.act with since := 0 } }))

/-! ### The instrument bus -/

/-- R157, R159, R160, R164, R167: The scan interval timer restarts. FAILED: nothing more; a round under way:
SCAN_OVERRUN and a round owed; else a round begins, with the first due entry granted on an IDLE bus, and ends at once
where nothing is due. A transaction starts once both lines are high; a low line starts its guard timer and keeps one
that runs. Arbitration lost before the fourth attempt makes the transaction wait to be made again, the data-low timer
running; at the fourth a scan ends ARB_LOST with its failure counted. (Where the attempt is counted and the fields
captured: the model's, log entry 38; the periods read when a round begins are a field of the model's own, log entry
47.) -/
def Obligations.ScanRoundsAndTransactions : Prop :=
  (∀ (s : State) (ms : Nat), s.bus.interval = some ms →
     let b : Bus := { s.bus with interval := some s.part.scanInterval }
     let periods := tabMap ScanEntry.period s.scan
     let due (i : ScanId) : Prop :=
       (s.scan.get i).inUse = true ∧ (s.bus.round + 1).toNat % (s.scan.get i).period = 0
     (s.bus.state = .failed → exec .scanIntervalTimerExpiry s = .next { s with bus := b }) ∧
     (s.bus.state ≠ .failed → s.bus.inRound = true → exec .scanIntervalTimerExpiry s = .next
       (State.raise { s with bus := { b with owedRound := true } }
         { cause := Cause.scanOverrun, detail := some s.bus.round })) ∧
     (s.bus.state ≠ .failed → s.bus.inRound = false → s.bus.owedRound = false →
       (s.bus.state ≠ .idle → (∃ i, due i) → exec .scanIntervalTimerExpiry s = .next
         { s with bus := { b with inRound := true, round := s.bus.round + 1, cursor := 0, periods := periods } }) ∧
       (s.bus.state ≠ .idle ∨ s.bus.transfer = none → (∀ i, ¬ due i) → exec .scanIntervalTimerExpiry s = .next
         { s with bus := { b with inRound := false, round := s.bus.round + 1, cursor := 0, periods := periods } }) ∧
       (∀ i, s.bus.state = .idle → s.bus.transfer = none → leastIndex due i →
         exec .scanIntervalTimerExpiry s = .next
           { s with bus := { b with
             inRound := true, round := s.bus.round + 1, cursor := i.val + 1, periods := periods, state := .scanActive, attempt := 1,
             entry := some i
             txn := some { started := false, retry := false, fast := false, fields := s.scan.get i, discarded := false } } }))) ∧
  (∀ (s : State) (x : Txn) (moved : List Byte), s.bus.txn = some x →
     (x.started = false → x.retry = false → exec (.transactionStart true true) s = .next
       { s with bus := { s.bus with
         clockLow := none
         dataLow := none
         txn := some { x with started := true, fast := s.part.fastBus, fields := (s.bus.entry.map s.scan.get).getD x.fields } } }) ∧
     (x.started = false → x.retry = true → exec (.transactionStart true true) s = .next
       { s with bus := { s.bus with clockLow := none, dataLow := none, attempt := s.bus.attempt + 1,
                                    txn := some { x with started := true, retry := false } } }) ∧
     (∀ c d, x.started = false → (c && d) = false → exec (.transactionStart c d) s = .next
       { s with bus := { s.bus with
         clockLow := if c then none else some (s.bus.clockLow.getD s.part.stretchLimit)
         dataLow := if d then none else some (s.bus.dataLow.getD s.part.hangLimit) } }) ∧
     (x.started = true → s.bus.attempt < 4 → (∀ f, s.bus.transfer = some f → f.active = false ∨ f.write = true) → exec (.arbitrationLost moved) s = .next
       { s with bus := { s.bus with txn := some { x with started := false, retry := true }, clockLow := none,
                                    dataLow := some (s.bus.dataLow.getD s.part.hangLimit) } }) ∧
     (∀ i, x.started = true → 4 ≤ s.bus.attempt → s.bus.state = .scanActive → s.bus.entry = some i → x.discarded = false →
       ∃ u : State, exec (.arbitrationLost moved) s = .next u ∧
         (u.points.get i).last = .arbLost ∧ (u.points.get i).failures = min ((s.points.get i).failures + 1) 255 ∧
         (u.points.get i).value = (s.points.get i).value ∧ ∀ j, j ≠ i → u.points.get j = s.points.get j))

/-- R158, R165, R166: A scan transaction that ends OK gives its point the reading, gained and offset and rounded down,
limited to 0 to 30000 for a pressure, quality GOOD, age 0, no failures (and no timer expired since: the model's field,
log entry 29); an acknowledge read high keeps the value, counts the failure (at most 255) and makes the quality
SUSPECT up to two failures, else BAD; other points stand. A management transfer that ends leaves the bus IDLE with
nothing held, the bytes read in the buffer, and a reply with result, count and, for a READ, the buffer's words; aux A
of its STATUS item is a free value (log entry 7). -/
def Obligations.TransactionsEndWithResults : Prop :=
  (∀ (s : State) (x : Txn) (i : ScanId) (b0 b1 b2 : Byte),
     s.bus.state = .scanActive → s.bus.txn = some x → s.bus.entry = some i → x.started = true → x.discarded = false →
     let raw : Int := match x.fields.format with
       | .u16 => (b0.toNat * 256 + b1.toNat : Nat)
       | .s16 => (b0 ++ b1).toInt
       | .s24 => (b0 ++ b1 ++ b2).toInt
     let v := Int.fdiv (raw * x.fields.gain) 1000 + x.fields.offset
     let kind := (s.scan.get i).destKind
     let p := s.points.get i
     let n := min (p.failures + 1) 255
     (∃ u : State, exec (.scanTransactionComplete (.ok b0 b1 b2)) s = .next u ∧
       u.points.get i =
         { value := some (if kind = .cavernA ∨ kind = .cavernB then max 0 (min 30000 v) else v),
           quality := .good, age := some 0, staleAt := none, failures := 0, last := .ok } ∧
       (∀ j, j ≠ i → u.points.get j = s.points.get j) ∧ u.scan = s.scan ∧ u.part = s.part) ∧
     (∃ u : State, exec (.scanTransactionComplete .noAck) s = .next u ∧
       u.points.get i =
         { p with failures := n, last := .noAck,
                  quality := if p.value = none then .bad else if n ≤ 2 then .suspect else .bad } ∧
       (∀ j, j ≠ i → u.points.get j = s.points.get j) ∧ u.scan = s.scan ∧ u.part = s.part)) ∧
  (∀ (s : State) (x : Txn) (f : Transfer) (bytes : List Byte),
     s.bus.state = .mgmtActive → s.bus.txn = some x → s.bus.transfer = some f → x.started = true →
     let n := if f.write then 0 else (f.count + 3) / 4
     let ended (result : Word) (count : Nat) (u : State) : Prop :=
       ∃ v : State, u = v.arbitrate ∧ v.bus.state = .idle ∧ v.bus.transfer = none ∧ v.bus.txn = none ∧
         (f.write = true → v.bus.buffer = s.bus.buffer) ∧
         (f.write = false → ∀ (k : Fin 32) (b : Byte), k.val < f.count → bytes[k.val]? = some b → v.bus.buffer.get k = b) ∧
         ∃ a words, v.link = (State.answer s 0x0B f.dst f.seq
           (({ kind := 0x60, value := 0, auxA := a, auxB := 0xFFFFFFFF, auxC := 0xFFFFFFFF } :: fieldItem 0 0 result ::
             fieldItem 0 1 (nat count) :: words).take 16)).link ∧
           words = (List.range n).map fun k => fieldItem 0 (2 + k) (bufferWord v.bus.buffer f.count k)
     (∃ u : State, exec (.managementTransferComplete (.ok bytes)) s = .next u ∧ ended 0 f.count u) ∧
     (∃ u : State, exec (.managementTransferComplete (.noAck bytes)) s = .next u ∧ ended 1 bytes.length u))

/-- R160, R161: The clock-low and data-low timers end a transaction HUNG with BUS_HUNG carrying 1 or 2 and start a
recovery; a scan point's last result is HUNG. A recovery that ends with the lines free leaves the bus IDLE with its
pulses and no reply owed; one that does not, or a clock-low expiry in it, leaves it FAILED with BUS_FAILED carrying
the pulses, no round, no transfer and no reply owed. Outside a recovery or transaction these commands change nothing
(the model's, log entry 2); within one they are taken whether or not the state holds the guard timer as running (the
model's, log entry 38). -/
def Obligations.HungTransactionsAreRecovered : Prop :=
  ∀ (s : State) (bytes : List Byte) (pulses : Nat),
    (∀ x, s.bus.state = .mgmtActive → s.bus.txn = some x →
      (∃ u : State, exec (.clockLowTimerExpiry bytes pulses) s = .next u ∧ u.bus.state = .recovering ∧ u.bus.pulses = 0 ∧
        u.bus.txn = none ∧ u.bus.transfer = none ∧
        (u.faults.ring.getLast?.map fun r => (r.cause, r.detail)) = some (Cause.busHung, some 1)) ∧
      (∃ u : State, exec (.dataLowTimerExpiry bytes) s = .next u ∧ u.bus.state = .recovering ∧ u.bus.pulses = 0 ∧
        u.bus.txn = none ∧ u.bus.transfer = none ∧
        (u.faults.ring.getLast?.map fun r => (r.cause, r.detail)) = some (Cause.busHung, some 2))) ∧
    (∀ x i, s.bus.state = .scanActive → s.bus.txn = some x → s.bus.entry = some i → x.discarded = false →
      (∃ u : State, exec (.clockLowTimerExpiry bytes pulses) s = .next u ∧ u.bus.state = .recovering ∧
        u.bus.pulses = 0 ∧ (u.points.get i).last = .hung) ∧
      (∃ u : State, exec (.dataLowTimerExpiry bytes) s = .next u ∧ u.bus.state = .recovering ∧
        u.bus.pulses = 0 ∧ (u.points.get i).last = .hung)) ∧
    (s.bus.state = .recovering →
      let failed (u : State) : Prop :=
        u.bus.state = .failed ∧ u.bus.pulses = pulses ∧ u.bus.inRound = false ∧ u.bus.owedRound = false ∧
        u.bus.transfer = none ∧ u.bus.owed = none ∧ u.points = s.points ∧
        (u.faults.ring.getLast?.map fun r => (r.cause, r.detail)) = some (Cause.busFailed, some (nat pulses))
      (∃ u : State, exec (.recoveryComplete pulses false) s = .next u ∧ failed u) ∧
      (∃ u : State, exec (.clockLowTimerExpiry bytes pulses) s = .next u ∧ failed u) ∧
      (∃ u : State, exec (.recoveryComplete pulses true) s = .next u.arbitrate ∧ u.bus.state = .idle ∧
        u.bus.pulses = pulses ∧ u.bus.owed = none ∧ u.faults = s.faults ∧ u.points = s.points ∧
        u.bus.transfer = s.bus.transfer)) ∧
    (s.bus.state ≠ .recovering → ∀ freed, exec (.recoveryComplete pulses freed) s = .next s) ∧
    (s.bus.state = .idle ∨ s.bus.state = .failed →
      exec (.clockLowTimerExpiry bytes pulses) s = .next s ∧ exec (.dataLowTimerExpiry bytes) s = .next s)

/-! ### Management requests -/

/-- R162, R166, R177: From a manager of level 0 or 1. BUS_RECOVER: IDLE or FAILED starts a recovery that owes its
reply, otherwise BUS_BUSY; with ABORT, IDLE answers DONE, FAILED recovers, RECOVERING is BUS_BUSY, and a transaction
in progress is ended with nothing held. BUS_TRANSFER: an address above 127, an offset above 255, a count of 0 or above
32, or words that are not exactly those of the count are refused BAD_VALUE; a bus RECOVERING or FAILED or a transfer
held is BUS_BUSY; else the transfer waits for a scan transaction in progress, or runs at once on an IDLE bus
(MGMT_ACTIVE, attempt 1, transfer ACTIVE), with an empty buffer (READ) or the bytes given, the later of two items of
one field standing (WRITE). -/
def Obligations.BusRequests : Prop :=
  (∀ (h : Header) (moved : List Byte) (s : State) (m : Manager), s.managerOf h = some m → m.level ≤ 1 →
     let plain := exec (.busRecover h) s
     let abort := exec (.busRecoverAbort h moved) s
     let busy : Host.Outcome State Fault Refusal := .next (s.refuseManage m { cause := .busBusy })
     let recovering : Host.Outcome State Fault Refusal := .next
       { s with bus := { s.bus with state := .recovering, pulses := 0, entry := none, txn := none, clockLow := none,
                                    dataLow := none, owed := some (m.dst, m.seq) } }
     (s.bus.state = .idle → plain = recovering ∧ abort = .next (s.replyWith m .done [])) ∧
     (s.bus.state = .failed → plain = recovering ∧ abort = recovering) ∧
     (s.bus.state = .recovering → plain = busy ∧ abort = busy) ∧
     (s.bus.state = .scanActive → plain = busy ∧ ∃ v : State, abort = .next v.arbitrate ∧
       v = State.replyWith { s with bus := { s.bus with state := .idle, entry := none, txn := none, clockLow := none,
                                                        dataLow := none } } m .done []) ∧
     (s.bus.state = .mgmtActive → plain = busy ∧ ∃ v : State, abort = .next v.arbitrate ∧ v.bus.state = .idle ∧
       v.bus.txn = none ∧ v.bus.transfer = none ∧ v.points = s.points ∧ v.faults = s.faults)) ∧
  (∀ (h : Header) (address : HWord) (offset count : Word) (fs : List Field) (s : State) (m : Manager),
     s.managerOf h = some m → m.level ≤ 1 → fs.length ≤ 15 →
     let read := exec (.busTransferRead h address offset count) s
     let write := exec (.busTransferWrite h address offset count fs) s
     let fits : Prop := address.toNat ≤ 127 ∧ offset.toNat ≤ 255 ∧ 1 ≤ count.toNat ∧ count.toNat ≤ 32
     let n := (count.toNat + 3) / 4
     let whole : Prop := (∀ f ∈ fs, f.number.toNat < n) ∧ ∀ k < n, ∃ f ∈ fs, f.number.toNat = k
     let busy : Prop := s.bus.state = .recovering ∨ s.bus.state = .failed ∨ s.bus.transfer ≠ none
     let bad : Host.Outcome State Fault Refusal := .next (s.refuseManage m { cause := .badValue })
     let waiting (isWrite : Bool) : Transfer :=
       { write := isWrite, address := BitVec.ofNat 7 address.toNat, register := BitVec.ofNat 8 offset.toNat,
         count := count.toNat, active := false, dst := m.dst, seq := m.seq }
     let given (buffer : Vector Byte 32) : Prop := ∀ (before after : List Field) (f : Field) (k : Fin 32),
       fs = before ++ f :: after → (∀ g ∈ after, g.number ≠ f.number) → k.val < count.toNat → k.val / 4 = f.number.toNat →
       buffer.get k = (wordBytes f.value).getD (k.val % 4) 0
     (¬ fits → read = bad ∧ write = bad) ∧ (¬ whole → write = bad) ∧
     (fits → busy → read = .next (s.refuseManage m { cause := .busBusy })) ∧
     (fits → whole → busy → write = .next (s.refuseManage m { cause := .busBusy })) ∧
     (fits → ¬ busy → s.bus.state = .scanActive →
       read = .next { s with bus := { s.bus with buffer := Vector.replicate 32 0, transfer := some (waiting false) } }) ∧
     (fits → whole → ¬ busy → s.bus.state = .scanActive →
       ∃ buffer : Vector Byte 32, given buffer ∧
         write = .next { s with bus := { s.bus with buffer := buffer, transfer := some (waiting true) } }) ∧
     (fits → whole → ¬ busy → s.bus.state = .idle →
       ∃ u : State, write = .next u ∧ u.bus.state = .mgmtActive ∧ u.bus.attempt = 1 ∧
         u.bus.transfer = some { waiting true with active := true } ∧ given u.bus.buffer) ∧
     (fits → ¬ busy → s.bus.state = .idle →
       ∃ u : State, read = .next u ∧ u.bus.state = .mgmtActive ∧ u.bus.attempt = 1 ∧
         u.bus.transfer = some { waiting false with active := true } ∧ u.bus.buffer = Vector.replicate 32 0))

/-- R180: From any manager, a read of a defined table or block changes nothing but the reply: the first 15 fields from
the field asked for, in entry and field order, the STATUS item naming the entry and field that follow; a count of 0 or
above 8 entries, or an entry or index that does not exist, is refused BAD_INDEX. Stated for one and two entries and
for every block. -/
def Obligations.ReadsChangeNothing : Prop :=
  ∀ (h : Header) (code_ : Word) (index : HWord) (count field : Word) (s : State) (m : Manager),
    s.managerOf h = some m → m.level ≤ 3 →
    let entries := exec (.readEntries h code_ index count field) s
    let block := exec (.readState h code_ index field) s
    let bad : Host.Outcome State Fault Refusal := .next (s.refuseManage m { cause := .badIndex })
    let answered (l : List (Nat × Nat × Word)) : Host.Outcome State Fault Refusal :=
      .next (s.replyDone m.dst m.seq .done ((l[15]?.map fun f => nat f.1).getD absent)
        ((l[15]?.map fun f => nat f.2.1).getD absent) ((l.take 15).map fun f => fieldItem f.1 f.2.1 f.2.2))
    (code_.toNat < 12 → count.toNat = 0 ∨ 8 < count.toNat → entries = bad) ∧
    (∀ k, code_.toNat < 12 → 1 ≤ count.toNat → count.toNat ≤ 8 → k < count.toNat →
      s.tableFields code_.toNat (index.toNat + k) = none → entries = bad) ∧
    (∀ fs, code_.toNat < 12 → count.toNat = 1 → s.tableFields code_.toNat index.toNat = some fs →
      entries = answered ((fs.filter fun f => field.toNat ≤ f.1).map fun f => (index.toNat, f.1, f.2))) ∧
    (∀ fs gs, code_.toNat < 12 → count.toNat = 2 → s.tableFields code_.toNat index.toNat = some fs →
      s.tableFields code_.toNat (index.toNat + 1) = some gs →
      entries = answered (((fs.filter fun f => field.toNat ≤ f.1).map fun f => (index.toNat, f.1, f.2))
        ++ gs.map fun f => (index.toNat + 1, f.1, f.2))) ∧
    (code_.toNat < 17 → s.blockFields code_.toNat index.toNat = none → block = bad) ∧
    (∀ fs, code_.toNat < 17 → s.blockFields code_.toNat index.toNat = some fs →
      block = answered ((fs.filter fun f => field.toNat ≤ f.1).map fun f => (index.toNat, f.1, f.2)))

/-- R27, R28, R40, R95, R171, R177, R179: For every table: a request without FIELD items changes nothing; an index
beyond the table or a field that does not exist refuses the whole, BAD_INDEX or BAD_VALUE, without a place, with that
of the first item where the first is such; an accepted request leaves entries it does not name; a field whose value is
accepted is stored. DUTIES, PERMISSIONS and BANDS from level 0 or 1, ROUTES from level 0 and POSITIONS from level 0 to
2 store the judged table and change nothing else but the reply, a refusal nothing at all; a desk may write positions
only that are UNUSED or its own and that are its own after the request (LEVEL); with the gate OPEN bounds that do not
ascend are refused INCONSISTENT with the first band lower than the one before it. (The order among several refusals:
the model's, log entry 16.) -/
def Obligations.WritesAreJudgedAndStored : Prop :=
  (∀ (n : Nat) (α : Type) (T : Table n α) (v : Vector α n) (fs : List Field),
     (T.judge v [] = .ok (v, [])) ∧
     (∀ r, T.judge v fs = .error r → r.place = none ∧ (r.cause = .badIndex ∨ r.cause = .badValue) ∧
       ∃ f ∈ fs, (r.cause = .badIndex ↔ n ≤ f.index.toNat)) ∧
     ((∃ f ∈ fs, n ≤ f.index.toNat ∨ T.fields ≤ f.number.toNat) → ∃ r, T.judge v fs = .error r) ∧
     (∀ f : Field, n ≤ f.index.toNat → T.judge v (f :: fs) = .error { cause := .badIndex }) ∧
     (∀ f : Field, f.index.toNat < n → T.fields ≤ f.number.toNat → T.judge v (f :: fs) = .error { cause := .badValue }) ∧
     (∀ w l i, T.judge v fs = .ok (w, l) → (∀ f ∈ fs, f.index.toNat ≠ (i : Fin n).val) → w.get i = v.get i) ∧
     (∀ (f : Field) (i : Fin n) (e : α), f.index.toNat = i.val → f.number.toNat < T.fields →
       T.put i f.number.toNat f.value (v.get i) = some e → T.put i f.number.toNat f.value (T.fix [f.number.toNat] e) ≠ none →
       T.bad f.number.toNat (T.fix [f.number.toNat] e) = false →
       ∃ l, T.judge v [f] = .ok (upd v i (T.fix [f.number.toNat] e), l))) ∧
  (∀ (h : Header) (fs : List Field) (s : State) (m : Manager), s.managerOf h = some m → fs.length ≤ 15 →
     let refuse (r : MRefusal) : Host.Outcome State Fault Refusal := .next (s.refuseManage m r)
     let stored (t : State) (l : List Item) : Host.Outcome State Fault Refusal := .next (t.replyWrite m l)
     (m.level ≤ 1 →
       (∀ r, dutyTable.judge s.duties fs = .error r → exec (.writeDuties h fs) s = refuse r) ∧
       (∀ w l, dutyTable.judge s.duties fs = .ok (w, l) → exec (.writeDuties h fs) s = stored { s with duties := w } l) ∧
       (∀ r, permissionTable.judge s.permissions fs = .error r → exec (.writePermissions h fs) s = refuse r) ∧
       (∀ w l, permissionTable.judge s.permissions fs = .ok (w, l) →
         exec (.writePermissions h fs) s = stored { s with permissions := w } l) ∧
       (∀ r, bandTable.judge s.bands fs = .error r → exec (.writeBands h fs) s = refuse r) ∧
       (∀ w l, bandTable.judge s.bands fs = .ok (w, l) →
         let descends (j : Fin 16) : Prop := ∃ i : Fin 16, j.val = i.val + 1 ∧ j.val ≠ 8 ∧ (w.get j).bound < (w.get i).bound
         (s.gateOpen = false ∨ (∀ j, ¬ descends j) → exec (.writeBands h fs) s = stored { s with bands := w } l) ∧
         (∀ j, s.gateOpen = true → leastIndex descends j →
           exec (.writeBands h fs) s = refuse { cause := .inconsistent, place := some (6, j.val) }))) ∧
     (m.level = 0 →
       (∀ r, routeTable.judge s.routes fs = .error r → exec (.writeRoutes h fs) s = refuse r) ∧
       (∀ w l, routeTable.judge s.routes fs = .ok (w, l) → exec (.writeRoutes h fs) s = stored { s with routes := w } l)) ∧
     (m.level ≤ 2 →
       let named (i : Fin 128) : Prop := ∃ f ∈ fs, f.index.toNat = i.val
       let free (d : StationId) (i : Fin 128) : Prop :=
         (s.positions.get i).state = .unused ∨ (s.positions.get i).desk = some d
       (∀ r, positionTable.judge s.positions fs = .error r →
         (m.desk = none → exec (.writePositions h fs) s = refuse r) ∧
         (exec (.writePositions h fs) s = refuse r ∨ exec (.writePositions h fs) s = refuse { cause := .level })) ∧
       (∀ w l, positionTable.judge s.positions fs = .ok (w, l) →
         (m.desk = none → exec (.writePositions h fs) s = stored { s with positions := w } l) ∧
         (∀ d, m.desk = some d →
           ((∀ i, named i → free d i ∧ (w.get i).desk = some d) →
             exec (.writePositions h fs) s = stored { s with positions := w } l) ∧
           (∀ i, named i → ¬ (free d i ∧ (w.get i).desk = some d) →
             exec (.writePositions h fs) s = refuse { cause := .level })))))

/-- R10, R11: A judged write with two in-use entries of one address, or one of the own address, is refused DUPLICATE,
also where it meets the next condition (the model's, log entry 16); one with a via that is no in-use coupler of port
D, or returns to its entry, INCONSISTENT with the first such entry named (an entry that only leads into a loop is
none: the model's, log entry 44); an accepted one stores the table with each entry written in a field other than 4 and
5, and each behind one, UNENROLLED with miss count 0; a call to one of them is abandoned; nothing else changes but the
reply. -/
def Obligations.StationWritesUnenrol : Prop :=
  ∀ (h : Header) (fs : List Field) (s : State) (m : Manager) (w : Vector Station 32) (l : List Item),
    s.managerOf h = some m → m.level = 0 → fs.length ≤ 15 → stationTable.judge s.stations fs = .ok (w, l) →
    let here := exec (.writeStations h fs) s
    let twice : Prop := (∃ i, (w.get i).inUse = true ∧ (w.get i).address = s.part.address) ∨
      ∃ i j, i ≠ j ∧ (w.get i).inUse = true ∧ (w.get j).inUse = true ∧ (w.get i).address = (w.get j).address
    let touched (j : StationId) : Prop := ∃ f ∈ fs, f.number ≠ 4 ∧ f.number ≠ 5 ∧
      ∃ i : StationId, f.index.toNat = i.val ∧ (i = j ∨ i ∈ viaChain w j)
    let dangling (i : StationId) : Prop := (w.get i).inUse = true ∧ (w.get i).port = .d ∧ ∃ j, (w.get i).via = some j ∧
      ((w.get j).inUse = false ∨ (w.get j).port = .u ∨ (w.get j).role ≠ .coupler ∨ j = i ∨ i ∈ viaChain w i)
    (twice → here = .next (s.refuseManage m { cause := .duplicate })) ∧
    (∀ k, ¬ twice → leastIndex dangling k →
      here = .next (s.refuseManage m { cause := .inconsistent, place := some (0, k.val) })) ∧
    (¬ twice → (∀ k, ¬ dangling k) → ∃ v : Vector Station 32,
      (∀ j, (touched j → v.get j = { w.get j with enrolment := .unenrolled, misses := 0 }) ∧
        (¬ touched j → v.get j = w.get j)) ∧
      (s.roll.call = none → here = .next (State.replyWrite { s with stations := v } m l)) ∧
      (∀ i q, s.roll.call = some (i, q) →
        (¬ touched i → here = .next (State.replyWrite { s with stations := v } m l)) ∧
        (touched i → here = .next ((State.endCall { s with stations := v } i).replyWrite m l))))

/-- R47: One accepted field written: a configured train holding a claim or TRIPPED refuses it IN_USE; fields 3 and
above, and field 0 unchanged, only store; fields 1, 2 and a changed field 0 also make the train UNKNOWN with its timer
stopped, mode NONE, its entries, hold and pending dispatch gone, control, failures and lock kept, and with field 2 the
engaged mode of the new kind; other trains and tables stand. Premise: holds hold their own train's command (part of
StepKeepsClosedGateQuiet). -/
def Obligations.TrainWritesMakeUnknown : Prop :=
  ∀ (h : Header) (f : Field) (s : State) (m : Manager) (t : TrainId) (x : TrainCfg),
    s.managerOf h = some m → m.level ≤ 1 → s.queue.holdsCommands → f.index.toNat = t.val →
    putTrainCfg f.number.toNat f.value (s.cfg t) = some x →
    let here := exec (.writeTrains h [f]) s
    let n := f.number.toNat
    let busy : Prop := (s.cfg t).configured = true ∧ ((s.run t).state.holdsClaim = true ∨ (s.run t).state = .tripped)
    (busy → here = .next (s.refuseManage m { cause := .inUse })) ∧
    (¬ busy → 3 ≤ n → ∃ l, here = .next (State.replyWrite (s.setTrain t { s.train t with cfg := x }) m l)) ∧
    (¬ busy → n = 0 → x.configured = (s.cfg t).configured →
      ∃ l, here = .next (State.replyWrite (s.setTrain t { s.train t with cfg := x }) m l)) ∧
    (¬ busy → n = 1 ∨ n = 2 ∨ (n = 0 ∧ x.configured ≠ (s.cfg t).configured) →
      ∃ (u : State) (l : List Item), here = .next (u.replyWrite m l) ∧ u.cfg t = x ∧
        (∀ v, v ≠ t → u.cfg v = s.cfg v ∧ u.run v = s.run v) ∧ tablesKept s u ∧ u.faults = s.faults ∧
        (u.run t).state = .unknown ∧ (u.run t).timer = none ∧ (u.run t).reset = false ∧ (u.run t).mode = none ∧
        (u.run t).auto = (s.run t).auto ∧ (u.run t).failures = (s.run t).failures ∧ (u.run t).lock = (s.run t).lock ∧
        u.queue.entriesOf t = [] ∧ u.queue.holds.get t = none ∧ u.queue.pendings.get t = none ∧
        (n = 2 → (u.run t).engaged =
          match x.kind with | .compressor => some .charge | .expander => some .generate | .reversible => none))

/-- R90, R106, R107: Limits out of order refuse INCONSISTENT with the first such entry; a configured cavern with
holders or store with reservations may not be unconfigured (IN_USE, after INCONSISTENT where a write meets both: the
model's, log entry 16); fields that only settle limits are stored and nothing else changes; a cavern unconfigured
without holders reads its unconfigured record and keeps its settings (the model's, log entry 45). A write that names
one cavern and sets its field 0 from clear recomputes it and, found BLIND, starts its blind timer; fields 7 and 8
recompute a configured cavern. A store's minimum reserve above its capacity is INCONSISTENT; a write that names one
store and sets its field 0 from clear, or names fields 1 to 4 of a configured store, recomputes it; one unconfigured
without reservations takes the values of an unconfigured store, its layers' staleness timers cancelled. A LAYERS write
that names field 0 or 1 of one layer below the layer count recomputes its store; every LAYERS write keeps trains and
queue and every last temperature and stores coefficient and base. (Writes that name several: taken in index order, log
entry 33.) -/
def Obligations.PlantTableWrites : Prop :=
  ∀ (h : Header) (fs : List Field) (s : State) (m : Manager), s.managerOf h = some m → m.level ≤ 1 → fs.length ≤ 15 →
    (∀ w l, (cavernTable s).judge s.caverns fs = .ok (w, l) →
      let ordered (c : CavernId) : Prop :=
        let k := (w.get c).cfg
        k.hardMin ≤ k.minOp ∧ k.minOp < k.maxOp ∧ k.maxOp ≤ k.hardMax
      (∀ c, leastIndex (fun c => ¬ ordered c) c →
        exec (.writeCaverns h fs) s = .next (s.refuseManage m { cause := .inconsistent, place := some (5, c.val) })) ∧
      ((∀ c, ordered c) → (∃ c, (s.cavern c).cfg.configured = true ∧ (w.get c).cfg.configured = false ∧
          (s.cavern c).run.holders ≠ 0) →
        exec (.writeCaverns h fs) s = .next (s.refuseManage m { cause := .inUse })) ∧
      ((∀ c, ordered c) → (∀ f ∈ fs, f.number ≠ 0 ∧ f.number ≠ 7 ∧ f.number ≠ 8) →
        (∀ c, (w.get c).cfg.configured = (s.cavern c).cfg.configured) →
        exec (.writeCaverns h fs) s = .next (State.replyWrite { s with caverns := w } m l)) ∧
      (∀ c, (∀ c, ordered c) → (s.cavern c).cfg.configured = true → (w.get c).cfg.configured = false →
        (s.cavern c).run.holders = 0 → fs.all (fun f => f.index.toNat == c.val) = true →
        exec (.writeCaverns h fs) s =
          .next (State.replyWrite { s with caverns := upd w c { w.get c with run := {} } } m l)) ∧
      (∀ c, (∀ c, ordered c) → (w.get c).cfg.configured = true → fs.all (fun f => f.index.toNat == c.val) = true →
        let t := State.recomputeCavern { s with caverns := w } c
        ((s.cavern c).cfg.configured = false → exec (.writeCaverns h fs) s = .next (State.replyWrite
          (if (t.cavern c).run.condition = .blind then
            t.modCavern c fun r => { r with blindTimer := .running ((w.get c).cfg.blindLimit * 1000) }
           else t) m l)) ∧
        ((s.cavern c).cfg.configured = true → (∃ f ∈ fs, f.number = 7 ∨ f.number = 8) →
          exec (.writeCaverns h fs) s = .next (t.replyWrite m l)))) ∧
    (∀ w l, storeTable.judge s.stores fs = .ok (w, l) →
      (∀ k, leastIndex (fun k => (w.get k).cfg.capacity < (w.get k).cfg.minReserve) k →
        exec (.writeStores h fs) s = .next (s.refuseManage m { cause := .inconsistent, place := some (7, k.val) })) ∧
      ((∀ k, (w.get k).cfg.minReserve ≤ (w.get k).cfg.capacity) → (∃ k, (s.store k).cfg.configured = true ∧
          (w.get k).cfg.configured = false ∧ ∃ r ∈ s.reservations, r.store = k) →
        exec (.writeStores h fs) s = .next (s.refuseManage m { cause := .inUse })) ∧
      ((∀ k, (w.get k).cfg.minReserve ≤ (w.get k).cfg.capacity) → (∀ f ∈ fs, f.number = 5 ∨ f.number = 6) →
        (∀ k, (w.get k).cfg.configured = (s.store k).cfg.configured) →
        exec (.writeStores h fs) s = .next (State.replyWrite { s with stores := w } m l)) ∧
      (∀ k, (∀ k, (w.get k).cfg.minReserve ≤ (w.get k).cfg.capacity) →
        fs.all (fun f => f.index.toNat == k.val) = true →
        ((w.get k).cfg.configured = true →
          (s.store k).cfg.configured = false ∨ (∃ f ∈ fs, 1 ≤ f.number.toNat ∧ f.number.toNat ≤ 4) →
          exec (.writeStores h fs) s = .next ((State.recomputeStore { s with stores := w } k).replyWrite m l)) ∧
        ((w.get k).cfg.configured = false → (s.store k).cfg.configured = true → (∀ r ∈ s.reservations, r.store ≠ k) →
          exec (.writeStores h fs) s = .next (State.replyWrite
            { s with stores := upd w k { w.get k with run := {} }
                     layers := Vector.ofFn fun i : LayerId =>
                       if i.val / 16 = k.val then { s.layer i with stale := none } else s.layer i } m l)))) ∧
    (∀ w l, (layerTable s).judge s.layers fs = .ok (w, l) →
      ((∀ f ∈ fs, f.number = 2) ∨ (∀ k, (s.store k).cfg.configured = false) →
        exec (.writeLayers h fs) s = .next (State.replyWrite { s with layers := w } m l)) ∧
      (∀ (k : StoreId) (i : LayerId), i.val / 16 = k.val → i.val % 16 < (s.store k).cfg.layerCount →
        fs.all (fun f => f.index.toNat == i.val) = true → (∃ f ∈ fs, f.number = 0 ∨ f.number = 1) →
        exec (.writeLayers h fs) s = .next ((State.recomputeStore { s with layers := w } k).replyWrite m l)) ∧
      ∃ u : State, exec (.writeLayers h fs) s = .next (u.replyWrite m l) ∧ u.trains = s.trains ∧ u.queue = s.queue ∧
        ∀ i, (u.layer i).coefficient = (w.get i).coefficient ∧ (u.layer i).base = (w.get i).base ∧
          (u.layer i).last = (w.get i).last)

/-- R163, R177, R181: An accepted SCAN write from level 0 or 1 stores the table; a point whose entry it writes in
fields 1 to 7, or puts into or out of use, becomes BAD with no value, no time of last success and failures 0, its last
result NONE (the model's, log entry 46); every other point stands; a configured cavern that such an entry named before
or names after is recomputed. A PART write from level 0 that fails is refused and changes nothing; the address of an
in-use station is refused DUPLICATE, before the next condition (the model's, log entry 16); the slot length while
SYNCHRONISED IN_USE; any other is stored after a reply that carries the settings that stood (the model's reading, log
entry 39). -/
def Obligations.ScanAndPartWrites : Prop :=
  ∀ (h : Header) (fs : List Field) (s : State) (m : Manager), s.managerOf h = some m → fs.length ≤ 15 →
    (m.level ≤ 1 →
      (∀ r, scanTable.judge s.scan fs = .error r → exec (.writeScan h fs) s = .next (s.refuseManage m r)) ∧
      (∀ w l, scanTable.judge s.scan fs = .ok (w, l) →
        ((∀ f ∈ fs, f.number = 8) → s.bus.entry = none →
          exec (.writeScan h fs) s = .next (State.replyWrite { s with scan := w } m l)) ∧
        ∃ u : State, exec (.writeScan h fs) s = .next (u.replyWrite m l) ∧ u.scan = w ∧ u.part = s.part ∧
          u.gateOpen = s.gateOpen ∧ u.stations = s.stations ∧ (∀ t, u.cfg t = s.cfg t) ∧
          ∀ i : ScanId,
            let reset : Prop := (s.scan.get i).inUse ≠ (w.get i).inUse ∨
              ∃ f ∈ fs, f.index.toNat = i.val ∧ 1 ≤ f.number.toNat ∧ f.number.toNat ≤ 7
            (reset → u.points.get i = { value := none, quality := .bad, age := none, failures := 0, last := .none }) ∧
            (¬ reset → u.points.get i = s.points.get i) ∧
            ∀ c : CavernId, reset → (s.cavern c).cfg.configured = true →
              ((s.scan.get i).cavern.map (·.1) = some c ∨ (w.get i).cavern.map (·.1) = some c) →
              (u.cavern c).run.usableA = (u.usablePressure c .a).isSome ∧
              (u.cavern c).run.usableB = (u.usablePressure c .b).isSome)) ∧
    (m.level = 0 →
      (∀ r, partTable.judge (Vector.replicate 1 s.part) fs = .error r →
        exec (.writePart h fs) s = .next (s.refuseManage m r)) ∧
      (∀ w l, partTable.judge (Vector.replicate 1 s.part) fs = .ok (w, l) →
        let named (k : Nat) : Prop := ∃ f ∈ fs, f.number.toNat = k
        let held : Prop := ∃ i, (s.station i).inUse = true ∧ (s.station i).address = (w.get 0).address
        (named 0 → held → exec (.writePart h fs) s = .next (s.refuseManage m { cause := .duplicate })) ∧
        (named 9 → ¬ (named 0 ∧ held) → s.engine.active.isSome = true →
          exec (.writePart h fs) s = .next (s.refuseManage m { cause := .inUse })) ∧
        (¬ (named 0 ∧ held) → ¬ (named 9 ∧ s.engine.active.isSome = true) →
          exec (.writePart h fs) s = .next { s.replyWrite m l with part := w.get 0 })))

/-- R182: From a manager of level 0 or 1: OPEN_GATE while OPEN is answered DONE and changes nothing; while CLOSED the
first failing check in the order of R182 refuses INCONSISTENT with its table and first failing entry; where all pass
the gate is OPEN, the reply is DONE and nothing else changes. -/
def Obligations.OpenGateChecksInOrder : Prop :=
  ∀ (h : Header) (s : State) (m : Manager), s.managerOf h = some m → m.level ≤ 1 →
    let here := exec (.openGate h) s
    let refuse (table index : Nat) : Host.Outcome State Fault Refusal :=
      .next (s.refuseManage m { cause := .inconsistent, place := some (table, index) })
    let duty (u : DutyId) : Prop := (s.duties.get u).mapped = true → (s.cfg (s.duties.get u).train).configured = true
    let controller (t : TrainId) : Prop := (s.cfg t).configured = true →
      (s.controller t).inUse = true ∧ (s.controller t).port = .d ∧ (s.controller t).role = .train
    let plant (t : TrainId) : Prop := (s.cfg t).configured = true →
      (s.cavern (s.cfg t).cavern).cfg.configured = true ∧ (s.store (s.cfg t).store).cfg.configured = true
    let band (j : Fin 16) : Prop := ∀ i : Fin 16, j.val = i.val + 1 → j.val ≠ 8 →
      (s.bands.get i).bound ≤ (s.bands.get j).bound
    let entry (i : ScanId) : Prop := (s.scan.get i).inUse = true →
      (s.scan.get i).destKind = .none ∨
      (((s.scan.get i).destKind = .cavernA ∨ (s.scan.get i).destKind = .cavernB) ∧ (s.scan.get i).destIndex ≤ 1) ∨
      ((s.scan.get i).destKind = .layer ∧ (s.scan.get i).destIndex ≤ 63)
    (s.gateOpen = true → here = .next (s.replyWith m .done [])) ∧
    (s.gateOpen = false →
      (∀ u, leastIndex (fun u => ¬ duty u) u → here = refuse 3 u.val) ∧
      ((∀ u, duty u) →
        (∀ t, leastIndex (fun t => ¬ controller t) t → here = refuse 4 t.val) ∧
        ((∀ t, controller t) →
          (∀ t, leastIndex (fun t => ¬ plant t) t → here = refuse 4 t.val) ∧
          ((∀ t, plant t) →
            (∀ j, leastIndex (fun j => ¬ band j) j → here = refuse 6 j.val) ∧
            ((∀ j, band j) →
              (∀ i, leastIndex (fun i => ¬ entry i) i → here = refuse 9 i.val) ∧
              ((∀ i, entry i) → here = .next (State.replyWith { s with gateOpen := true } m .done [])))))))

/-- R183, R155, R84, R38: From a manager of level 0 or 1, CLOSE_GATE leaves the gate CLOSED, no activation and no
share, no quantity or pending dispatch waiting, no held poll, no valid cache entry; train records, caverns,
reservations, faults, engine, LRU indicators and tables stand; the reply is DONE. Premise for the queue: holds hold
commands (part of StepKeepsClosedGateQuiet). -/
def Obligations.CloseGateFlushes : Prop :=
  ∀ (h : Header) (s : State) (m : Manager), s.managerOf h = some m → m.level ≤ 1 →
    ∃ u : State, exec (.closeGate h) s = .next (u.replyWith m .done []) ∧
      u.gateOpen = false ∧ u.act.active = false ∧ u.act.hold = none ∧ u.act.requested = 0 ∧ u.act.limited = 0 ∧
      u.act.applied = 0 ∧
      (∀ t, (u.shares.get t).share = 0 ∧ (u.shares.get t).carrier = false ∧ (u.shares.get t).unfinished = false) ∧
      (s.queue.holdsCommands → u.queue.quiet) ∧ u.queue.polls = [] ∧ (∀ i, (u.cache.get i).valid = false) ∧
      u.trains = s.trains ∧ u.caverns = s.caverns ∧ u.reservations = s.reservations ∧ u.faults = s.faults ∧
      u.engine = s.engine ∧ u.lru = s.lru ∧ tablesKept { s with gateOpen := false } u

/-- R184, R48, R70, R89, R108, R125, R146, R156, R170: From a manager of level 0, RESTART leaves the gate CLOSED, the
queue, reservations, activation, history and fault ring empty, the engine UNSYNCHRONISED, the timers of start-up
running, cache, points, shares and notice counts cleared, trains UNKNOWN, stations UNENROLLED, the blind timers of
configured caverns running, an ACTIVE slot FIRM with its commitments; tables, settings, masks, routes and other slot
records stand; the reply is DONE. The model's choices (log entry 41): waiting stop requests go, frames waiting to
leave stay. -/
def Obligations.RestartTakesWarmValues : Prop :=
  ∀ (h : Header) (s : State) (m : Manager), s.managerOf h = some m → m.level = 0 →
    ∃ u : State, exec (.restart h) s = .next (u.replyWith m .done []) ∧
      u.gateOpen = false ∧ u.queue = {} ∧ u.reservations = [] ∧ u.act = {} ∧ u.history = [] ∧ u.faults = {} ∧
      u.stopRequests = [] ∧ u.engine = {} ∧ u.bus = { interval := some s.part.scanInterval } ∧
      u.roll = { period := some (s.part.rollPeriod * 1000) } ∧ u.link.u.counter = 0 ∧ u.link.d.counter = 0 ∧
      u.link.u.tx = s.link.u.tx ∧ u.link.d.tx = s.link.d.tx ∧
      (∀ i, (u.cache.get i).valid = false) ∧ (∀ i, u.points.get i = {}) ∧ (∀ t, u.shares.get t = {}) ∧
      (∀ k, u.tiers.get k = { mask := (s.tiers.get k).mask }) ∧
      (∀ t, u.cfg t = s.cfg t ∧
        u.run t = { engaged := (match (s.cfg t).kind with
                      | .compressor => some .charge
                      | .expander => some .generate
                      | .reversible => none), tripLine := s.ptrip }) ∧
      (∀ i, u.station i = { s.station i with enrolment := .unenrolled, misses := 0 }) ∧
      (∀ c, (u.cavern c).cfg = (s.cavern c).cfg ∧
        (u.cavern c).run = { blindTimer := if (s.cavern c).cfg.configured then .running ((s.cavern c).cfg.blindLimit * 1000)
                                           else .idle }) ∧
      (∀ k, (u.store k).cfg = (s.store k).cfg ∧
        (u.store k).run = { headroom := if (s.store k).cfg.configured then (s.store k).cfg.capacity else 0 }) ∧
      (∀ l, u.layer l = { coefficient := (s.layer l).coefficient, base := (s.layer l).base }) ∧
      (∀ p, ((s.slots.get p).state = .active → (u.slots.get p).state = .firm ∧
          (u.slots.get p).number = (s.slots.get p).number ∧ (u.slots.get p).commits = (s.slots.get p).commits ∧
          (u.slots.get p).gatePassed = (s.slots.get p).gatePassed) ∧
        ((s.slots.get p).state ≠ .active → u.slots.get p = s.slots.get p)) ∧
      u.part = s.part ∧ u.permissions = s.permissions ∧ u.positions = s.positions ∧ u.duties = s.duties ∧
      u.bands = s.bands ∧ u.scan = s.scan ∧ u.routes = s.routes ∧ u.ptrip = s.ptrip ∧ u.pending = s.pending

/-! ### Invariants -/

/-- R1, R70, R85, R128, R144, R170: For every state whose transmit queues, drive queue, poll hold list, fault ring,
overwrite count, reservation list, settlement history and commitment lists are within their places, each step that
answers next leaves them so. -/
def Obligations.StepKeepsBounds : Prop :=
  ∀ s t : State, s.bounded = true → step s = .next t → t.bounded = true

/-- R171, R176, R124, R181: A step keeps: the fixed routes reading as section 10.3 fixes them with no cause of fixed
route SAFETY masked on SAFETY; and, apart from it, every numeric setting of PART within the range of its listing. -/
def Obligations.StepKeepsFixedAndRangedSettings : Prop :=
  (∀ s t : State, s.hardwired = true → step s = .next t → t.hardwired = true) ∧
  (∀ s t : State, s.part.inRange → step s = .next t → t.part.inRange)

/-- R103, R104: For every state in which each cavern's direction is IDLE exactly while its holder set is empty, each
step that answers next leaves it so. -/
def Obligations.StepKeepsDirectionsHeld : Prop :=
  ∀ s t : State, s.directed = true → step s = .next t → t.directed = true

/-- R75, R84: For every state in which each command hold holds a command of its own train and, while the gate is
CLOSED, no quantity entry and no pending dispatch exists, each step that answers next leaves it so. -/
def Obligations.StepKeepsClosedGateQuiet : Prop :=
  ∀ s t : State, s.gateQuiet → step s = .next t → t.gateQuiet

/-- R36: For every state in which no two valid cache entries have one key and each stands in the set of its key, each
step that answers next leaves it so. -/
def Obligations.StepKeepsCacheKeysUnique : Prop :=
  ∀ s t : State, cacheUnique s.cache → step s = .next t → cacheUnique t.cache

/-- R185: The state after reset has the bounds, the fixed routes and unmasked SAFETY causes, the directions held, the
quiet closed gate, the unique cache keys and the settings in range. -/
def Obligations.ResetHasTheInvariants : Prop :=
  State.reset.bounded = true ∧ State.reset.hardwired = true ∧ State.reset.directed = true ∧ State.reset.gateQuiet ∧
    cacheUnique State.reset.cache ∧ State.reset.part.inRange
end

