-- ==== Sys2Proof/Laws/State.lean ====
section
/-! SUPPORT. One lemma per field per update of the state: what each named update of Machine/Ops.lean leaves and what it
writes. -/

namespace Sys2Proof.Machine

variable (s : State)

/-! ### Tables read after a write -/

@[simp] theorem upd_get_same {α : Type} {n : Nat} (v : Vector α n) (i : Fin n) (x : α) : (upd v i x).get i = x := by
  show (v.set i.val x i.isLt)[i.val] = x
  simp

theorem upd_get_ne {α : Type} {n : Nat} (v : Vector α n) (i j : Fin n) (x : α) (h : j ≠ i) :
    (upd v i x).get j = v.get j := by
  show (v.set i.val x i.isLt)[j.val] = v[j.val]
  rw [Vector.getElem_set_ne]
  intro e
  exact h (Fin.ext e.symm)

theorem upd_get {α : Type} {n : Nat} (v : Vector α n) (i j : Fin n) (x : α) :
    (upd v i x).get j = if j = i then x else v.get j := by
  split
  · next h => subst h; simp
  · next h => exact upd_get_ne v i j x h

@[simp] theorem modAt_get_same {α : Type} {n : Nat} (v : Vector α n) (i : Fin n) (f : α → α) :
    (modAt v i f).get i = f (v.get i) := by
  simp [modAt]

theorem modAt_get {α : Type} {n : Nat} (v : Vector α n) (i j : Fin n) (f : α → α) :
    (modAt v i f).get j = if j = i then f (v.get i) else v.get j := upd_get v i j _

@[simp] theorem tabMap_get {α β : Type} {n : Nat} (f : α → β) (v : Vector α n) (i : Fin n) :
    (tabMap f v).get i = f (v.get i) := by
  show (tabMap f v)[i.val] = f v[i.val]
  simp [tabMap, Vector.getElem_mk]

/-! ### Fields left and written -/

@[simp] theorem State.setTrain_pending (t : TrainId) (x : Train) : (s.setTrain t x).pending = s.pending := rfl
@[simp] theorem State.setTrain_stopRequests (t : TrainId) (x : Train) : (s.setTrain t x).stopRequests = s.stopRequests := rfl
@[simp] theorem State.setTrain_link (t : TrainId) (x : Train) : (s.setTrain t x).link = s.link := rfl
@[simp] theorem State.setTrain_part (t : TrainId) (x : Train) : (s.setTrain t x).part = s.part := rfl
@[simp] theorem State.setTrain_gateOpen (t : TrainId) (x : Train) : (s.setTrain t x).gateOpen = s.gateOpen := rfl
@[simp] theorem State.setTrain_ptrip (t : TrainId) (x : Train) : (s.setTrain t x).ptrip = s.ptrip := rfl
@[simp] theorem State.setTrain_stations (t : TrainId) (x : Train) : (s.setTrain t x).stations = s.stations := rfl
@[simp] theorem State.setTrain_roll (t : TrainId) (x : Train) : (s.setTrain t x).roll = s.roll := rfl
@[simp] theorem State.setTrain_permissions (t : TrainId) (x : Train) : (s.setTrain t x).permissions = s.permissions := rfl
@[simp] theorem State.setTrain_positions (t : TrainId) (x : Train) : (s.setTrain t x).positions = s.positions := rfl
@[simp] theorem State.setTrain_duties (t : TrainId) (x : Train) : (s.setTrain t x).duties = s.duties := rfl
@[simp] theorem State.setTrain_cache (t : TrainId) (x : Train) : (s.setTrain t x).cache = s.cache := rfl
@[simp] theorem State.setTrain_lru (t : TrainId) (x : Train) : (s.setTrain t x).lru = s.lru := rfl
@[simp] theorem State.setTrain_trains (t : TrainId) (x : Train) : (s.setTrain t x).trains = upd s.trains t x := rfl
@[simp] theorem State.setTrain_queue (t : TrainId) (x : Train) : (s.setTrain t x).queue = s.queue := rfl
@[simp] theorem State.setTrain_caverns (t : TrainId) (x : Train) : (s.setTrain t x).caverns = s.caverns := rfl
@[simp] theorem State.setTrain_bands (t : TrainId) (x : Train) : (s.setTrain t x).bands = s.bands := rfl
@[simp] theorem State.setTrain_stores (t : TrainId) (x : Train) : (s.setTrain t x).stores = s.stores := rfl
@[simp] theorem State.setTrain_layers (t : TrainId) (x : Train) : (s.setTrain t x).layers = s.layers := rfl
@[simp] theorem State.setTrain_reservations (t : TrainId) (x : Train) : (s.setTrain t x).reservations = s.reservations := rfl
@[simp] theorem State.setTrain_engine (t : TrainId) (x : Train) : (s.setTrain t x).engine = s.engine := rfl
@[simp] theorem State.setTrain_slots (t : TrainId) (x : Train) : (s.setTrain t x).slots = s.slots := rfl
@[simp] theorem State.setTrain_history (t : TrainId) (x : Train) : (s.setTrain t x).history = s.history := rfl
@[simp] theorem State.setTrain_act (t : TrainId) (x : Train) : (s.setTrain t x).act = s.act := rfl
@[simp] theorem State.setTrain_shares (t : TrainId) (x : Train) : (s.setTrain t x).shares = s.shares := rfl
@[simp] theorem State.setTrain_scan (t : TrainId) (x : Train) : (s.setTrain t x).scan = s.scan := rfl
@[simp] theorem State.setTrain_points (t : TrainId) (x : Train) : (s.setTrain t x).points = s.points := rfl
@[simp] theorem State.setTrain_bus (t : TrainId) (x : Train) : (s.setTrain t x).bus = s.bus := rfl
@[simp] theorem State.setTrain_routes (t : TrainId) (x : Train) : (s.setTrain t x).routes = s.routes := rfl
@[simp] theorem State.setTrain_faults (t : TrainId) (x : Train) : (s.setTrain t x).faults = s.faults := rfl
@[simp] theorem State.setTrain_tiers (t : TrainId) (x : Train) : (s.setTrain t x).tiers = s.tiers := rfl
@[simp] theorem State.setTrain_free (t : TrainId) (x : Train) : (s.setTrain t x).free = s.free := rfl

@[simp] theorem State.modRun_pending (t : TrainId) (f : TrainRun → TrainRun) : (s.modRun t f).pending = s.pending := rfl
@[simp] theorem State.modRun_stopRequests (t : TrainId) (f : TrainRun → TrainRun) : (s.modRun t f).stopRequests = s.stopRequests := rfl
@[simp] theorem State.modRun_link (t : TrainId) (f : TrainRun → TrainRun) : (s.modRun t f).link = s.link := rfl
@[simp] theorem State.modRun_part (t : TrainId) (f : TrainRun → TrainRun) : (s.modRun t f).part = s.part := rfl
@[simp] theorem State.modRun_gateOpen (t : TrainId) (f : TrainRun → TrainRun) : (s.modRun t f).gateOpen = s.gateOpen := rfl
@[simp] theorem State.modRun_ptrip (t : TrainId) (f : TrainRun → TrainRun) : (s.modRun t f).ptrip = s.ptrip := rfl
@[simp] theorem State.modRun_stations (t : TrainId) (f : TrainRun → TrainRun) : (s.modRun t f).stations = s.stations := rfl
@[simp] theorem State.modRun_roll (t : TrainId) (f : TrainRun → TrainRun) : (s.modRun t f).roll = s.roll := rfl
@[simp] theorem State.modRun_permissions (t : TrainId) (f : TrainRun → TrainRun) : (s.modRun t f).permissions = s.permissions := rfl
@[simp] theorem State.modRun_positions (t : TrainId) (f : TrainRun → TrainRun) : (s.modRun t f).positions = s.positions := rfl
@[simp] theorem State.modRun_duties (t : TrainId) (f : TrainRun → TrainRun) : (s.modRun t f).duties = s.duties := rfl
@[simp] theorem State.modRun_cache (t : TrainId) (f : TrainRun → TrainRun) : (s.modRun t f).cache = s.cache := rfl
@[simp] theorem State.modRun_lru (t : TrainId) (f : TrainRun → TrainRun) : (s.modRun t f).lru = s.lru := rfl
@[simp] theorem State.modRun_queue (t : TrainId) (f : TrainRun → TrainRun) : (s.modRun t f).queue = s.queue := rfl
@[simp] theorem State.modRun_caverns (t : TrainId) (f : TrainRun → TrainRun) : (s.modRun t f).caverns = s.caverns := rfl
@[simp] theorem State.modRun_bands (t : TrainId) (f : TrainRun → TrainRun) : (s.modRun t f).bands = s.bands := rfl
@[simp] theorem State.modRun_stores (t : TrainId) (f : TrainRun → TrainRun) : (s.modRun t f).stores = s.stores := rfl
@[simp] theorem State.modRun_layers (t : TrainId) (f : TrainRun → TrainRun) : (s.modRun t f).layers = s.layers := rfl
@[simp] theorem State.modRun_reservations (t : TrainId) (f : TrainRun → TrainRun) : (s.modRun t f).reservations = s.reservations := rfl
@[simp] theorem State.modRun_engine (t : TrainId) (f : TrainRun → TrainRun) : (s.modRun t f).engine = s.engine := rfl
@[simp] theorem State.modRun_slots (t : TrainId) (f : TrainRun → TrainRun) : (s.modRun t f).slots = s.slots := rfl
@[simp] theorem State.modRun_history (t : TrainId) (f : TrainRun → TrainRun) : (s.modRun t f).history = s.history := rfl
@[simp] theorem State.modRun_act (t : TrainId) (f : TrainRun → TrainRun) : (s.modRun t f).act = s.act := rfl
@[simp] theorem State.modRun_shares (t : TrainId) (f : TrainRun → TrainRun) : (s.modRun t f).shares = s.shares := rfl
@[simp] theorem State.modRun_scan (t : TrainId) (f : TrainRun → TrainRun) : (s.modRun t f).scan = s.scan := rfl
@[simp] theorem State.modRun_points (t : TrainId) (f : TrainRun → TrainRun) : (s.modRun t f).points = s.points := rfl
@[simp] theorem State.modRun_bus (t : TrainId) (f : TrainRun → TrainRun) : (s.modRun t f).bus = s.bus := rfl
@[simp] theorem State.modRun_routes (t : TrainId) (f : TrainRun → TrainRun) : (s.modRun t f).routes = s.routes := rfl
@[simp] theorem State.modRun_faults (t : TrainId) (f : TrainRun → TrainRun) : (s.modRun t f).faults = s.faults := rfl
@[simp] theorem State.modRun_tiers (t : TrainId) (f : TrainRun → TrainRun) : (s.modRun t f).tiers = s.tiers := rfl
@[simp] theorem State.modRun_free (t : TrainId) (f : TrainRun → TrainRun) : (s.modRun t f).free = s.free := rfl

@[simp] theorem State.modStation_pending (i : StationId) (f : Station → Station) : (s.modStation i f).pending = s.pending := rfl
@[simp] theorem State.modStation_stopRequests (i : StationId) (f : Station → Station) : (s.modStation i f).stopRequests = s.stopRequests := rfl
@[simp] theorem State.modStation_link (i : StationId) (f : Station → Station) : (s.modStation i f).link = s.link := rfl
@[simp] theorem State.modStation_part (i : StationId) (f : Station → Station) : (s.modStation i f).part = s.part := rfl
@[simp] theorem State.modStation_gateOpen (i : StationId) (f : Station → Station) : (s.modStation i f).gateOpen = s.gateOpen := rfl
@[simp] theorem State.modStation_ptrip (i : StationId) (f : Station → Station) : (s.modStation i f).ptrip = s.ptrip := rfl
@[simp] theorem State.modStation_stations (i : StationId) (f : Station → Station) : (s.modStation i f).stations = modAt s.stations i f := rfl
@[simp] theorem State.modStation_roll (i : StationId) (f : Station → Station) : (s.modStation i f).roll = s.roll := rfl
@[simp] theorem State.modStation_permissions (i : StationId) (f : Station → Station) : (s.modStation i f).permissions = s.permissions := rfl
@[simp] theorem State.modStation_positions (i : StationId) (f : Station → Station) : (s.modStation i f).positions = s.positions := rfl
@[simp] theorem State.modStation_duties (i : StationId) (f : Station → Station) : (s.modStation i f).duties = s.duties := rfl
@[simp] theorem State.modStation_cache (i : StationId) (f : Station → Station) : (s.modStation i f).cache = s.cache := rfl
@[simp] theorem State.modStation_lru (i : StationId) (f : Station → Station) : (s.modStation i f).lru = s.lru := rfl
@[simp] theorem State.modStation_trains (i : StationId) (f : Station → Station) : (s.modStation i f).trains = s.trains := rfl
@[simp] theorem State.modStation_queue (i : StationId) (f : Station → Station) : (s.modStation i f).queue = s.queue := rfl
@[simp] theorem State.modStation_caverns (i : StationId) (f : Station → Station) : (s.modStation i f).caverns = s.caverns := rfl
@[simp] theorem State.modStation_bands (i : StationId) (f : Station → Station) : (s.modStation i f).bands = s.bands := rfl
@[simp] theorem State.modStation_stores (i : StationId) (f : Station → Station) : (s.modStation i f).stores = s.stores := rfl
@[simp] theorem State.modStation_layers (i : StationId) (f : Station → Station) : (s.modStation i f).layers = s.layers := rfl
@[simp] theorem State.modStation_reservations (i : StationId) (f : Station → Station) : (s.modStation i f).reservations = s.reservations := rfl
@[simp] theorem State.modStation_engine (i : StationId) (f : Station → Station) : (s.modStation i f).engine = s.engine := rfl
@[simp] theorem State.modStation_slots (i : StationId) (f : Station → Station) : (s.modStation i f).slots = s.slots := rfl
@[simp] theorem State.modStation_history (i : StationId) (f : Station → Station) : (s.modStation i f).history = s.history := rfl
@[simp] theorem State.modStation_act (i : StationId) (f : Station → Station) : (s.modStation i f).act = s.act := rfl
@[simp] theorem State.modStation_shares (i : StationId) (f : Station → Station) : (s.modStation i f).shares = s.shares := rfl
@[simp] theorem State.modStation_scan (i : StationId) (f : Station → Station) : (s.modStation i f).scan = s.scan := rfl
@[simp] theorem State.modStation_points (i : StationId) (f : Station → Station) : (s.modStation i f).points = s.points := rfl
@[simp] theorem State.modStation_bus (i : StationId) (f : Station → Station) : (s.modStation i f).bus = s.bus := rfl
@[simp] theorem State.modStation_routes (i : StationId) (f : Station → Station) : (s.modStation i f).routes = s.routes := rfl
@[simp] theorem State.modStation_faults (i : StationId) (f : Station → Station) : (s.modStation i f).faults = s.faults := rfl
@[simp] theorem State.modStation_tiers (i : StationId) (f : Station → Station) : (s.modStation i f).tiers = s.tiers := rfl
@[simp] theorem State.modStation_free (i : StationId) (f : Station → Station) : (s.modStation i f).free = s.free := rfl

@[simp] theorem State.modCavern_pending (c : CavernId) (f : CavernRun → CavernRun) : (s.modCavern c f).pending = s.pending := rfl
@[simp] theorem State.modCavern_stopRequests (c : CavernId) (f : CavernRun → CavernRun) : (s.modCavern c f).stopRequests = s.stopRequests := rfl
@[simp] theorem State.modCavern_link (c : CavernId) (f : CavernRun → CavernRun) : (s.modCavern c f).link = s.link := rfl
@[simp] theorem State.modCavern_part (c : CavernId) (f : CavernRun → CavernRun) : (s.modCavern c f).part = s.part := rfl
@[simp] theorem State.modCavern_gateOpen (c : CavernId) (f : CavernRun → CavernRun) : (s.modCavern c f).gateOpen = s.gateOpen := rfl
@[simp] theorem State.modCavern_ptrip (c : CavernId) (f : CavernRun → CavernRun) : (s.modCavern c f).ptrip = s.ptrip := rfl
@[simp] theorem State.modCavern_stations (c : CavernId) (f : CavernRun → CavernRun) : (s.modCavern c f).stations = s.stations := rfl
@[simp] theorem State.modCavern_roll (c : CavernId) (f : CavernRun → CavernRun) : (s.modCavern c f).roll = s.roll := rfl
@[simp] theorem State.modCavern_permissions (c : CavernId) (f : CavernRun → CavernRun) : (s.modCavern c f).permissions = s.permissions := rfl
@[simp] theorem State.modCavern_positions (c : CavernId) (f : CavernRun → CavernRun) : (s.modCavern c f).positions = s.positions := rfl
@[simp] theorem State.modCavern_duties (c : CavernId) (f : CavernRun → CavernRun) : (s.modCavern c f).duties = s.duties := rfl
@[simp] theorem State.modCavern_cache (c : CavernId) (f : CavernRun → CavernRun) : (s.modCavern c f).cache = s.cache := rfl
@[simp] theorem State.modCavern_lru (c : CavernId) (f : CavernRun → CavernRun) : (s.modCavern c f).lru = s.lru := rfl
@[simp] theorem State.modCavern_trains (c : CavernId) (f : CavernRun → CavernRun) : (s.modCavern c f).trains = s.trains := rfl
@[simp] theorem State.modCavern_queue (c : CavernId) (f : CavernRun → CavernRun) : (s.modCavern c f).queue = s.queue := rfl
@[simp] theorem State.modCavern_bands (c : CavernId) (f : CavernRun → CavernRun) : (s.modCavern c f).bands = s.bands := rfl
@[simp] theorem State.modCavern_stores (c : CavernId) (f : CavernRun → CavernRun) : (s.modCavern c f).stores = s.stores := rfl
@[simp] theorem State.modCavern_layers (c : CavernId) (f : CavernRun → CavernRun) : (s.modCavern c f).layers = s.layers := rfl
@[simp] theorem State.modCavern_reservations (c : CavernId) (f : CavernRun → CavernRun) : (s.modCavern c f).reservations = s.reservations := rfl
@[simp] theorem State.modCavern_engine (c : CavernId) (f : CavernRun → CavernRun) : (s.modCavern c f).engine = s.engine := rfl
@[simp] theorem State.modCavern_slots (c : CavernId) (f : CavernRun → CavernRun) : (s.modCavern c f).slots = s.slots := rfl
@[simp] theorem State.modCavern_history (c : CavernId) (f : CavernRun → CavernRun) : (s.modCavern c f).history = s.history := rfl
@[simp] theorem State.modCavern_act (c : CavernId) (f : CavernRun → CavernRun) : (s.modCavern c f).act = s.act := rfl
@[simp] theorem State.modCavern_shares (c : CavernId) (f : CavernRun → CavernRun) : (s.modCavern c f).shares = s.shares := rfl
@[simp] theorem State.modCavern_scan (c : CavernId) (f : CavernRun → CavernRun) : (s.modCavern c f).scan = s.scan := rfl
@[simp] theorem State.modCavern_points (c : CavernId) (f : CavernRun → CavernRun) : (s.modCavern c f).points = s.points := rfl
@[simp] theorem State.modCavern_bus (c : CavernId) (f : CavernRun → CavernRun) : (s.modCavern c f).bus = s.bus := rfl
@[simp] theorem State.modCavern_routes (c : CavernId) (f : CavernRun → CavernRun) : (s.modCavern c f).routes = s.routes := rfl
@[simp] theorem State.modCavern_faults (c : CavernId) (f : CavernRun → CavernRun) : (s.modCavern c f).faults = s.faults := rfl
@[simp] theorem State.modCavern_tiers (c : CavernId) (f : CavernRun → CavernRun) : (s.modCavern c f).tiers = s.tiers := rfl
@[simp] theorem State.modCavern_free (c : CavernId) (f : CavernRun → CavernRun) : (s.modCavern c f).free = s.free := rfl

@[simp] theorem State.setStoreRun_pending (h : StoreId) (r : StoreRun) : (s.setStoreRun h r).pending = s.pending := rfl
@[simp] theorem State.setStoreRun_stopRequests (h : StoreId) (r : StoreRun) : (s.setStoreRun h r).stopRequests = s.stopRequests := rfl
@[simp] theorem State.setStoreRun_link (h : StoreId) (r : StoreRun) : (s.setStoreRun h r).link = s.link := rfl
@[simp] theorem State.setStoreRun_part (h : StoreId) (r : StoreRun) : (s.setStoreRun h r).part = s.part := rfl
@[simp] theorem State.setStoreRun_gateOpen (h : StoreId) (r : StoreRun) : (s.setStoreRun h r).gateOpen = s.gateOpen := rfl
@[simp] theorem State.setStoreRun_ptrip (h : StoreId) (r : StoreRun) : (s.setStoreRun h r).ptrip = s.ptrip := rfl
@[simp] theorem State.setStoreRun_stations (h : StoreId) (r : StoreRun) : (s.setStoreRun h r).stations = s.stations := rfl
@[simp] theorem State.setStoreRun_roll (h : StoreId) (r : StoreRun) : (s.setStoreRun h r).roll = s.roll := rfl
@[simp] theorem State.setStoreRun_permissions (h : StoreId) (r : StoreRun) : (s.setStoreRun h r).permissions = s.permissions := rfl
@[simp] theorem State.setStoreRun_positions (h : StoreId) (r : StoreRun) : (s.setStoreRun h r).positions = s.positions := rfl
@[simp] theorem State.setStoreRun_duties (h : StoreId) (r : StoreRun) : (s.setStoreRun h r).duties = s.duties := rfl
@[simp] theorem State.setStoreRun_cache (h : StoreId) (r : StoreRun) : (s.setStoreRun h r).cache = s.cache := rfl
@[simp] theorem State.setStoreRun_lru (h : StoreId) (r : StoreRun) : (s.setStoreRun h r).lru = s.lru := rfl
@[simp] theorem State.setStoreRun_trains (h : StoreId) (r : StoreRun) : (s.setStoreRun h r).trains = s.trains := rfl
@[simp] theorem State.setStoreRun_queue (h : StoreId) (r : StoreRun) : (s.setStoreRun h r).queue = s.queue := rfl
@[simp] theorem State.setStoreRun_caverns (h : StoreId) (r : StoreRun) : (s.setStoreRun h r).caverns = s.caverns := rfl
@[simp] theorem State.setStoreRun_bands (h : StoreId) (r : StoreRun) : (s.setStoreRun h r).bands = s.bands := rfl
@[simp] theorem State.setStoreRun_layers (h : StoreId) (r : StoreRun) : (s.setStoreRun h r).layers = s.layers := rfl
@[simp] theorem State.setStoreRun_reservations (h : StoreId) (r : StoreRun) : (s.setStoreRun h r).reservations = s.reservations := rfl
@[simp] theorem State.setStoreRun_engine (h : StoreId) (r : StoreRun) : (s.setStoreRun h r).engine = s.engine := rfl
@[simp] theorem State.setStoreRun_slots (h : StoreId) (r : StoreRun) : (s.setStoreRun h r).slots = s.slots := rfl
@[simp] theorem State.setStoreRun_history (h : StoreId) (r : StoreRun) : (s.setStoreRun h r).history = s.history := rfl
@[simp] theorem State.setStoreRun_act (h : StoreId) (r : StoreRun) : (s.setStoreRun h r).act = s.act := rfl
@[simp] theorem State.setStoreRun_shares (h : StoreId) (r : StoreRun) : (s.setStoreRun h r).shares = s.shares := rfl
@[simp] theorem State.setStoreRun_scan (h : StoreId) (r : StoreRun) : (s.setStoreRun h r).scan = s.scan := rfl
@[simp] theorem State.setStoreRun_points (h : StoreId) (r : StoreRun) : (s.setStoreRun h r).points = s.points := rfl
@[simp] theorem State.setStoreRun_bus (h : StoreId) (r : StoreRun) : (s.setStoreRun h r).bus = s.bus := rfl
@[simp] theorem State.setStoreRun_routes (h : StoreId) (r : StoreRun) : (s.setStoreRun h r).routes = s.routes := rfl
@[simp] theorem State.setStoreRun_faults (h : StoreId) (r : StoreRun) : (s.setStoreRun h r).faults = s.faults := rfl
@[simp] theorem State.setStoreRun_tiers (h : StoreId) (r : StoreRun) : (s.setStoreRun h r).tiers = s.tiers := rfl
@[simp] theorem State.setStoreRun_free (h : StoreId) (r : StoreRun) : (s.setStoreRun h r).free = s.free := rfl

@[simp] theorem State.modLayer_pending (l : LayerId) (f : Layer → Layer) : (s.modLayer l f).pending = s.pending := rfl
@[simp] theorem State.modLayer_stopRequests (l : LayerId) (f : Layer → Layer) : (s.modLayer l f).stopRequests = s.stopRequests := rfl
@[simp] theorem State.modLayer_link (l : LayerId) (f : Layer → Layer) : (s.modLayer l f).link = s.link := rfl
@[simp] theorem State.modLayer_part (l : LayerId) (f : Layer → Layer) : (s.modLayer l f).part = s.part := rfl
@[simp] theorem State.modLayer_gateOpen (l : LayerId) (f : Layer → Layer) : (s.modLayer l f).gateOpen = s.gateOpen := rfl
@[simp] theorem State.modLayer_ptrip (l : LayerId) (f : Layer → Layer) : (s.modLayer l f).ptrip = s.ptrip := rfl
@[simp] theorem State.modLayer_stations (l : LayerId) (f : Layer → Layer) : (s.modLayer l f).stations = s.stations := rfl
@[simp] theorem State.modLayer_roll (l : LayerId) (f : Layer → Layer) : (s.modLayer l f).roll = s.roll := rfl
@[simp] theorem State.modLayer_permissions (l : LayerId) (f : Layer → Layer) : (s.modLayer l f).permissions = s.permissions := rfl
@[simp] theorem State.modLayer_positions (l : LayerId) (f : Layer → Layer) : (s.modLayer l f).positions = s.positions := rfl
@[simp] theorem State.modLayer_duties (l : LayerId) (f : Layer → Layer) : (s.modLayer l f).duties = s.duties := rfl
@[simp] theorem State.modLayer_cache (l : LayerId) (f : Layer → Layer) : (s.modLayer l f).cache = s.cache := rfl
@[simp] theorem State.modLayer_lru (l : LayerId) (f : Layer → Layer) : (s.modLayer l f).lru = s.lru := rfl
@[simp] theorem State.modLayer_trains (l : LayerId) (f : Layer → Layer) : (s.modLayer l f).trains = s.trains := rfl
@[simp] theorem State.modLayer_queue (l : LayerId) (f : Layer → Layer) : (s.modLayer l f).queue = s.queue := rfl
@[simp] theorem State.modLayer_caverns (l : LayerId) (f : Layer → Layer) : (s.modLayer l f).caverns = s.caverns := rfl
@[simp] theorem State.modLayer_bands (l : LayerId) (f : Layer → Layer) : (s.modLayer l f).bands = s.bands := rfl
@[simp] theorem State.modLayer_stores (l : LayerId) (f : Layer → Layer) : (s.modLayer l f).stores = s.stores := rfl
@[simp] theorem State.modLayer_layers (l : LayerId) (f : Layer → Layer) : (s.modLayer l f).layers = modAt s.layers l f := rfl
@[simp] theorem State.modLayer_reservations (l : LayerId) (f : Layer → Layer) : (s.modLayer l f).reservations = s.reservations := rfl
@[simp] theorem State.modLayer_engine (l : LayerId) (f : Layer → Layer) : (s.modLayer l f).engine = s.engine := rfl
@[simp] theorem State.modLayer_slots (l : LayerId) (f : Layer → Layer) : (s.modLayer l f).slots = s.slots := rfl
@[simp] theorem State.modLayer_history (l : LayerId) (f : Layer → Layer) : (s.modLayer l f).history = s.history := rfl
@[simp] theorem State.modLayer_act (l : LayerId) (f : Layer → Layer) : (s.modLayer l f).act = s.act := rfl
@[simp] theorem State.modLayer_shares (l : LayerId) (f : Layer → Layer) : (s.modLayer l f).shares = s.shares := rfl
@[simp] theorem State.modLayer_scan (l : LayerId) (f : Layer → Layer) : (s.modLayer l f).scan = s.scan := rfl
@[simp] theorem State.modLayer_points (l : LayerId) (f : Layer → Layer) : (s.modLayer l f).points = s.points := rfl
@[simp] theorem State.modLayer_bus (l : LayerId) (f : Layer → Layer) : (s.modLayer l f).bus = s.bus := rfl
@[simp] theorem State.modLayer_routes (l : LayerId) (f : Layer → Layer) : (s.modLayer l f).routes = s.routes := rfl
@[simp] theorem State.modLayer_faults (l : LayerId) (f : Layer → Layer) : (s.modLayer l f).faults = s.faults := rfl
@[simp] theorem State.modLayer_tiers (l : LayerId) (f : Layer → Layer) : (s.modLayer l f).tiers = s.tiers := rfl
@[simp] theorem State.modLayer_free (l : LayerId) (f : Layer → Layer) : (s.modLayer l f).free = s.free := rfl

@[simp] theorem State.modQueue_pending (f : Queue → Queue) : (s.modQueue f).pending = s.pending := rfl
@[simp] theorem State.modQueue_stopRequests (f : Queue → Queue) : (s.modQueue f).stopRequests = s.stopRequests := rfl
@[simp] theorem State.modQueue_link (f : Queue → Queue) : (s.modQueue f).link = s.link := rfl
@[simp] theorem State.modQueue_part (f : Queue → Queue) : (s.modQueue f).part = s.part := rfl
@[simp] theorem State.modQueue_gateOpen (f : Queue → Queue) : (s.modQueue f).gateOpen = s.gateOpen := rfl
@[simp] theorem State.modQueue_ptrip (f : Queue → Queue) : (s.modQueue f).ptrip = s.ptrip := rfl
@[simp] theorem State.modQueue_stations (f : Queue → Queue) : (s.modQueue f).stations = s.stations := rfl
@[simp] theorem State.modQueue_roll (f : Queue → Queue) : (s.modQueue f).roll = s.roll := rfl
@[simp] theorem State.modQueue_permissions (f : Queue → Queue) : (s.modQueue f).permissions = s.permissions := rfl
@[simp] theorem State.modQueue_positions (f : Queue → Queue) : (s.modQueue f).positions = s.positions := rfl
@[simp] theorem State.modQueue_duties (f : Queue → Queue) : (s.modQueue f).duties = s.duties := rfl
@[simp] theorem State.modQueue_cache (f : Queue → Queue) : (s.modQueue f).cache = s.cache := rfl
@[simp] theorem State.modQueue_lru (f : Queue → Queue) : (s.modQueue f).lru = s.lru := rfl
@[simp] theorem State.modQueue_trains (f : Queue → Queue) : (s.modQueue f).trains = s.trains := rfl
@[simp] theorem State.modQueue_queue (f : Queue → Queue) : (s.modQueue f).queue = f s.queue := rfl
@[simp] theorem State.modQueue_caverns (f : Queue → Queue) : (s.modQueue f).caverns = s.caverns := rfl
@[simp] theorem State.modQueue_bands (f : Queue → Queue) : (s.modQueue f).bands = s.bands := rfl
@[simp] theorem State.modQueue_stores (f : Queue → Queue) : (s.modQueue f).stores = s.stores := rfl
@[simp] theorem State.modQueue_layers (f : Queue → Queue) : (s.modQueue f).layers = s.layers := rfl
@[simp] theorem State.modQueue_reservations (f : Queue → Queue) : (s.modQueue f).reservations = s.reservations := rfl
@[simp] theorem State.modQueue_engine (f : Queue → Queue) : (s.modQueue f).engine = s.engine := rfl
@[simp] theorem State.modQueue_slots (f : Queue → Queue) : (s.modQueue f).slots = s.slots := rfl
@[simp] theorem State.modQueue_history (f : Queue → Queue) : (s.modQueue f).history = s.history := rfl
@[simp] theorem State.modQueue_act (f : Queue → Queue) : (s.modQueue f).act = s.act := rfl
@[simp] theorem State.modQueue_shares (f : Queue → Queue) : (s.modQueue f).shares = s.shares := rfl
@[simp] theorem State.modQueue_scan (f : Queue → Queue) : (s.modQueue f).scan = s.scan := rfl
@[simp] theorem State.modQueue_points (f : Queue → Queue) : (s.modQueue f).points = s.points := rfl
@[simp] theorem State.modQueue_bus (f : Queue → Queue) : (s.modQueue f).bus = s.bus := rfl
@[simp] theorem State.modQueue_routes (f : Queue → Queue) : (s.modQueue f).routes = s.routes := rfl
@[simp] theorem State.modQueue_faults (f : Queue → Queue) : (s.modQueue f).faults = s.faults := rfl
@[simp] theorem State.modQueue_tiers (f : Queue → Queue) : (s.modQueue f).tiers = s.tiers := rfl
@[simp] theorem State.modQueue_free (f : Queue → Queue) : (s.modQueue f).free = s.free := rfl

@[simp] theorem State.modSlotAt_pending (p : Fin 48) (f : Slot → Slot) : (s.modSlotAt p f).pending = s.pending := rfl
@[simp] theorem State.modSlotAt_stopRequests (p : Fin 48) (f : Slot → Slot) : (s.modSlotAt p f).stopRequests = s.stopRequests := rfl
@[simp] theorem State.modSlotAt_link (p : Fin 48) (f : Slot → Slot) : (s.modSlotAt p f).link = s.link := rfl
@[simp] theorem State.modSlotAt_part (p : Fin 48) (f : Slot → Slot) : (s.modSlotAt p f).part = s.part := rfl
@[simp] theorem State.modSlotAt_gateOpen (p : Fin 48) (f : Slot → Slot) : (s.modSlotAt p f).gateOpen = s.gateOpen := rfl
@[simp] theorem State.modSlotAt_ptrip (p : Fin 48) (f : Slot → Slot) : (s.modSlotAt p f).ptrip = s.ptrip := rfl
@[simp] theorem State.modSlotAt_stations (p : Fin 48) (f : Slot → Slot) : (s.modSlotAt p f).stations = s.stations := rfl
@[simp] theorem State.modSlotAt_roll (p : Fin 48) (f : Slot → Slot) : (s.modSlotAt p f).roll = s.roll := rfl
@[simp] theorem State.modSlotAt_permissions (p : Fin 48) (f : Slot → Slot) : (s.modSlotAt p f).permissions = s.permissions := rfl
@[simp] theorem State.modSlotAt_positions (p : Fin 48) (f : Slot → Slot) : (s.modSlotAt p f).positions = s.positions := rfl
@[simp] theorem State.modSlotAt_duties (p : Fin 48) (f : Slot → Slot) : (s.modSlotAt p f).duties = s.duties := rfl
@[simp] theorem State.modSlotAt_cache (p : Fin 48) (f : Slot → Slot) : (s.modSlotAt p f).cache = s.cache := rfl
@[simp] theorem State.modSlotAt_lru (p : Fin 48) (f : Slot → Slot) : (s.modSlotAt p f).lru = s.lru := rfl
@[simp] theorem State.modSlotAt_trains (p : Fin 48) (f : Slot → Slot) : (s.modSlotAt p f).trains = s.trains := rfl
@[simp] theorem State.modSlotAt_queue (p : Fin 48) (f : Slot → Slot) : (s.modSlotAt p f).queue = s.queue := rfl
@[simp] theorem State.modSlotAt_caverns (p : Fin 48) (f : Slot → Slot) : (s.modSlotAt p f).caverns = s.caverns := rfl
@[simp] theorem State.modSlotAt_bands (p : Fin 48) (f : Slot → Slot) : (s.modSlotAt p f).bands = s.bands := rfl
@[simp] theorem State.modSlotAt_stores (p : Fin 48) (f : Slot → Slot) : (s.modSlotAt p f).stores = s.stores := rfl
@[simp] theorem State.modSlotAt_layers (p : Fin 48) (f : Slot → Slot) : (s.modSlotAt p f).layers = s.layers := rfl
@[simp] theorem State.modSlotAt_reservations (p : Fin 48) (f : Slot → Slot) : (s.modSlotAt p f).reservations = s.reservations := rfl
@[simp] theorem State.modSlotAt_engine (p : Fin 48) (f : Slot → Slot) : (s.modSlotAt p f).engine = s.engine := rfl
@[simp] theorem State.modSlotAt_slots (p : Fin 48) (f : Slot → Slot) : (s.modSlotAt p f).slots = modAt s.slots p f := rfl
@[simp] theorem State.modSlotAt_history (p : Fin 48) (f : Slot → Slot) : (s.modSlotAt p f).history = s.history := rfl
@[simp] theorem State.modSlotAt_act (p : Fin 48) (f : Slot → Slot) : (s.modSlotAt p f).act = s.act := rfl
@[simp] theorem State.modSlotAt_shares (p : Fin 48) (f : Slot → Slot) : (s.modSlotAt p f).shares = s.shares := rfl
@[simp] theorem State.modSlotAt_scan (p : Fin 48) (f : Slot → Slot) : (s.modSlotAt p f).scan = s.scan := rfl
@[simp] theorem State.modSlotAt_points (p : Fin 48) (f : Slot → Slot) : (s.modSlotAt p f).points = s.points := rfl
@[simp] theorem State.modSlotAt_bus (p : Fin 48) (f : Slot → Slot) : (s.modSlotAt p f).bus = s.bus := rfl
@[simp] theorem State.modSlotAt_routes (p : Fin 48) (f : Slot → Slot) : (s.modSlotAt p f).routes = s.routes := rfl
@[simp] theorem State.modSlotAt_faults (p : Fin 48) (f : Slot → Slot) : (s.modSlotAt p f).faults = s.faults := rfl
@[simp] theorem State.modSlotAt_tiers (p : Fin 48) (f : Slot → Slot) : (s.modSlotAt p f).tiers = s.tiers := rfl
@[simp] theorem State.modSlotAt_free (p : Fin 48) (f : Slot → Slot) : (s.modSlotAt p f).free = s.free := rfl

@[simp] theorem State.modShare_pending (t : TrainId) (f : Share → Share) : (s.modShare t f).pending = s.pending := rfl
@[simp] theorem State.modShare_stopRequests (t : TrainId) (f : Share → Share) : (s.modShare t f).stopRequests = s.stopRequests := rfl
@[simp] theorem State.modShare_link (t : TrainId) (f : Share → Share) : (s.modShare t f).link = s.link := rfl
@[simp] theorem State.modShare_part (t : TrainId) (f : Share → Share) : (s.modShare t f).part = s.part := rfl
@[simp] theorem State.modShare_gateOpen (t : TrainId) (f : Share → Share) : (s.modShare t f).gateOpen = s.gateOpen := rfl
@[simp] theorem State.modShare_ptrip (t : TrainId) (f : Share → Share) : (s.modShare t f).ptrip = s.ptrip := rfl
@[simp] theorem State.modShare_stations (t : TrainId) (f : Share → Share) : (s.modShare t f).stations = s.stations := rfl
@[simp] theorem State.modShare_roll (t : TrainId) (f : Share → Share) : (s.modShare t f).roll = s.roll := rfl
@[simp] theorem State.modShare_permissions (t : TrainId) (f : Share → Share) : (s.modShare t f).permissions = s.permissions := rfl
@[simp] theorem State.modShare_positions (t : TrainId) (f : Share → Share) : (s.modShare t f).positions = s.positions := rfl
@[simp] theorem State.modShare_duties (t : TrainId) (f : Share → Share) : (s.modShare t f).duties = s.duties := rfl
@[simp] theorem State.modShare_cache (t : TrainId) (f : Share → Share) : (s.modShare t f).cache = s.cache := rfl
@[simp] theorem State.modShare_lru (t : TrainId) (f : Share → Share) : (s.modShare t f).lru = s.lru := rfl
@[simp] theorem State.modShare_trains (t : TrainId) (f : Share → Share) : (s.modShare t f).trains = s.trains := rfl
@[simp] theorem State.modShare_queue (t : TrainId) (f : Share → Share) : (s.modShare t f).queue = s.queue := rfl
@[simp] theorem State.modShare_caverns (t : TrainId) (f : Share → Share) : (s.modShare t f).caverns = s.caverns := rfl
@[simp] theorem State.modShare_bands (t : TrainId) (f : Share → Share) : (s.modShare t f).bands = s.bands := rfl
@[simp] theorem State.modShare_stores (t : TrainId) (f : Share → Share) : (s.modShare t f).stores = s.stores := rfl
@[simp] theorem State.modShare_layers (t : TrainId) (f : Share → Share) : (s.modShare t f).layers = s.layers := rfl
@[simp] theorem State.modShare_reservations (t : TrainId) (f : Share → Share) : (s.modShare t f).reservations = s.reservations := rfl
@[simp] theorem State.modShare_engine (t : TrainId) (f : Share → Share) : (s.modShare t f).engine = s.engine := rfl
@[simp] theorem State.modShare_slots (t : TrainId) (f : Share → Share) : (s.modShare t f).slots = s.slots := rfl
@[simp] theorem State.modShare_history (t : TrainId) (f : Share → Share) : (s.modShare t f).history = s.history := rfl
@[simp] theorem State.modShare_act (t : TrainId) (f : Share → Share) : (s.modShare t f).act = s.act := rfl
@[simp] theorem State.modShare_shares (t : TrainId) (f : Share → Share) : (s.modShare t f).shares = modAt s.shares t f := rfl
@[simp] theorem State.modShare_scan (t : TrainId) (f : Share → Share) : (s.modShare t f).scan = s.scan := rfl
@[simp] theorem State.modShare_points (t : TrainId) (f : Share → Share) : (s.modShare t f).points = s.points := rfl
@[simp] theorem State.modShare_bus (t : TrainId) (f : Share → Share) : (s.modShare t f).bus = s.bus := rfl
@[simp] theorem State.modShare_routes (t : TrainId) (f : Share → Share) : (s.modShare t f).routes = s.routes := rfl
@[simp] theorem State.modShare_faults (t : TrainId) (f : Share → Share) : (s.modShare t f).faults = s.faults := rfl
@[simp] theorem State.modShare_tiers (t : TrainId) (f : Share → Share) : (s.modShare t f).tiers = s.tiers := rfl
@[simp] theorem State.modShare_free (t : TrainId) (f : Share → Share) : (s.modShare t f).free = s.free := rfl

@[simp] theorem State.modPoint_pending (i : ScanId) (f : Point → Point) : (s.modPoint i f).pending = s.pending := rfl
@[simp] theorem State.modPoint_stopRequests (i : ScanId) (f : Point → Point) : (s.modPoint i f).stopRequests = s.stopRequests := rfl
@[simp] theorem State.modPoint_link (i : ScanId) (f : Point → Point) : (s.modPoint i f).link = s.link := rfl
@[simp] theorem State.modPoint_part (i : ScanId) (f : Point → Point) : (s.modPoint i f).part = s.part := rfl
@[simp] theorem State.modPoint_gateOpen (i : ScanId) (f : Point → Point) : (s.modPoint i f).gateOpen = s.gateOpen := rfl
@[simp] theorem State.modPoint_ptrip (i : ScanId) (f : Point → Point) : (s.modPoint i f).ptrip = s.ptrip := rfl
@[simp] theorem State.modPoint_stations (i : ScanId) (f : Point → Point) : (s.modPoint i f).stations = s.stations := rfl
@[simp] theorem State.modPoint_roll (i : ScanId) (f : Point → Point) : (s.modPoint i f).roll = s.roll := rfl
@[simp] theorem State.modPoint_permissions (i : ScanId) (f : Point → Point) : (s.modPoint i f).permissions = s.permissions := rfl
@[simp] theorem State.modPoint_positions (i : ScanId) (f : Point → Point) : (s.modPoint i f).positions = s.positions := rfl
@[simp] theorem State.modPoint_duties (i : ScanId) (f : Point → Point) : (s.modPoint i f).duties = s.duties := rfl
@[simp] theorem State.modPoint_cache (i : ScanId) (f : Point → Point) : (s.modPoint i f).cache = s.cache := rfl
@[simp] theorem State.modPoint_lru (i : ScanId) (f : Point → Point) : (s.modPoint i f).lru = s.lru := rfl
@[simp] theorem State.modPoint_trains (i : ScanId) (f : Point → Point) : (s.modPoint i f).trains = s.trains := rfl
@[simp] theorem State.modPoint_queue (i : ScanId) (f : Point → Point) : (s.modPoint i f).queue = s.queue := rfl
@[simp] theorem State.modPoint_caverns (i : ScanId) (f : Point → Point) : (s.modPoint i f).caverns = s.caverns := rfl
@[simp] theorem State.modPoint_bands (i : ScanId) (f : Point → Point) : (s.modPoint i f).bands = s.bands := rfl
@[simp] theorem State.modPoint_stores (i : ScanId) (f : Point → Point) : (s.modPoint i f).stores = s.stores := rfl
@[simp] theorem State.modPoint_layers (i : ScanId) (f : Point → Point) : (s.modPoint i f).layers = s.layers := rfl
@[simp] theorem State.modPoint_reservations (i : ScanId) (f : Point → Point) : (s.modPoint i f).reservations = s.reservations := rfl
@[simp] theorem State.modPoint_engine (i : ScanId) (f : Point → Point) : (s.modPoint i f).engine = s.engine := rfl
@[simp] theorem State.modPoint_slots (i : ScanId) (f : Point → Point) : (s.modPoint i f).slots = s.slots := rfl
@[simp] theorem State.modPoint_history (i : ScanId) (f : Point → Point) : (s.modPoint i f).history = s.history := rfl
@[simp] theorem State.modPoint_act (i : ScanId) (f : Point → Point) : (s.modPoint i f).act = s.act := rfl
@[simp] theorem State.modPoint_shares (i : ScanId) (f : Point → Point) : (s.modPoint i f).shares = s.shares := rfl
@[simp] theorem State.modPoint_scan (i : ScanId) (f : Point → Point) : (s.modPoint i f).scan = s.scan := rfl
@[simp] theorem State.modPoint_points (i : ScanId) (f : Point → Point) : (s.modPoint i f).points = modAt s.points i f := rfl
@[simp] theorem State.modPoint_bus (i : ScanId) (f : Point → Point) : (s.modPoint i f).bus = s.bus := rfl
@[simp] theorem State.modPoint_routes (i : ScanId) (f : Point → Point) : (s.modPoint i f).routes = s.routes := rfl
@[simp] theorem State.modPoint_faults (i : ScanId) (f : Point → Point) : (s.modPoint i f).faults = s.faults := rfl
@[simp] theorem State.modPoint_tiers (i : ScanId) (f : Point → Point) : (s.modPoint i f).tiers = s.tiers := rfl
@[simp] theorem State.modPoint_free (i : ScanId) (f : Point → Point) : (s.modPoint i f).free = s.free := rfl

@[simp] theorem State.modTier_pending (k : TierId) (f : Tier → Tier) : (s.modTier k f).pending = s.pending := rfl
@[simp] theorem State.modTier_stopRequests (k : TierId) (f : Tier → Tier) : (s.modTier k f).stopRequests = s.stopRequests := rfl
@[simp] theorem State.modTier_link (k : TierId) (f : Tier → Tier) : (s.modTier k f).link = s.link := rfl
@[simp] theorem State.modTier_part (k : TierId) (f : Tier → Tier) : (s.modTier k f).part = s.part := rfl
@[simp] theorem State.modTier_gateOpen (k : TierId) (f : Tier → Tier) : (s.modTier k f).gateOpen = s.gateOpen := rfl
@[simp] theorem State.modTier_ptrip (k : TierId) (f : Tier → Tier) : (s.modTier k f).ptrip = s.ptrip := rfl
@[simp] theorem State.modTier_stations (k : TierId) (f : Tier → Tier) : (s.modTier k f).stations = s.stations := rfl
@[simp] theorem State.modTier_roll (k : TierId) (f : Tier → Tier) : (s.modTier k f).roll = s.roll := rfl
@[simp] theorem State.modTier_permissions (k : TierId) (f : Tier → Tier) : (s.modTier k f).permissions = s.permissions := rfl
@[simp] theorem State.modTier_positions (k : TierId) (f : Tier → Tier) : (s.modTier k f).positions = s.positions := rfl
@[simp] theorem State.modTier_duties (k : TierId) (f : Tier → Tier) : (s.modTier k f).duties = s.duties := rfl
@[simp] theorem State.modTier_cache (k : TierId) (f : Tier → Tier) : (s.modTier k f).cache = s.cache := rfl
@[simp] theorem State.modTier_lru (k : TierId) (f : Tier → Tier) : (s.modTier k f).lru = s.lru := rfl
@[simp] theorem State.modTier_trains (k : TierId) (f : Tier → Tier) : (s.modTier k f).trains = s.trains := rfl
@[simp] theorem State.modTier_queue (k : TierId) (f : Tier → Tier) : (s.modTier k f).queue = s.queue := rfl
@[simp] theorem State.modTier_caverns (k : TierId) (f : Tier → Tier) : (s.modTier k f).caverns = s.caverns := rfl
@[simp] theorem State.modTier_bands (k : TierId) (f : Tier → Tier) : (s.modTier k f).bands = s.bands := rfl
@[simp] theorem State.modTier_stores (k : TierId) (f : Tier → Tier) : (s.modTier k f).stores = s.stores := rfl
@[simp] theorem State.modTier_layers (k : TierId) (f : Tier → Tier) : (s.modTier k f).layers = s.layers := rfl
@[simp] theorem State.modTier_reservations (k : TierId) (f : Tier → Tier) : (s.modTier k f).reservations = s.reservations := rfl
@[simp] theorem State.modTier_engine (k : TierId) (f : Tier → Tier) : (s.modTier k f).engine = s.engine := rfl
@[simp] theorem State.modTier_slots (k : TierId) (f : Tier → Tier) : (s.modTier k f).slots = s.slots := rfl
@[simp] theorem State.modTier_history (k : TierId) (f : Tier → Tier) : (s.modTier k f).history = s.history := rfl
@[simp] theorem State.modTier_act (k : TierId) (f : Tier → Tier) : (s.modTier k f).act = s.act := rfl
@[simp] theorem State.modTier_shares (k : TierId) (f : Tier → Tier) : (s.modTier k f).shares = s.shares := rfl
@[simp] theorem State.modTier_scan (k : TierId) (f : Tier → Tier) : (s.modTier k f).scan = s.scan := rfl
@[simp] theorem State.modTier_points (k : TierId) (f : Tier → Tier) : (s.modTier k f).points = s.points := rfl
@[simp] theorem State.modTier_bus (k : TierId) (f : Tier → Tier) : (s.modTier k f).bus = s.bus := rfl
@[simp] theorem State.modTier_routes (k : TierId) (f : Tier → Tier) : (s.modTier k f).routes = s.routes := rfl
@[simp] theorem State.modTier_faults (k : TierId) (f : Tier → Tier) : (s.modTier k f).faults = s.faults := rfl
@[simp] theorem State.modTier_tiers (k : TierId) (f : Tier → Tier) : (s.modTier k f).tiers = modAt s.tiers k f := rfl
@[simp] theorem State.modTier_free (k : TierId) (f : Tier → Tier) : (s.modTier k f).free = s.free := rfl

@[simp] theorem State.modBus_pending (f : Bus → Bus) : (s.modBus f).pending = s.pending := rfl
@[simp] theorem State.modBus_stopRequests (f : Bus → Bus) : (s.modBus f).stopRequests = s.stopRequests := rfl
@[simp] theorem State.modBus_link (f : Bus → Bus) : (s.modBus f).link = s.link := rfl
@[simp] theorem State.modBus_part (f : Bus → Bus) : (s.modBus f).part = s.part := rfl
@[simp] theorem State.modBus_gateOpen (f : Bus → Bus) : (s.modBus f).gateOpen = s.gateOpen := rfl
@[simp] theorem State.modBus_ptrip (f : Bus → Bus) : (s.modBus f).ptrip = s.ptrip := rfl
@[simp] theorem State.modBus_stations (f : Bus → Bus) : (s.modBus f).stations = s.stations := rfl
@[simp] theorem State.modBus_roll (f : Bus → Bus) : (s.modBus f).roll = s.roll := rfl
@[simp] theorem State.modBus_permissions (f : Bus → Bus) : (s.modBus f).permissions = s.permissions := rfl
@[simp] theorem State.modBus_positions (f : Bus → Bus) : (s.modBus f).positions = s.positions := rfl
@[simp] theorem State.modBus_duties (f : Bus → Bus) : (s.modBus f).duties = s.duties := rfl
@[simp] theorem State.modBus_cache (f : Bus → Bus) : (s.modBus f).cache = s.cache := rfl
@[simp] theorem State.modBus_lru (f : Bus → Bus) : (s.modBus f).lru = s.lru := rfl
@[simp] theorem State.modBus_trains (f : Bus → Bus) : (s.modBus f).trains = s.trains := rfl
@[simp] theorem State.modBus_queue (f : Bus → Bus) : (s.modBus f).queue = s.queue := rfl
@[simp] theorem State.modBus_caverns (f : Bus → Bus) : (s.modBus f).caverns = s.caverns := rfl
@[simp] theorem State.modBus_bands (f : Bus → Bus) : (s.modBus f).bands = s.bands := rfl
@[simp] theorem State.modBus_stores (f : Bus → Bus) : (s.modBus f).stores = s.stores := rfl
@[simp] theorem State.modBus_layers (f : Bus → Bus) : (s.modBus f).layers = s.layers := rfl
@[simp] theorem State.modBus_reservations (f : Bus → Bus) : (s.modBus f).reservations = s.reservations := rfl
@[simp] theorem State.modBus_engine (f : Bus → Bus) : (s.modBus f).engine = s.engine := rfl
@[simp] theorem State.modBus_slots (f : Bus → Bus) : (s.modBus f).slots = s.slots := rfl
@[simp] theorem State.modBus_history (f : Bus → Bus) : (s.modBus f).history = s.history := rfl
@[simp] theorem State.modBus_act (f : Bus → Bus) : (s.modBus f).act = s.act := rfl
@[simp] theorem State.modBus_shares (f : Bus → Bus) : (s.modBus f).shares = s.shares := rfl
@[simp] theorem State.modBus_scan (f : Bus → Bus) : (s.modBus f).scan = s.scan := rfl
@[simp] theorem State.modBus_points (f : Bus → Bus) : (s.modBus f).points = s.points := rfl
@[simp] theorem State.modBus_bus (f : Bus → Bus) : (s.modBus f).bus = f s.bus := rfl
@[simp] theorem State.modBus_routes (f : Bus → Bus) : (s.modBus f).routes = s.routes := rfl
@[simp] theorem State.modBus_faults (f : Bus → Bus) : (s.modBus f).faults = s.faults := rfl
@[simp] theorem State.modBus_tiers (f : Bus → Bus) : (s.modBus f).tiers = s.tiers := rfl
@[simp] theorem State.modBus_free (f : Bus → Bus) : (s.modBus f).free = s.free := rfl

@[simp] theorem State.modAct_pending (f : Activation → Activation) : (s.modAct f).pending = s.pending := rfl
@[simp] theorem State.modAct_stopRequests (f : Activation → Activation) : (s.modAct f).stopRequests = s.stopRequests := rfl
@[simp] theorem State.modAct_link (f : Activation → Activation) : (s.modAct f).link = s.link := rfl
@[simp] theorem State.modAct_part (f : Activation → Activation) : (s.modAct f).part = s.part := rfl
@[simp] theorem State.modAct_gateOpen (f : Activation → Activation) : (s.modAct f).gateOpen = s.gateOpen := rfl
@[simp] theorem State.modAct_ptrip (f : Activation → Activation) : (s.modAct f).ptrip = s.ptrip := rfl
@[simp] theorem State.modAct_stations (f : Activation → Activation) : (s.modAct f).stations = s.stations := rfl
@[simp] theorem State.modAct_roll (f : Activation → Activation) : (s.modAct f).roll = s.roll := rfl
@[simp] theorem State.modAct_permissions (f : Activation → Activation) : (s.modAct f).permissions = s.permissions := rfl
@[simp] theorem State.modAct_positions (f : Activation → Activation) : (s.modAct f).positions = s.positions := rfl
@[simp] theorem State.modAct_duties (f : Activation → Activation) : (s.modAct f).duties = s.duties := rfl
@[simp] theorem State.modAct_cache (f : Activation → Activation) : (s.modAct f).cache = s.cache := rfl
@[simp] theorem State.modAct_lru (f : Activation → Activation) : (s.modAct f).lru = s.lru := rfl
@[simp] theorem State.modAct_trains (f : Activation → Activation) : (s.modAct f).trains = s.trains := rfl
@[simp] theorem State.modAct_queue (f : Activation → Activation) : (s.modAct f).queue = s.queue := rfl
@[simp] theorem State.modAct_caverns (f : Activation → Activation) : (s.modAct f).caverns = s.caverns := rfl
@[simp] theorem State.modAct_bands (f : Activation → Activation) : (s.modAct f).bands = s.bands := rfl
@[simp] theorem State.modAct_stores (f : Activation → Activation) : (s.modAct f).stores = s.stores := rfl
@[simp] theorem State.modAct_layers (f : Activation → Activation) : (s.modAct f).layers = s.layers := rfl
@[simp] theorem State.modAct_reservations (f : Activation → Activation) : (s.modAct f).reservations = s.reservations := rfl
@[simp] theorem State.modAct_engine (f : Activation → Activation) : (s.modAct f).engine = s.engine := rfl
@[simp] theorem State.modAct_slots (f : Activation → Activation) : (s.modAct f).slots = s.slots := rfl
@[simp] theorem State.modAct_history (f : Activation → Activation) : (s.modAct f).history = s.history := rfl
@[simp] theorem State.modAct_act (f : Activation → Activation) : (s.modAct f).act = f s.act := rfl
@[simp] theorem State.modAct_shares (f : Activation → Activation) : (s.modAct f).shares = s.shares := rfl
@[simp] theorem State.modAct_scan (f : Activation → Activation) : (s.modAct f).scan = s.scan := rfl
@[simp] theorem State.modAct_points (f : Activation → Activation) : (s.modAct f).points = s.points := rfl
@[simp] theorem State.modAct_bus (f : Activation → Activation) : (s.modAct f).bus = s.bus := rfl
@[simp] theorem State.modAct_routes (f : Activation → Activation) : (s.modAct f).routes = s.routes := rfl
@[simp] theorem State.modAct_faults (f : Activation → Activation) : (s.modAct f).faults = s.faults := rfl
@[simp] theorem State.modAct_tiers (f : Activation → Activation) : (s.modAct f).tiers = s.tiers := rfl
@[simp] theorem State.modAct_free (f : Activation → Activation) : (s.modAct f).free = s.free := rfl

@[simp] theorem State.requestStop_pending (t : TrainId) (c : Cause) : (s.requestStop t c).pending = s.pending := rfl
@[simp] theorem State.requestStop_stopRequests (t : TrainId) (c : Cause) : (s.requestStop t c).stopRequests = s.stopRequests ++ [{ train := t, cause := c }] := rfl
@[simp] theorem State.requestStop_link (t : TrainId) (c : Cause) : (s.requestStop t c).link = s.link := rfl
@[simp] theorem State.requestStop_part (t : TrainId) (c : Cause) : (s.requestStop t c).part = s.part := rfl
@[simp] theorem State.requestStop_gateOpen (t : TrainId) (c : Cause) : (s.requestStop t c).gateOpen = s.gateOpen := rfl
@[simp] theorem State.requestStop_ptrip (t : TrainId) (c : Cause) : (s.requestStop t c).ptrip = s.ptrip := rfl
@[simp] theorem State.requestStop_stations (t : TrainId) (c : Cause) : (s.requestStop t c).stations = s.stations := rfl
@[simp] theorem State.requestStop_roll (t : TrainId) (c : Cause) : (s.requestStop t c).roll = s.roll := rfl
@[simp] theorem State.requestStop_permissions (t : TrainId) (c : Cause) : (s.requestStop t c).permissions = s.permissions := rfl
@[simp] theorem State.requestStop_positions (t : TrainId) (c : Cause) : (s.requestStop t c).positions = s.positions := rfl
@[simp] theorem State.requestStop_duties (t : TrainId) (c : Cause) : (s.requestStop t c).duties = s.duties := rfl
@[simp] theorem State.requestStop_cache (t : TrainId) (c : Cause) : (s.requestStop t c).cache = s.cache := rfl
@[simp] theorem State.requestStop_lru (t : TrainId) (c : Cause) : (s.requestStop t c).lru = s.lru := rfl
@[simp] theorem State.requestStop_trains (t : TrainId) (c : Cause) : (s.requestStop t c).trains = s.trains := rfl
@[simp] theorem State.requestStop_queue (t : TrainId) (c : Cause) : (s.requestStop t c).queue = s.queue := rfl
@[simp] theorem State.requestStop_caverns (t : TrainId) (c : Cause) : (s.requestStop t c).caverns = s.caverns := rfl
@[simp] theorem State.requestStop_bands (t : TrainId) (c : Cause) : (s.requestStop t c).bands = s.bands := rfl
@[simp] theorem State.requestStop_stores (t : TrainId) (c : Cause) : (s.requestStop t c).stores = s.stores := rfl
@[simp] theorem State.requestStop_layers (t : TrainId) (c : Cause) : (s.requestStop t c).layers = s.layers := rfl
@[simp] theorem State.requestStop_reservations (t : TrainId) (c : Cause) : (s.requestStop t c).reservations = s.reservations := rfl
@[simp] theorem State.requestStop_engine (t : TrainId) (c : Cause) : (s.requestStop t c).engine = s.engine := rfl
@[simp] theorem State.requestStop_slots (t : TrainId) (c : Cause) : (s.requestStop t c).slots = s.slots := rfl
@[simp] theorem State.requestStop_history (t : TrainId) (c : Cause) : (s.requestStop t c).history = s.history := rfl
@[simp] theorem State.requestStop_act (t : TrainId) (c : Cause) : (s.requestStop t c).act = s.act := rfl
@[simp] theorem State.requestStop_shares (t : TrainId) (c : Cause) : (s.requestStop t c).shares = s.shares := rfl
@[simp] theorem State.requestStop_scan (t : TrainId) (c : Cause) : (s.requestStop t c).scan = s.scan := rfl
@[simp] theorem State.requestStop_points (t : TrainId) (c : Cause) : (s.requestStop t c).points = s.points := rfl
@[simp] theorem State.requestStop_bus (t : TrainId) (c : Cause) : (s.requestStop t c).bus = s.bus := rfl
@[simp] theorem State.requestStop_routes (t : TrainId) (c : Cause) : (s.requestStop t c).routes = s.routes := rfl
@[simp] theorem State.requestStop_faults (t : TrainId) (c : Cause) : (s.requestStop t c).faults = s.faults := rfl
@[simp] theorem State.requestStop_tiers (t : TrainId) (c : Cause) : (s.requestStop t c).tiers = s.tiers := rfl
@[simp] theorem State.requestStop_free (t : TrainId) (c : Cause) : (s.requestStop t c).free = s.free := rfl

@[simp] theorem State.modReservations_pending (f : List Reservation → List Reservation) : (s.modReservations f).pending = s.pending := rfl
@[simp] theorem State.modReservations_stopRequests (f : List Reservation → List Reservation) : (s.modReservations f).stopRequests = s.stopRequests := rfl
@[simp] theorem State.modReservations_link (f : List Reservation → List Reservation) : (s.modReservations f).link = s.link := rfl
@[simp] theorem State.modReservations_part (f : List Reservation → List Reservation) : (s.modReservations f).part = s.part := rfl
@[simp] theorem State.modReservations_gateOpen (f : List Reservation → List Reservation) : (s.modReservations f).gateOpen = s.gateOpen := rfl
@[simp] theorem State.modReservations_ptrip (f : List Reservation → List Reservation) : (s.modReservations f).ptrip = s.ptrip := rfl
@[simp] theorem State.modReservations_stations (f : List Reservation → List Reservation) : (s.modReservations f).stations = s.stations := rfl
@[simp] theorem State.modReservations_roll (f : List Reservation → List Reservation) : (s.modReservations f).roll = s.roll := rfl
@[simp] theorem State.modReservations_permissions (f : List Reservation → List Reservation) : (s.modReservations f).permissions = s.permissions := rfl
@[simp] theorem State.modReservations_positions (f : List Reservation → List Reservation) : (s.modReservations f).positions = s.positions := rfl
@[simp] theorem State.modReservations_duties (f : List Reservation → List Reservation) : (s.modReservations f).duties = s.duties := rfl
@[simp] theorem State.modReservations_cache (f : List Reservation → List Reservation) : (s.modReservations f).cache = s.cache := rfl
@[simp] theorem State.modReservations_lru (f : List Reservation → List Reservation) : (s.modReservations f).lru = s.lru := rfl
@[simp] theorem State.modReservations_trains (f : List Reservation → List Reservation) : (s.modReservations f).trains = s.trains := rfl
@[simp] theorem State.modReservations_queue (f : List Reservation → List Reservation) : (s.modReservations f).queue = s.queue := rfl
@[simp] theorem State.modReservations_caverns (f : List Reservation → List Reservation) : (s.modReservations f).caverns = s.caverns := rfl
@[simp] theorem State.modReservations_bands (f : List Reservation → List Reservation) : (s.modReservations f).bands = s.bands := rfl
@[simp] theorem State.modReservations_stores (f : List Reservation → List Reservation) : (s.modReservations f).stores = s.stores := rfl
@[simp] theorem State.modReservations_layers (f : List Reservation → List Reservation) : (s.modReservations f).layers = s.layers := rfl
@[simp] theorem State.modReservations_reservations (f : List Reservation → List Reservation) : (s.modReservations f).reservations = f s.reservations := rfl
@[simp] theorem State.modReservations_engine (f : List Reservation → List Reservation) : (s.modReservations f).engine = s.engine := rfl
@[simp] theorem State.modReservations_slots (f : List Reservation → List Reservation) : (s.modReservations f).slots = s.slots := rfl
@[simp] theorem State.modReservations_history (f : List Reservation → List Reservation) : (s.modReservations f).history = s.history := rfl
@[simp] theorem State.modReservations_act (f : List Reservation → List Reservation) : (s.modReservations f).act = s.act := rfl
@[simp] theorem State.modReservations_shares (f : List Reservation → List Reservation) : (s.modReservations f).shares = s.shares := rfl
@[simp] theorem State.modReservations_scan (f : List Reservation → List Reservation) : (s.modReservations f).scan = s.scan := rfl
@[simp] theorem State.modReservations_points (f : List Reservation → List Reservation) : (s.modReservations f).points = s.points := rfl
@[simp] theorem State.modReservations_bus (f : List Reservation → List Reservation) : (s.modReservations f).bus = s.bus := rfl
@[simp] theorem State.modReservations_routes (f : List Reservation → List Reservation) : (s.modReservations f).routes = s.routes := rfl
@[simp] theorem State.modReservations_faults (f : List Reservation → List Reservation) : (s.modReservations f).faults = s.faults := rfl
@[simp] theorem State.modReservations_tiers (f : List Reservation → List Reservation) : (s.modReservations f).tiers = s.tiers := rfl
@[simp] theorem State.modReservations_free (f : List Reservation → List Reservation) : (s.modReservations f).free = s.free := rfl

@[simp] theorem State.invalidate_pending (q : CacheEntry → Bool) : (s.invalidate q).pending = s.pending := rfl
@[simp] theorem State.invalidate_stopRequests (q : CacheEntry → Bool) : (s.invalidate q).stopRequests = s.stopRequests := rfl
@[simp] theorem State.invalidate_link (q : CacheEntry → Bool) : (s.invalidate q).link = s.link := rfl
@[simp] theorem State.invalidate_part (q : CacheEntry → Bool) : (s.invalidate q).part = s.part := rfl
@[simp] theorem State.invalidate_gateOpen (q : CacheEntry → Bool) : (s.invalidate q).gateOpen = s.gateOpen := rfl
@[simp] theorem State.invalidate_ptrip (q : CacheEntry → Bool) : (s.invalidate q).ptrip = s.ptrip := rfl
@[simp] theorem State.invalidate_stations (q : CacheEntry → Bool) : (s.invalidate q).stations = s.stations := rfl
@[simp] theorem State.invalidate_roll (q : CacheEntry → Bool) : (s.invalidate q).roll = s.roll := rfl
@[simp] theorem State.invalidate_permissions (q : CacheEntry → Bool) : (s.invalidate q).permissions = s.permissions := rfl
@[simp] theorem State.invalidate_positions (q : CacheEntry → Bool) : (s.invalidate q).positions = s.positions := rfl
@[simp] theorem State.invalidate_duties (q : CacheEntry → Bool) : (s.invalidate q).duties = s.duties := rfl
@[simp] theorem State.invalidate_lru (q : CacheEntry → Bool) : (s.invalidate q).lru = s.lru := rfl
@[simp] theorem State.invalidate_trains (q : CacheEntry → Bool) : (s.invalidate q).trains = s.trains := rfl
@[simp] theorem State.invalidate_queue (q : CacheEntry → Bool) : (s.invalidate q).queue = s.queue := rfl
@[simp] theorem State.invalidate_caverns (q : CacheEntry → Bool) : (s.invalidate q).caverns = s.caverns := rfl
@[simp] theorem State.invalidate_bands (q : CacheEntry → Bool) : (s.invalidate q).bands = s.bands := rfl
@[simp] theorem State.invalidate_stores (q : CacheEntry → Bool) : (s.invalidate q).stores = s.stores := rfl
@[simp] theorem State.invalidate_layers (q : CacheEntry → Bool) : (s.invalidate q).layers = s.layers := rfl
@[simp] theorem State.invalidate_reservations (q : CacheEntry → Bool) : (s.invalidate q).reservations = s.reservations := rfl
@[simp] theorem State.invalidate_engine (q : CacheEntry → Bool) : (s.invalidate q).engine = s.engine := rfl
@[simp] theorem State.invalidate_slots (q : CacheEntry → Bool) : (s.invalidate q).slots = s.slots := rfl
@[simp] theorem State.invalidate_history (q : CacheEntry → Bool) : (s.invalidate q).history = s.history := rfl
@[simp] theorem State.invalidate_act (q : CacheEntry → Bool) : (s.invalidate q).act = s.act := rfl
@[simp] theorem State.invalidate_shares (q : CacheEntry → Bool) : (s.invalidate q).shares = s.shares := rfl
@[simp] theorem State.invalidate_scan (q : CacheEntry → Bool) : (s.invalidate q).scan = s.scan := rfl
@[simp] theorem State.invalidate_points (q : CacheEntry → Bool) : (s.invalidate q).points = s.points := rfl
@[simp] theorem State.invalidate_bus (q : CacheEntry → Bool) : (s.invalidate q).bus = s.bus := rfl
@[simp] theorem State.invalidate_routes (q : CacheEntry → Bool) : (s.invalidate q).routes = s.routes := rfl
@[simp] theorem State.invalidate_faults (q : CacheEntry → Bool) : (s.invalidate q).faults = s.faults := rfl
@[simp] theorem State.invalidate_tiers (q : CacheEntry → Bool) : (s.invalidate q).tiers = s.tiers := rfl
@[simp] theorem State.invalidate_free (q : CacheEntry → Bool) : (s.invalidate q).free = s.free := rfl

@[simp] theorem State.setPort_pending (p : Port) (x : PortState) : (s.setPort p x).pending = s.pending := by cases p <;> rfl
@[simp] theorem State.setPort_stopRequests (p : Port) (x : PortState) : (s.setPort p x).stopRequests = s.stopRequests := by cases p <;> rfl
@[simp] theorem State.setPort_part (p : Port) (x : PortState) : (s.setPort p x).part = s.part := by cases p <;> rfl
@[simp] theorem State.setPort_gateOpen (p : Port) (x : PortState) : (s.setPort p x).gateOpen = s.gateOpen := by cases p <;> rfl
@[simp] theorem State.setPort_ptrip (p : Port) (x : PortState) : (s.setPort p x).ptrip = s.ptrip := by cases p <;> rfl
@[simp] theorem State.setPort_stations (p : Port) (x : PortState) : (s.setPort p x).stations = s.stations := by cases p <;> rfl
@[simp] theorem State.setPort_roll (p : Port) (x : PortState) : (s.setPort p x).roll = s.roll := by cases p <;> rfl
@[simp] theorem State.setPort_permissions (p : Port) (x : PortState) : (s.setPort p x).permissions = s.permissions := by cases p <;> rfl
@[simp] theorem State.setPort_positions (p : Port) (x : PortState) : (s.setPort p x).positions = s.positions := by cases p <;> rfl
@[simp] theorem State.setPort_duties (p : Port) (x : PortState) : (s.setPort p x).duties = s.duties := by cases p <;> rfl
@[simp] theorem State.setPort_cache (p : Port) (x : PortState) : (s.setPort p x).cache = s.cache := by cases p <;> rfl
@[simp] theorem State.setPort_lru (p : Port) (x : PortState) : (s.setPort p x).lru = s.lru := by cases p <;> rfl
@[simp] theorem State.setPort_trains (p : Port) (x : PortState) : (s.setPort p x).trains = s.trains := by cases p <;> rfl
@[simp] theorem State.setPort_queue (p : Port) (x : PortState) : (s.setPort p x).queue = s.queue := by cases p <;> rfl
@[simp] theorem State.setPort_caverns (p : Port) (x : PortState) : (s.setPort p x).caverns = s.caverns := by cases p <;> rfl
@[simp] theorem State.setPort_bands (p : Port) (x : PortState) : (s.setPort p x).bands = s.bands := by cases p <;> rfl
@[simp] theorem State.setPort_stores (p : Port) (x : PortState) : (s.setPort p x).stores = s.stores := by cases p <;> rfl
@[simp] theorem State.setPort_layers (p : Port) (x : PortState) : (s.setPort p x).layers = s.layers := by cases p <;> rfl
@[simp] theorem State.setPort_reservations (p : Port) (x : PortState) : (s.setPort p x).reservations = s.reservations := by cases p <;> rfl
@[simp] theorem State.setPort_engine (p : Port) (x : PortState) : (s.setPort p x).engine = s.engine := by cases p <;> rfl
@[simp] theorem State.setPort_slots (p : Port) (x : PortState) : (s.setPort p x).slots = s.slots := by cases p <;> rfl
@[simp] theorem State.setPort_history (p : Port) (x : PortState) : (s.setPort p x).history = s.history := by cases p <;> rfl
@[simp] theorem State.setPort_act (p : Port) (x : PortState) : (s.setPort p x).act = s.act := by cases p <;> rfl
@[simp] theorem State.setPort_shares (p : Port) (x : PortState) : (s.setPort p x).shares = s.shares := by cases p <;> rfl
@[simp] theorem State.setPort_scan (p : Port) (x : PortState) : (s.setPort p x).scan = s.scan := by cases p <;> rfl
@[simp] theorem State.setPort_points (p : Port) (x : PortState) : (s.setPort p x).points = s.points := by cases p <;> rfl
@[simp] theorem State.setPort_bus (p : Port) (x : PortState) : (s.setPort p x).bus = s.bus := by cases p <;> rfl
@[simp] theorem State.setPort_routes (p : Port) (x : PortState) : (s.setPort p x).routes = s.routes := by cases p <;> rfl
@[simp] theorem State.setPort_faults (p : Port) (x : PortState) : (s.setPort p x).faults = s.faults := by cases p <;> rfl
@[simp] theorem State.setPort_tiers (p : Port) (x : PortState) : (s.setPort p x).tiers = s.tiers := by cases p <;> rfl
@[simp] theorem State.setPort_free (p : Port) (x : PortState) : (s.setPort p x).free = s.free := by cases p <;> rfl

/-! ### Entries read after a write -/

@[simp] theorem State.run_modRun_same (t : TrainId) (f : TrainRun → TrainRun) : (s.modRun t f).run t = f (s.run t) := by
  simp [State.run, State.train, State.modRun, State.setTrain]

theorem State.run_modRun (t u : TrainId) (f : TrainRun → TrainRun) :
    (s.modRun t f).run u = if u = t then f (s.run t) else s.run u := by
  simp only [State.run, State.train, State.modRun, State.setTrain, upd_get]
  split <;> rfl

@[simp] theorem State.cfg_modRun (t u : TrainId) (f : TrainRun → TrainRun) : (s.modRun t f).cfg u = s.cfg u := by
  simp only [State.cfg, State.train, State.modRun, State.setTrain, upd_get]
  split
  · next h => subst h; rfl
  · rfl

theorem State.cavern_modCavern (c d : CavernId) (f : CavernRun → CavernRun) :
    (s.modCavern c f).cavern d = if d = c then { s.cavern c with run := f (s.cavern c).run } else s.cavern d := by
  simp only [State.cavern, State.modCavern, modAt_get]

@[simp] theorem State.port_setPort_same (p : Port) (x : PortState) : (s.setPort p x).port p = x := by cases p <;> rfl

@[simp] theorem State.port_setPort_other (p : Port) (x : PortState) :
    (s.setPort p x).port (otherPort p) = s.port (otherPort p) := by cases p <;> rfl

end Sys2Proof.Machine
end

