-- ==== Sys2Proof/Laws/Keeps.lean ====
section
/-! SUPPORT. What an operation can touch, said once: a property that survives every change of certain fields, each
within its bounds, is kept by every operation of the blocks that own them.  Used with a property that reads other
fields it is a frame; used with the bounds of Safety.lean it is an invariant. -/

namespace Sys2Proof.Machine

/-- A property kept by a change of the ports. -/
structure KeepsLink (P : State → Prop) : Prop where
  link : ∀ (s : State) (l : Link), (s.link.bounded = true → l.bounded = true) → P s → P { s with link := l }

/-- A property kept by what a fault changes. -/
structure KeepsFault (P : State → Prop) : Prop extends KeepsLink P where
  faults : ∀ (s : State) (x : FaultLog), (s.faults.bounded = true → x.bounded = true) → P s → P { s with faults := x }
  tiers : ∀ (s : State) (v : Vector Tier 3), (∀ k, (v.get k).mask = (s.tiers.get k).mask) → P s →
    P { s with tiers := v }

/-- A property kept by what the drive queue changes. -/
structure KeepsDrive (P : State → Prop) : Prop extends KeepsLink P where
  queue : ∀ (s : State) (q : Queue), (s.queue.entries.length ≤ queueDepth → q.entries.length ≤ queueDepth) →
    (s.queue.polls.length ≤ pollDepth → q.polls.length ≤ pollDepth) →
    (s.queue.holdsCommands → q.holdsCommands) →
    (s.gateOpen = true ∨ (s.queue.holdsCommands → s.queue.quiet → q.quiet)) → P s → P { s with queue := q }

/-- A cavern table in which a direction is IDLE exactly where nothing holds it. -/
def cavernsDirected (v : Vector Cavern 2) : Prop := ∀ c, (v.get c).run.direction = none ↔ (v.get c).run.holders = 0

/-- A property kept by what the train sequencer, the envelope's claims and the reservation list change. -/
structure KeepsPlant (P : State → Prop) : Prop extends KeepsFault P, KeepsDrive P where
  trains : ∀ (s : State) (v : Vector Train 6), P s → P { s with trains := v }
  caverns : ∀ (s : State) (v : Vector Cavern 2), (cavernsDirected s.caverns → cavernsDirected v) → P s →
    P { s with caverns := v }
  reservations : ∀ (s : State) (l : List Reservation),
    (s.reservations.length ≤ reservationDepth → l.length ≤ reservationDepth) → P s → P { s with reservations := l }
  slots : ∀ (s : State) (v : Vector Slot 48), (slotsBounded s.slots = true → slotsBounded v = true) → P s →
    P { s with slots := v }
  stopRequests : ∀ (s : State) (l : List StopRequest), P s → P { s with stopRequests := l }

/-- A property kept also by what a measured point changes. -/
structure KeepsMeasure (P : State → Prop) : Prop extends KeepsPlant P where
  stores : ∀ (s : State) (v : Vector Store 4), P s → P { s with stores := v }
  layers : ∀ (s : State) (v : Vector Layer 64), P s → P { s with layers := v }
  points : ∀ (s : State) (v : Vector Point 48), P s → P { s with points := v }

/-- A property kept also by what the admission and translation units change. -/
structure KeepsDispatch (P : State → Prop) : Prop extends KeepsPlant P where
  cache : ∀ (s : State) (v : Vector CacheEntry 16), (cacheUnique s.cache → cacheUnique v) → P s → P { s with cache := v }
  lru : ∀ (s : State) (v : Vector Bool 8), P s → P { s with lru := v }
  free : ∀ (s : State) (n : Nat), P s → P { s with free := n }

/-- A property kept also by what the schedule engine and the reserve unit change. -/
structure KeepsSchedule (P : State → Prop) : Prop extends KeepsDispatch P where
  engine : ∀ (s : State) (e : Engine), P s → P { s with engine := e }
  act : ∀ (s : State) (a : Activation), P s → P { s with act := a }
  shares : ∀ (s : State) (v : Vector Share 6), P s → P { s with shares := v }
  history : ∀ (s : State) (l : List Settlement),
    (s.history.length ≤ historyDepth → l.length ≤ historyDepth) → P s → P { s with history := l }

/-- A property kept also by what the station unit changes. -/
structure KeepsStations (P : State → Prop) : Prop extends KeepsPlant P where
  stations : ∀ (s : State) (v : Vector Station 32), P s → P { s with stations := v }
  roll : ∀ (s : State) (r : RollCall), P s → P { s with roll := r }

/-- A property kept also by what the instrument bus controller changes. -/
structure KeepsBus (P : State → Prop) : Prop extends KeepsMeasure P where
  bus : ∀ (s : State) (b : Bus), P s → P { s with bus := b }
  free : ∀ (s : State) (n : Nat), P s → P { s with free := n }

/-! ### Lists -/

/-- A fold whose every step keeps a property keeps it. -/
theorem foldl_keeps {α σ : Type} {P : σ → Prop} {f : σ → α → σ} (hf : ∀ s a, P s → P (f s a)) (l : List α) :
    ∀ s, P s → P (l.foldl f s) := by
  induction l with
  | nil => intro s h; exact h
  | cons a l ih => intro s h; exact ih _ (hf s a h)

/-! ### Ports -/

section
variable {P : State → Prop}

theorem enqueue_bounded (x : PortState) (f : Frame) (h : x.tx.length ≤ txDepth) : (enqueue x f).tx.length ≤ txDepth := by
  unfold enqueue
  split
  · next c => simp at c ⊢; omega
  · exact h

theorem KeepsLink.setPort (K : KeepsLink P) {s : State} (h : P s) (p : Port) (x : PortState)
    (b : (s.port p).tx.length ≤ txDepth → x.tx.length ≤ txDepth) : P (s.setPort p x) := by
  cases p <;> refine K.link s _ ?_ h <;> simp [Link.bounded, State.port] at * <;> tauto

theorem KeepsLink.hand (K : KeepsLink P) {s : State} (h : P s) (p : Port) (f : Frame) : P (s.hand p f) :=
  K.setPort h p _ (enqueue_bounded _ _)

theorem KeepsLink.answer (K : KeepsLink P) {s : State} (h : P s) (cls : Byte) (dst seq : HWord) (items : List Item) :
    P (s.answer cls dst seq items) := K.hand h _ _

theorem KeepsLink.emit (K : KeepsLink P) {s : State} (h : P s) (p : Port) (cls : Byte) (dst : HWord)
    (items : List Item) : P (s.emit p cls dst items) := 
  K.hand (K.setPort h p { s.port p with counter := (s.port p).counter + 1 } id) p _

/-! ### Faults -/

theorem faultLog_add_bounded (l : FaultLog) (r : FaultRecord) (h : l.bounded = true) : (l.add r).bounded = true := by
  simp only [FaultLog.bounded, FaultLog.add, Bool.and_eq_true, decide_eq_true_eq] at *
  split
  · next c => simp; omega
  · simp [ringDepth] at *
    refine ⟨by omega, ?_⟩
    split <;> omega

theorem KeepsFault.modTier (K : KeepsFault P) {s : State} (h : P s) (k : TierId) (f : Tier → Tier)
    (hm : ∀ t, (f t).mask = t.mask) : P (s.modTier k f) := by
  refine K.tiers s _ (fun j => ?_) h
  rw [modAt_get]
  split
  · next e => subst e; exact hm _
  · rfl

theorem KeepsFault.notify (K : KeepsFault P) {s : State} (h : P s) (k : TierId) (r : FaultRecord) : P (s.notify k r) := by
  unfold State.notify
  extract_lets t c
  have h1 : P (s.modTier k fun t => { t with pending := addBit t.pending c.val }) := K.modTier h k _ fun _ => rfl
  split
  · exact K.modTier h k _ fun _ => rfl
  · split
    · exact h1
    · split
      · exact h1
      · exact K.emit (K.modTier h1 k (fun t => { t with carried := upd t.carried r.cause 0 }) fun _ => rfl) _ _ _ _

theorem KeepsFault.raise (K : KeepsFault P) {s : State} (h : P s) (f : FaultInfo) : P (s.raise f) :=
  K.notify (K.faults s _ (faultLog_add_bounded _ _) h) _ _

end

end Sys2Proof.Machine
end

