-- ==== Sys2Proof/Laws/KeepsDrive.lean ====
section
/-! SUPPORT. What the drive queue's operations keep: the queue stays within its places, everything else but the ports is
left alone. -/

namespace Sys2Proof.Machine

variable {P : State → Prop}

theorem KeepsDrive.shorter (K : KeepsDrive P) {s : State} (h : P s) (f : Queue → Queue)
    (he : (f s.queue).entries.length ≤ s.queue.entries.length) (hp : (f s.queue).polls.length ≤ s.queue.polls.length)
    (hh : s.queue.holdsCommands → (f s.queue).holdsCommands := by exact fun q => q)
    (hq : s.queue.quiet → (f s.queue).quiet := by exact fun q => q) : P (s.modQueue f) :=
  K.queue s _ (le_trans he) (le_trans hp) hh (Or.inr fun _ => hq) h

/-- Removing entries and pending dispatches keeps a queue quiet. -/
theorem quiet_of_part {q r : Queue} (he : ∀ e ∈ r.entries, e ∈ q.entries)
    (hp : ∀ t, r.pendings.get t = none ∨ r.pendings.get t = q.pendings.get t) (h : q.quiet) : r.quiet := by
  refine ⟨fun e m => h.1 e (he e m), fun t => ?_⟩
  rcases hp t with a | a
  · exact a
  · rw [a]; exact h.2 t

/-- Emptying holds leaves commands in the others. -/
theorem holds_of_part {q r : Queue} (hh : ∀ t, r.holds.get t = none ∨ r.holds.get t = q.holds.get t)
    (h : q.holdsCommands) : r.holdsCommands := by
  intro t e m
  rcases hh t with a | a
  · rw [a] at m; cases m
  · rw [a] at m; exact h t e m

/-- A place cleared reads absent, the others as before. -/
theorem upd_none {n : Nat} {α : Type} (v : Vector (Option α) n) (i j : Fin n) :
    (upd v i none).get j = none ∨ (upd v i none).get j = v.get j := by
  rw [upd_get]
  split
  · exact Or.inl rfl
  · exact Or.inr rfl

theorem KeepsDrive.startPacing (K : KeepsDrive P) {s : State} (h : P s) (t : TrainId) : P (s.startPacing t) :=
  K.shorter h _ (le_refl _) (le_refl _)

theorem KeepsDrive.sendDrive (K : KeepsDrive P) {s : State} (h : P s) (t : TrainId) (k : Byte) (e : Entry) :
    P (s.sendDrive t k e) := K.startPacing (K.emit h _ _ _ _) t

theorem KeepsDrive.sendTrip (K : KeepsDrive P) {s : State} (h : P s) (t : TrainId) (o : Origin)
    (st sq : Option HWord) (tag : HWord) : P (s.sendTrip t o st sq tag) := K.sendDrive h _ _ _

theorem KeepsLink.handPolls (K : KeepsLink P) {s : State} (h : P s) (ps : List HeldPoll) : P (s.handPolls ps) :=
  foldl_keeps (P := P) (f := fun s (p : HeldPoll) => s.hand .d p.frame) (fun _ _ h => K.hand h _ _) ps s h

theorem KeepsDrive.releasePolls (K : KeepsDrive P) {s : State} (h : P s) : P s.releasePolls :=
  K.handPolls (K.shorter h _ (le_refl _) (List.length_filter_le _ _)) _

theorem refillHold_entries (q : Queue) (t : TrainId) (h : q.entries.length ≤ queueDepth) :
    (q.refillHold t).entries.length ≤ queueDepth := by
  unfold Queue.refillHold
  split
  · split
    · simp only [List.length_append, List.length_singleton]
      omega
    · exact h
  · exact h

theorem refillPending_entries (q : Queue) (t : TrainId) (h : q.entries.length ≤ queueDepth) :
    (q.refillPending t).entries.length ≤ queueDepth := by
  unfold Queue.refillPending
  split
  · split
    · simp only [List.length_append, List.length_singleton]
      omega
    · exact h
  · exact h

theorem refillHold_polls (q : Queue) (t : TrainId) : (q.refillHold t).polls = q.polls := by
  unfold Queue.refillHold
  split
  · split <;> rfl
  · rfl

theorem refillPending_polls (q : Queue) (t : TrainId) : (q.refillPending t).polls = q.polls := by
  unfold Queue.refillPending
  split
  · split <;> rfl
  · rfl

theorem refillHold_quiet (q : Queue) (t : TrainId) (h : q.holdsCommands ∧ q.quiet) :
    (q.refillHold t).holdsCommands ∧ (q.refillHold t).quiet := by
  unfold Queue.refillHold
  split
  · next e he =>
    split
    · refine ⟨holds_of_part (fun u => upd_none _ _ _) h.1, fun x m => ?_, h.2.2⟩
      rcases List.mem_append.1 m with a | a
      · exact h.2.1 x a
      · rw [List.mem_singleton.1 a]; exact (h.1 t e he).2
    · exact h
  · exact h

theorem refillPending_quiet (q : Queue) (t : TrainId) (h : q.holdsCommands ∧ q.quiet) :
    (q.refillPending t).holdsCommands ∧ (q.refillPending t).quiet := by
  unfold Queue.refillPending
  rw [h.2.2 t]
  exact h

theorem refill_quiet (q : Queue) (h : q.holdsCommands) (g : q.quiet) : q.refill.quiet :=
  (foldl_keeps (P := fun q : Queue => q.holdsCommands ∧ q.quiet) refillPending_quiet _ _
    (foldl_keeps (P := fun q : Queue => q.holdsCommands ∧ q.quiet) refillHold_quiet _ _ ⟨h, g⟩)).2

theorem refillHold_holds (q : Queue) (t : TrainId) (h : q.holdsCommands) : (q.refillHold t).holdsCommands := by
  unfold Queue.refillHold
  split
  · split
    · exact holds_of_part (fun u => upd_none _ _ _) h
    · exact h
  · exact h

theorem refillPending_holds (q : Queue) (t : TrainId) (h : q.holdsCommands) : (q.refillPending t).holdsCommands := by
  unfold Queue.refillPending
  split
  · split <;> exact h
  · exact h

theorem refill_holds (q : Queue) (h : q.holdsCommands) : q.refill.holdsCommands :=
  foldl_keeps (P := Queue.holdsCommands) refillPending_holds _ _
    (foldl_keeps (P := Queue.holdsCommands) refillHold_holds _ _ h)

theorem refill_entries (q : Queue) (h : q.entries.length ≤ queueDepth) : q.refill.entries.length ≤ queueDepth :=
  foldl_keeps (P := fun q : Queue => q.entries.length ≤ queueDepth) refillPending_entries _ _
    (foldl_keeps (P := fun q : Queue => q.entries.length ≤ queueDepth) refillHold_entries _ _ h)

/-- R77: a refill touches no held poll. -/
theorem refill_polls (q : Queue) : q.refill.polls = q.polls :=
  foldl_keeps (P := fun r : Queue => r.polls = q.polls) (fun r t h => (refillPending_polls r t).trans h) _ _
    (foldl_keeps (P := fun r : Queue => r.polls = q.polls) (fun r t h => (refillHold_polls r t).trans h) _ _ rfl)

theorem KeepsDrive.departOne (K : KeepsDrive P) {s u : State} (h : P s) (e : s.departOne = some u) : P u := by
  unfold State.departOne at e
  split at e
  · cases e
  · cases e
    exact K.sendDrive (K.shorter h _ (List.length_erase_le) (le_refl _)
      (fun q => q) (quiet_of_part (fun _ m => List.mem_of_mem_erase m) fun _ => Or.inr rfl)) _ _ _

theorem KeepsDrive.drain (K : KeepsDrive P) (n : Nat) : ∀ {s : State}, P s → P (s.drain n) := by
  induction n with
  | zero => intro s h; exact h
  | succ n ih =>
    intro s h
    have h1 : P (s.modQueue Queue.refill) := K.queue s _ (refill_entries _) (by rw [refill_polls]; exact id) (refill_holds _) (Or.inr (refill_quiet _)) h
    unfold State.drain
    dsimp only
    split
    · exact h1
    · next e => exact ih (K.departOne h1 e)

theorem KeepsDrive.settle (K : KeepsDrive P) {s : State} (h : P s) : P s.settle :=
  K.releasePolls (K.drain 7 (K.releasePolls h))

theorem KeepsDrive.settleSince (K : KeepsDrive P) {u : State} (h : P u) (s : State) : P (u.settleSince s) := by
  unfold State.settleSince
  split
  · exact h
  · exact K.settle h

/-- An event that leaves the drive queue as it stands has nothing to settle. -/
theorem settleSince_of_queue {u s : State} (h : u.queue = s.queue) : u.settleSince s = u := if_pos h

/-! ### Events over several trains (R88) -/

/-- A state with another poll hold list. -/
def State.withPolls (l : List HeldPoll) (s : State) : State := s.modQueue fun q => { q with polls := l }

/-- What the drive queue's operations keep, they keep of a state read with another poll hold list. -/
theorem KeepsDrive.withPolls (K : KeepsDrive P) (l : List HeldPoll) : KeepsDrive fun u => P (u.withPolls l) where
  link := fun u x => K.link (u.withPolls l) x
  queue := fun u q he _ hh hq h => K.queue (u.withPolls l) { q with polls := l } he id hh hq h

theorem KeepsPlant.withPolls (K : KeepsPlant P) (l : List HeldPoll) : KeepsPlant fun u => P (u.withPolls l) where
  toKeepsDrive := K.toKeepsDrive.withPolls l
  faults := fun u => K.faults (u.withPolls l)
  tiers := fun u => K.tiers (u.withPolls l)
  trains := fun u => K.trains (u.withPolls l)
  caverns := fun u => K.caverns (u.withPolls l)
  reservations := fun u => K.reservations (u.withPolls l)
  slots := fun u => K.slots (u.withPolls l)
  stopRequests := fun u => K.stopRequests (u.withPolls l)

/-- An event over several trains keeps what it keeps with the held polls set aside, and what handing them over keeps. -/
theorem KeepsDrive.pollsLast (K : KeepsDrive P) {s : State} (f : State → State)
    (hf : P ((f (s.withPolls [])).withPolls s.queue.polls)) : P (s.pollsLast f) :=
  K.handPolls (KeepsDrive.shorter K (f := fun q => { q with polls := s.queue.polls.filter fun p =>
      !(s.queue.ahead p.train p.stamp != 0 && (f (s.withPolls [])).queue.ahead p.train p.stamp == 0) }) hf (le_refl _)
    (List.length_filter_le _ _)) _

/-- R88: an event that leaves the drive queue as it stands releases no poll. -/
theorem pollsLast_of_queue (s : State) (f : State → State)
    (h : (f (s.withPolls [])).queue = (s.withPolls []).queue) : s.pollsLast f = (f (s.withPolls [])).withPolls s.queue.polls := by
  have none_gone : ∀ p : HeldPoll, (s.queue.ahead p.train p.stamp != 0 &&
      (f (s.withPolls [])).queue.ahead p.train p.stamp == 0) = false := by
    intro p
    rw [h]
    show (s.queue.ahead p.train p.stamp != 0 && s.queue.ahead p.train p.stamp == 0) = false
    cases s.queue.ahead p.train p.stamp <;> rfl
  unfold State.pollsLast
  simp only [State.withPolls] at none_gone ⊢
  simp [none_gone, State.handPolls]

theorem KeepsDrive.withdraw (K : KeepsDrive P) {s : State} (h : P s) (t : TrainId) : P (s.withdraw t) :=
  K.shorter h _ (List.length_filter_le _ _) (le_refl _)
    (holds_of_part fun _ => upd_none _ _ _) (quiet_of_part (fun _ m => (List.mem_filter.1 m).1) fun _ => Or.inr rfl)

theorem KeepsDrive.withdrawKind (K : KeepsDrive P) {s : State} (h : P s) (t : TrainId) (k : DriveKind) :
    P (s.withdrawKind t k) := by
  refine K.shorter h _ (List.length_filter_le _ _) (le_refl _)
    (holds_of_part fun u => ?_) (quiet_of_part (fun _ m => (List.mem_filter.1 m).1) fun _ => Or.inr rfl)
  dsimp only
  split
  · split
    · exact upd_none _ _ _
    · exact Or.inr rfl
  · exact Or.inr rfl

theorem quiet_append {q : Queue} {e : Entry} (he : e.kind.isQuantity = false) (n : Nat) (h : q.quiet) :
    Queue.quiet { q with entries := q.entries ++ [e], stamp := n } := by
  refine ⟨fun x m => ?_, h.2⟩
  rcases List.mem_append.1 m with a | a
  · exact h.1 x a
  · rw [List.mem_singleton.1 a]; exact he

theorem hold_command {q : Queue} {e : Entry} {t : TrainId} (he : e.train = t ∧ e.kind.isQuantity = false) (n : Nat)
    (h : q.holdsCommands) : Queue.holdsCommands { q with holds := upd q.holds t (some e), stamp := n } := by
  intro u x m
  dsimp only at m
  rw [upd_get] at m
  split at m
  · next i => cases m; subst i; exact he
  · exact h u x m

theorem KeepsDrive.placeCommand (K : KeepsDrive P) {s : State} (h : P s) (t : TrainId) (k : DriveKind) (v : Int)
    (ref : Option ItemRef) (hk : k.isQuantity = false := by rfl) : P (s.placeCommand t k v ref).1 := by
  unfold State.placeCommand
  have h1 := K.withdraw h t
  dsimp only
  split
  · next c =>
    refine K.queue _ _ (fun _ => ?_) id (fun q => q) (Or.inr fun _ => quiet_append hk _) h1
    simp only [List.length_append, List.length_singleton]
    omega
  · exact K.queue _ _ id id (fun q => hold_command (t := t) (And.intro rfl hk) _ q) (Or.inr fun _ q => q) h1

theorem KeepsDrive.dropQuantities (K : KeepsDrive P) {s : State} (h : P s) (t : TrainId) : P (s.dropQuantities t) :=
  K.shorter h _ (List.length_filter_le _ _) (le_refl _)
    (fun q => q) (quiet_of_part (fun _ m => (List.mem_filter.1 m).1) fun _ => upd_none _ _ _)

theorem KeepsDrive.dropTrain (K : KeepsDrive P) {s : State} (h : P s) (t : TrainId) : P (s.dropTrain t) :=
  K.shorter h _ (List.length_filter_le _ _) (le_refl _)
    (holds_of_part fun _ => upd_none _ _ _)
    (quiet_of_part (fun _ m => (List.mem_filter.1 m).1) fun _ => upd_none _ _ _)

theorem replicate_none_get {α : Type} (t : TrainId) : (Vector.replicate 6 (none : Option α)).get t = none := by
  show (Vector.replicate 6 (none : Option α))[t.val] = none
  simp

theorem KeepsDrive.flushGate (K : KeepsDrive P) {s : State} (h : P s) : P s.flushGate :=
  K.settle (K.handPolls (K.shorter h _ (List.length_filter_le _ _) (Nat.zero_le _)
    (fun q => q) (quiet_of_part (fun _ m => (List.mem_filter.1 m).1) fun t => Or.inl (replicate_none_get t))) _)

theorem KeepsDrive.expirePacing (K : KeepsDrive P) {s : State} (h : P s) (t : TrainId) : P (s.expirePacing t) :=
  K.settle (K.shorter h _ (le_refl _) (le_refl _))

theorem KeepsPlant.takePoll (K : KeepsPlant P) {s : State} (h : P s) (t : TrainId) (f : Frame) (a b : HWord) :
    P (s.takePoll t f a b) := by
  unfold State.takePoll
  split
  · exact K.hand h _ _
  · split
    · next c =>
      refine K.queue _ _ id (fun _ => ?_) (fun q => q) (Or.inr fun _ q => q) h
      simp only [List.length_append, List.length_singleton]
      omega
    · exact K.answer (K.raise h _) _ _ _ _

theorem KeepsPlant.modRun (K : KeepsPlant P) {s : State} (h : P s) (t : TrainId) (f : TrainRun → TrainRun) :
    P (s.modRun t f) := K.trains s _ h

theorem append_entries (q : Queue) (o : Offer) (c : q.entries.length < queueDepth) :
    (q.append o).entries.length ≤ queueDepth := by
  simp only [Queue.append, List.length_append, List.length_singleton]
  omega

theorem KeepsPlant.placeOffer (K : KeepsPlant P) {s : State} (h : P s) (o : Offer) : P (s.placeOffer o).1 := by
  unfold State.placeOffer
  have h1 : P (s.modRun o.train fun r => r.place o.kind o.value) := K.modRun h _ _
  split
  · exact h
  · split
    · exact h
    · next g =>
      have g1 : (s.modRun o.train fun r => r.place o.kind o.value).gateOpen = true := by simpa using g
      dsimp only
      split
      · exact K.queue _ _ (by simp) id (fun q => q) (Or.inl g1) h1
      · split
        · split
          · next c =>
            exact K.queue _ _ (fun _ => append_entries _ _ (lt_trans c (by decide))) id (fun q => q) (Or.inl g1) h1
          · exact h
        · split
          · next c => exact K.queue _ _ (fun _ => append_entries _ _ c) id (fun q => q) (Or.inl g1) h1
          · exact K.queue _ _ id id (fun q => q) (Or.inl g1) h1

theorem KeepsPlant.offer (K : KeepsPlant P) {s : State} (h : P s) (o : Offer) : P (s.offer o).1 := by
  unfold State.offer
  dsimp only
  exact K.settle (K.placeOffer h o)

end Sys2Proof.Machine
end

