-- ==== Sys2Proof/Laws/KeepsPlant.lean ====
section
/-! SUPPORT. What the envelope's claims, the reservation list and the train sequencer keep. -/

namespace Sys2Proof.Machine

variable {P : State → Prop}

/-! ### Stop requests, claims -/

theorem KeepsPlant.requestStop (K : KeepsPlant P) {s : State} (h : P s) (t : TrainId) (c : Cause) :
    P (s.requestStop t c) := K.stopRequests s _ h

/-- A change of one cavern's running condition keeps direction and holders in step where it does so itself. -/
theorem directed_modAt {v : Vector Cavern 2} (c : CavernId) (f : CavernRun → CavernRun)
    (hf : ∀ r : CavernRun, (r.direction = none ↔ r.holders = 0) → ((f r).direction = none ↔ (f r).holders = 0))
    (h : cavernsDirected v) : cavernsDirected (modAt v c fun x => { x with run := f x.run }) := by
  intro d
  rw [modAt_get]
  split
  · exact hf _ (h c)
  · exact h d

theorem KeepsPlant.modCavern (K : KeepsPlant P) {s : State} (h : P s) (c : CavernId) (f : CavernRun → CavernRun)
    (hf : ∀ r : CavernRun, (r.direction = none ↔ r.holders = 0) → ((f r).direction = none ↔ (f r).holders = 0)) :
    P (s.modCavern c f) := K.caverns s _ (directed_modAt c f hf) h

/-- A change of one cavern that leaves direction and holders. -/
theorem KeepsPlant.modCavern' (K : KeepsPlant P) {s : State} (h : P s) (c : CavernId) (f : CavernRun → CavernRun)
    (hd : ∀ r, (f r).direction = r.direction := by intro _; rfl) (hh : ∀ r, (f r).holders = r.holders := by intro _; rfl) :
    P (s.modCavern c f) := K.modCavern h c f fun r hr => by rw [hd, hh]; exact hr

theorem addBit_ne_zero (s : TrainSet) (t : TrainId) : addBit s t.val ≠ 0 := by
  intro h
  have := congrArg (fun x : TrainSet => x.getLsbD t.val) h
  simp [addBit] at this

theorem drop_directed (r : CavernRun) (t : TrainId) (h : r.direction = none ↔ r.holders = 0) :
    (r.drop t).direction = none ↔ (r.drop t).holders = 0 := by
  unfold CavernRun.drop
  dsimp only
  split
  · next e => simp [e]
  · next e =>
    constructor
    · intro hd
      exact absurd (by simp [dropBit, h.1 hd]) e
    · intro hz
      exact absurd hz e

theorem KeepsPlant.unclaim (K : KeepsPlant P) {s : State} (h : P s) (t : TrainId) : P (s.unclaim t) := by
  unfold State.unclaim
  dsimp only
  split
  · exact K.modCavern h _ _ fun r hr => drop_directed r t hr
  · exact h

theorem KeepsPlant.claim (K : KeepsPlant P) {s u : State} (h : P s) (t : TrainId) (m : RunMode)
    (e : s.claim t m = some u) : P u := by
  unfold State.claim at e
  have after : ∀ {x : State}, P x → ∀ b : Prop, ∀ _ : Decidable b,
      P (if b then x.requestStop t Cause.blindStop else x) := by
    intro x hx b _
    split
    · exact K.requestStop hx _ _
    · exact hx
  dsimp only at e
  split at e
  · cases e
    exact after (K.modCavern h _ _ fun r _ => iff_of_false (by simp) (addBit_ne_zero _ _)) _ _
  · next d hd =>
    split at e
    · cases e
      refine after (K.caverns s _ ?_ h) _ _
      intro hv c
      rw [modAt_get]
      split
      · have hn : (s.cavern (s.cfg t).cavern).run.direction ≠ none := by rw [hd]; simp
        constructor
        · intro x; exact absurd x hn
        · intro x; exact absurd x (addBit_ne_zero _ _)
      · exact hv c
    · cases e

/-! ### The reservation list -/

theorem KeepsPlant.modReservations (K : KeepsPlant P) {s : State} (h : P s)
    (f : List Reservation → List Reservation) (hf : ∀ l, (f l).length ≤ l.length) : P (s.modReservations f) :=
  K.reservations s _ (fun b => le_trans (hf _) b) h

theorem replaceRecord_length (l : List Reservation) (a b : Reservation) : (replaceRecord l a b).length = l.length := by
  simp [replaceRecord]

theorem KeepsPlant.replace (K : KeepsPlant P) {s : State} (h : P s) (a b : Reservation) :
    P (s.modReservations fun l => replaceRecord l a b) :=
  K.modReservations h _ fun l => le_of_eq (replaceRecord_length l a b)

theorem KeepsPlant.releaseHeat (K : KeepsPlant P) {s : State} (h : P s) (t : TrainId) : P (s.releaseHeat t) :=
  K.modReservations h _ fun _ => List.length_filter_le _ _

theorem KeepsPlant.grantHeat (K : KeepsPlant P) {s u : State} (h : P s) (a : HeatAsk) (e : s.grantHeat a = .ok u) :
    P u := by
  unfold State.grantHeat at e
  dsimp only at e
  have made : ∀ n, s.reservations.length < reservationDepth →
      P (s.modReservations fun l => l ++ [s.grantRecord a n]) := by
    intro n hn
    refine K.reservations s _ (fun _ => ?_) h
    simp
    omega
  split at e
  · cases e; exact h
  · split at e
    · cases e
    · split at e
      · cases e
      · next c =>
        split at e
        · cases e
        · split at e
          · cases e; exact made _ (by omega)
          · split at e
            · cases e; exact made _ (by omega)
            · cases e

theorem KeepsPlant.exhausted (K : KeepsPlant P) {s : State} (h : P s) (r : Reservation) : P (s.exhausted r) := by
  unfold State.exhausted
  dsimp only
  split
  · exact K.replace h _ _
  · exact K.requestStop h _ _

theorem KeepsPlant.consume (K : KeepsPlant P) {s : State} (h : P s) (t : TrainId) (rep : LastReport) :
    P (s.consume t rep) := by
  unfold State.consume
  split
  · split
    · exact h
    · dsimp only
      split
      · exact K.exhausted (K.replace h _ _) _
      · exact K.replace h _ _
  · exact h

theorem KeepsPlant.trimOne (K : KeepsPlant P) {x : State × Nat} (h : P x.1) (r : Reservation) :
    P (State.trimOne x r).1 := by
  obtain ⟨s, n⟩ := x
  unfold State.trimOne
  dsimp only
  split
  · exact h
  · split
    · split
      · exact K.raise (K.modReservations h _ fun _ => List.length_erase_le) _
      · exact K.raise (K.replace h _ _) _
    · split
      · exact h
      · exact K.raise (K.replace h _ _) _

theorem KeepsPlant.trimKind (K : KeepsPlant P) {s : State} (h : P s) (i : StoreId) (k : HeatKind) :
    P (s.trimKind i k) :=
  foldl_keeps (P := fun x : State × Nat => P x.1) (fun _ _ hx => K.trimOne hx _) _ _ h

theorem KeepsPlant.trim (K : KeepsPlant P) {s : State} (h : P s) (i : StoreId) : P (s.trim i) := by
  unfold State.trim
  exact foldl_keeps (P := P) (fun _ _ hx => K.exhausted hx _) _ _ (K.trimKind (K.trimKind h _ _) _ _)

theorem KeepsPlant.askNext (K : KeepsPlant P) {s : State} (h : P s) (t : TrainId) (n : Word) (g : Int) :
    P (s.askNext t n g) := by
  unfold State.askNext
  split
  · split
    · exact h
    · split
      · exact h
      · split
        · next e => exact K.grantHeat h _ e
        · exact K.raise h _
  · exact h

theorem KeepsPlant.rollAsk (K : KeepsPlant P) {s : State} (h : P s) (t : TrainId) (m : RunMode) (n : Word) (g : Int) :
    P (s.rollAsk t m n g) := by
  unfold State.rollAsk
  split
  · next e => exact K.grantHeat h _ e
  · exact K.requestStop h _ _

theorem KeepsPlant.rollHeat (K : KeepsPlant P) {s : State} (h : P s) (t : TrainId) (n : Word) (g : Int) :
    P (s.rollHeat t n g) := by
  unfold State.rollHeat
  split
  · exact h
  · split
    · split
      · exact h
      · have h1 := fun r => K.modReservations h (fun l => l.erase r) fun _ => List.length_erase_le
        dsimp only
        split
        · exact K.replace (h1 _) _ _
        · exact K.rollAsk (h1 _) _ _ _ _
    · split
      · exact h
      · exact K.rollAsk h _ _ _ _

/-! ### Slots -/

theorem KeepsPlant.modSlotAt (K : KeepsPlant P) {s : State} (h : P s) (p : Fin 48) (f : Slot → Slot)
    (hf : ∀ x : Slot, x.commits.length ≤ 8 → (f x).commits.length ≤ 8) : P (s.modSlotAt p f) := by
  refine K.slots s _ (fun hb => ?_) h
  simp only [slotsBounded, List.all_eq_true, decide_eq_true_eq] at *
  intro q hq
  rw [modAt_get]
  split
  · exact hf _ (hb p (by
      have : ∀ p : Fin 48, p ∈ fins 48 := by decide
      exact this p))
  · exact hb q hq

theorem KeepsPlant.modActive (K : KeepsPlant P) {s : State} (h : P s) (f : Slot → Slot)
    (hf : ∀ x : Slot, x.commits.length ≤ 8 → (f x).commits.length ≤ 8) : P (s.modActive f) := by
  unfold State.modActive
  split
  · exact K.modSlotAt h _ f hf
  · exact h

/-! ### The sequencer -/

theorem KeepsPlant.seqRaise (K : KeepsPlant P) {s : State} (h : P s) (t : TrainId) (f : FaultInfo) :
    P (s.seqRaise t f) := K.raise (K.modRun h _ _) _

theorem KeepsPlant.enter (K : KeepsPlant P) {s : State} (h : P s) (t : TrainId) (n : TrainState) : P (s.enter t n) := by
  unfold State.enter
  dsimp only
  have a : P (if (s.run t).state.holdsHeat && !n.holdsHeat then s.releaseHeat t else s) := by
    split
    · exact K.releaseHeat h t
    · exact h
  revert a
  generalize (if (s.run t).state.holdsHeat && !n.holdsHeat then s.releaseHeat t else s) = s1
  intro a
  have b : P (if (s.run t).state.holdsClaim && !n.holdsClaim then s1.unclaim t else s1) := by
    split
    · exact K.unclaim a t
    · exact a
  revert b
  generalize (if (s.run t).state.holdsClaim && !n.holdsClaim then s1.unclaim t else s1) = s2
  intro b
  have c : P (if (s.run t).state = .running ∧ n ≠ .running then
      (s2.dropQuantities t).modRun t fun r => { r with power := 0, reactive := 0, reheat := 0 } else s2) := by
    split
    · exact K.modRun (K.dropQuantities b t) _ _
    · exact b
  split
  · exact K.modActive (K.modRun c _ _) _ fun _ h => h
  · exact K.modRun c _ _

theorem KeepsPlant.startTimer (K : KeepsPlant P) {s : State} (h : P s) (t : TrainId) (k : TrainTimer) (n : Nat) :
    P (s.startTimer t k n) := K.modRun h _ _

theorem KeepsPlant.cancelTimer (K : KeepsPlant P) {s : State} (h : P s) (t : TrainId) : P (s.cancelTimer t) :=
  K.modRun h _ _

theorem KeepsPlant.setEngaged (K : KeepsPlant P) {s : State} (h : P s) (t : TrainId) (m : Mode) : P (s.setEngaged t m) := by
  unfold State.setEngaged
  split
  · exact K.modRun h _ _
  · exact h

theorem KeepsPlant.engagedFrom (K : KeepsPlant P) {s : State} (h : P s) (t : TrainId) (rep : LastReport) :
    P (s.engagedFrom t rep) := by
  unfold State.engagedFrom
  split
  · exact K.setEngaged h _ _
  · exact h

theorem KeepsPlant.enterRest (K : KeepsPlant P) {s : State} (h : P s) (t : TrainId) : P (s.enterRest t) := by
  unfold State.enterRest
  dsimp only
  split
  · exact K.seqRaise (K.modRun (K.enter h _ _) _ _) _ _
  · split <;> exact K.enter h _ _

theorem KeepsPlant.seqRefuse (K : KeepsPlant P) {s : State} (h : P s) (t : TrainId) (q : Request) (c : Cause) :
    P (s.seqRefuse t q c).1 := K.seqRaise h _ _

theorem KeepsPlant.startChecks (K : KeepsPlant P) {s u : State} (h : P s) (t : TrainId) (m : RunMode) (q : Request)
    (e : s.startChecks t m q = .ok u) : P u := by
  unfold State.startChecks at e
  dsimp only at e
  repeat (split at e; · cases e)
  rename_i hc
  exact K.grantHeat (K.claim h _ _ hc) _ e

theorem KeepsPlant.startAccepted (K : KeepsPlant P) {s : State} (h : P s) (t : TrainId) (m : RunMode) (q : Request) :
    P (s.startAccepted t m q).1 := by
  unfold State.startAccepted
  dsimp only
  split <;> dsimp only <;>
    exact K.settle (K.placeCommand (K.modRun (K.enter (K.modRun h _ _) _ _) _ _) _ _ _ _)

theorem KeepsPlant.requestStart (K : KeepsPlant P) {s : State} (h : P s) (t : TrainId) (m : RunMode) (q : Request) :
    P (s.requestStart t m q).1 := by
  unfold State.requestStart
  split
  · exact K.seqRefuse h _ _ _
  · next e => exact K.startAccepted (K.startChecks h _ _ _ e) _ _ _

theorem KeepsPlant.beginStop (K : KeepsPlant P) {s : State} (h : P s) (t : TrainId) (ref : Option ItemRef) :
    P (s.beginStop t ref).1 := by
  unfold State.beginStop
  dsimp only
  exact K.settle (K.placeCommand (K.modRun (K.enter h _ _) _ _) _ _ _ _)

theorem KeepsPlant.requestStopNow (K : KeepsPlant P) {s : State} (h : P s) (t : TrainId) (c : Option Cause)
    (q : Request) : P (s.requestStopNow t c q).1 := by
  have b := K.beginStop h t q.ref
  unfold State.requestStopNow
  dsimp only
  generalize s.beginStop t q.ref = r at b ⊢
  split
  · split
    · exact K.seqRaise b _ _
    · exact b
  · split
    · exact K.seqRaise b _ _
    · exact b
  · split
    · exact K.seqRaise b _ _
    · exact b
  · exact h
  · exact h
  · exact h
  · exact K.seqRefuse h _ _ _
  · exact K.seqRefuse h _ _ _

theorem KeepsPlant.takeStopRequest (K : KeepsPlant P) {s : State} (h : P s) : P s.takeStopRequest := by
  unfold State.takeStopRequest
  split
  · exact h
  · exact K.requestStopNow (K.stopRequests s _ h) _ _ _

theorem KeepsPlant.takeDown (K : KeepsPlant P) {s : State} (h : P s) (t : TrainId) : P (s.takeDown t) := by
  unfold State.takeDown
  exact K.modRun (K.modRun (K.enter (K.dropTrain h _) _ _) _ _) _ _

theorem KeepsPlant.tripBySequencer (K : KeepsPlant P) {s : State} (h : P s) (t : TrainId) (f : FaultInfo) :
    P (s.tripBySequencer t f) := K.seqRaise (K.takeDown (K.sendTrip h _ _ _ _ _) _) _ _

theorem KeepsPlant.tripByReport (K : KeepsPlant P) {s : State} (h : P s) (t : TrainId) (rep : LastReport) :
    P (s.tripByReport t rep) := K.seqRaise (K.settle (K.takeDown h _)) _ _

theorem KeepsPlant.requestTrip (K : KeepsPlant P) {s : State} (h : P s) (t : TrainId) (q : Request) :
    P (s.requestTrip t q).1 := by
  unfold State.requestTrip
  dsimp only
  split
  · exact K.seqRaise (K.settle (K.takeDown (K.sendTrip h _ _ _ _ _) _)) _ _
  · exact K.sendTrip h _ _ _ _ _

theorem KeepsPlant.tripEnvelope (K : KeepsPlant P) {s : State} (h : P s) (t : TrainId) (p : Int) :
    P (s.tripEnvelope t p) := by
  unfold State.tripEnvelope
  split
  · exact K.tripBySequencer h _ _
  · exact h

theorem KeepsPlant.ptripTrain (K : KeepsPlant P) {s : State} (h : P s) (t : TrainId) : P (s.ptripTrain t) := by
  unfold State.ptripTrain
  have h1 : P (s.modRun t fun r => { r with tripLine := true }) := K.modRun h _ _
  dsimp only
  split
  · exact K.tripBySequencer h1 _ _
  · split
    · exact K.modRun (K.withdrawKind h1 _ _) _ _
    · exact h1

theorem KeepsPlant.requestReset (K : KeepsPlant P) {s : State} (h : P s) (t : TrainId) (q : Request) :
    P (s.requestReset t q).1 := by
  unfold State.requestReset
  split
  · exact K.seqRefuse h _ _ _
  · split
    · exact K.seqRefuse h _ _ _
    · dsimp only
      exact K.settle (K.placeCommand (K.modRun h _ _) _ _ _ _)

theorem KeepsPlant.requestControl (K : KeepsPlant P) {s : State} (h : P s) (t : TrainId) (a : Bool) (q : Request) :
    P (s.requestControl t a q).1 := by
  unfold State.requestControl
  split
  · exact K.seqRefuse h _ _ _
  · dsimp only
    exact K.modRun h _ _

theorem KeepsPlant.requestLock (K : KeepsPlant P) {s : State} (h : P s) (t : TrainId) (q : Request) :
    P (s.requestLock t q).1 := by
  unfold State.requestLock
  split
  · dsimp only
    exact K.modRun (K.enter h _ _) _ _
  · exact h
  · exact K.seqRefuse h _ _ _

theorem KeepsPlant.requestUnlock (K : KeepsPlant P) {s : State} (h : P s) (t : TrainId) (q : Request) :
    P (s.requestUnlock t q).1 := by
  unfold State.requestUnlock
  split
  · dsimp only
    exact K.enter (K.modRun h _ _) _ _
  · exact K.seqRefuse h _ _ _

theorem KeepsPlant.admitQuantity (K : KeepsPlant P) {s : State} (h : P s) (t : TrainId) (k : DriveKind) (l : Nat)
    (q : Request) : P (s.admitQuantity t k l q).1 := by
  unfold State.admitQuantity
  dsimp only
  split
  · exact K.seqRaise h _ _
  · split
    · exact K.seqRaise h _ _
    · split
      · split
        · exact K.seqRaise (K.modRun h _ _) _ _
        · exact K.seqRaise h _ _
      · exact h

theorem KeepsPlant.toUnknown (K : KeepsPlant P) {s : State} (h : P s) (t : TrainId) : P (s.toUnknown t) := by
  unfold State.toUnknown
  exact K.modRun (K.modRun (K.enter (K.dropTrain h _) _ _) _ _) _ _

theorem KeepsPlant.resyncRunning (K : KeepsPlant P) {s : State} (h : P s) (t : TrainId) (m : RunMode)
    (rep : LastReport) : P (s.resyncRunning t m rep) := by
  unfold State.resyncRunning
  have h1 := K.modRun (K.enter h t .running) t fun r =>
    { r with power := resyncPower rep ((s.cfg t).rated (some m)),
             reactive := resyncReactive rep (s.cfg t).reactiveLimit, reheat := 0 }
  dsimp only
  split
  · next e => exact K.grantHeat h1 _ e
  · exact K.seqRaise (K.beginStop h1 _ _) _ _

theorem KeepsPlant.resyncMoving (K : KeepsPlant P) {s : State} (h : P s) (t : TrainId) (rep : LastReport) (b : Bool) :
    P (s.resyncMoving t rep b) := by
  unfold State.resyncMoving
  have h1 := K.setEngaged (K.modRun h t fun r => { r with mode := s.resyncMode t rep }) t (s.resyncMode t rep)
  dsimp only
  split
  · exact K.settle (K.tripBySequencer h1 _ _)
  · split
    · exact K.settle (K.tripBySequencer h1 _ _)
    · split
      · exact K.settle (K.tripBySequencer h1 _ _)
      · next e =>
        have h2 := K.claim h1 _ _ e
        split
        · exact K.resyncRunning h2 _ _ _
        · exact K.beginStop h2 _ _

theorem KeepsPlant.resync (K : KeepsPlant P) {s : State} (h : P s) (t : TrainId) (rep : LastReport) :
    P (s.resync t rep) := by
  unfold State.resync
  split
  · exact h
  · exact K.enterRest (K.engagedFrom h _ _) _
  · exact K.settle (K.takeDown (K.engagedFrom h _ _) _)
  all_goals exact K.resyncMoving h _ _ _

theorem KeepsPlant.unexpected (K : KeepsPlant P) {s : State} (h : P s) (t : TrainId) : P (s.unexpected t) :=
  K.seqRaise h _ _

theorem KeepsPlant.reportEngaging (K : KeepsPlant P) {s : State} (h : P s) (t : TrainId) (rep : LastReport) :
    P (s.reportEngaging t rep) := by
  unfold State.reportEngaging
  split
  · split
    · split
      · exact K.settle (K.placeCommand (K.modRun (K.enter (K.setEngaged h _ _) _ _) _ _) _ _ _ _)
      · exact h
    · exact h
  · split
    · split
      · exact K.settle (K.placeCommand (K.modRun (K.enter (K.setEngaged h _ _) _ _) _ _) _ _ _ _)
      · exact h
    · exact h
  · split
    · split
      · exact K.settle (K.placeCommand (K.modRun (K.enter (K.setEngaged h _ _) _ _) _ _) _ _ _ _)
      · exact h
    · exact h
  all_goals first
    | with_reducible exact K.unexpected (K.beginStop (K.engagedFrom h _ _) _ _) _
    | with_reducible exact K.tripByReport (K.engagedFrom h _ _) _ _

theorem KeepsPlant.reachRunning (K : KeepsPlant P) {s : State} (h : P s) (t : TrainId) : P (s.reachRunning t) :=
  K.offer (K.modRun (K.modRun (K.enter h _ _) _ _) _ _) _

theorem KeepsPlant.reportStarting (K : KeepsPlant P) {s : State} (h : P s) (t : TrainId) (rep : LastReport) :
    P (s.reportStarting t rep) := by
  unfold State.reportStarting
  split <;> first
    | with_reducible exact h
    | with_reducible exact K.reachRunning h _
    | with_reducible exact K.unexpected (K.beginStop h _ _) _
    | with_reducible exact K.tripByReport h _ _

theorem KeepsPlant.reportRunning (K : KeepsPlant P) {s : State} (h : P s) (t : TrainId) (rep : LastReport) :
    P (s.reportRunning t rep) := by
  unfold State.reportRunning
  split <;> first
    | with_reducible exact h
    | with_reducible exact K.unexpected (K.settle (K.enterRest h _)) _
    | with_reducible exact K.unexpected (K.settle (K.startTimer (K.enter h _ _) _ _ _)) _
    | with_reducible exact K.tripByReport h _ _

theorem KeepsPlant.reportStopping (K : KeepsPlant P) {s : State} (h : P s) (t : TrainId) (rep : LastReport) :
    P (s.reportStopping t rep) := by
  unfold State.reportStopping
  split <;> first
    | with_reducible exact h
    | with_reducible exact K.enterRest (K.engagedFrom (K.cancelTimer h _) _ _) _
    | with_reducible exact K.tripByReport (K.engagedFrom h _ _) _ _

theorem KeepsPlant.reportTripped (K : KeepsPlant P) {s : State} (h : P s) (t : TrainId) (rep : LastReport) :
    P (s.reportTripped t rep) := by
  unfold State.reportTripped
  split
  · exact K.enterRest (K.modRun h _ _) _
  · exact h

theorem KeepsPlant.reportStandstill (K : KeepsPlant P) {s : State} (h : P s) (t : TrainId) (rep : LastReport) :
    P (s.reportStandstill t rep) := by
  unfold State.reportStandstill
  split <;> first
    | with_reducible exact h
    | with_reducible exact K.tripByReport h _ _
    | with_reducible exact K.resync (K.unexpected h _) _ _

theorem KeepsPlant.reportLocked (K : KeepsPlant P) {s : State} (h : P s) (t : TrainId) (rep : LastReport) :
    P (s.reportLocked t rep) := by
  unfold State.reportLocked
  split <;> first
    | with_reducible exact h
    | with_reducible exact K.tripByReport h _ _
    | with_reducible exact K.settle (K.tripBySequencer h _ _)

theorem KeepsPlant.recordReport (K : KeepsPlant P) {s : State} (h : P s) (t : TrainId) (rep : LastReport) :
    P (s.recordReport t rep) := by
  unfold State.recordReport
  dsimp only
  split
  · exact K.engagedFrom (K.modRun h _ _) _ _
  · exact K.modRun h _ _

theorem KeepsPlant.actOnReport (K : KeepsPlant P) {s : State} (h : P s) (t : TrainId) (rep : LastReport) :
    P (s.actOnReport t rep) := by
  unfold State.actOnReport
  split
  · exact K.resync h _ _
  · exact K.reportStandstill h _ _
  · exact K.reportEngaging h _ _
  · exact K.reportStarting h _ _
  · exact K.reportRunning h _ _
  · exact K.reportStopping h _ _
  · exact K.reportTripped h _ _
  · exact K.reportLocked h _ _

theorem KeepsPlant.readReport (K : KeepsPlant P) {s : State} (h : P s) (rep : LastReport) (t : TrainId) :
    P (s.readReport rep t) := K.consume (K.actOnReport (K.recordReport h _ _) _ _) _ _

theorem KeepsPlant.expireEngage (K : KeepsPlant P) {s : State} (h : P s) (t : TrainId) : P (s.expireEngage t) := by
  unfold State.expireEngage
  split
  · exact K.seqRaise (K.settle (K.enterRest (K.modRun (K.withdrawKind (K.modRun h _ _) _ _) _ _) _)) _ _
  · exact h

theorem KeepsPlant.expireStart (K : KeepsPlant P) {s : State} (h : P s) (t : TrainId) : P (s.expireStart t) := by
  unfold State.expireStart
  split
  · exact K.seqRaise (K.beginStop (K.modRun h _ _) _ _) _ _
  · exact h

theorem KeepsPlant.expireStop (K : KeepsPlant P) {s : State} (h : P s) (t : TrainId) : P (s.expireStop t) := by
  unfold State.expireStop
  split
  · exact K.settle (K.tripBySequencer h _ _)
  · exact h

end Sys2Proof.Machine
end

