-- ==== Sys2Proof/Laws/KeepsDispatch.lean ====
section
/-! SUPPORT. What translation, admission, the reserve unit and the schedule engine keep. -/

namespace Sys2Proof.Machine

variable {P : State → Prop}

theorem KeepsSchedule.withPolls (K : KeepsSchedule P) (l : List HeldPoll) :
    KeepsSchedule fun u => P (u.withPolls l) where
  toKeepsPlant := K.toKeepsPlant.withPolls l
  cache := fun u => K.cache (u.withPolls l)
  lru := fun u => K.lru (u.withPolls l)
  free := fun u => K.free (u.withPolls l)
  engine := fun u => K.engine (u.withPolls l)
  act := fun u => K.act (u.withPolls l)
  shares := fun u => K.shares (u.withPolls l)
  history := fun u => K.history (u.withPolls l)

/-! ### Translation -/

theorem cacheFind_none (s : State) (b : Bool) (n : Nat) (h : cacheFind s b n = none) (w : Bool) :
    (s.cache.get (cacheIndex (cacheSet n) w)).hits b n = false := by
  unfold cacheFind at h
  rw [List.find?_eq_none] at h
  have := h w (by cases w <;> simp)
  simpa using this

theorem cacheIndex_of_set (j : Fin 16) (k : Fin 8) (h : k.val = j.val / 2) : ∃ w, j = cacheIndex k w := by
  rcases Nat.mod_two_eq_zero_or_one j.val with e | e
  · exact ⟨false, Fin.ext (by simp [cacheIndex]; omega)⟩
  · exact ⟨true, Fin.ext (by simp [cacheIndex]; omega)⟩

/-- R36: a fill after a miss leaves no key twice. -/
theorem cacheUnique_fill (s : State) (b : Bool) (n : Nat) (w : Bool) (r : Resolution) (h : cacheFind s b n = none)
    (u : cacheUnique s.cache) : cacheUnique (upd s.cache (cacheIndex (cacheSet n) w) (filledEntry b n r)) := by
  have clash : ∀ j, (s.cache.get j).valid = true → (s.cache.get j).isPosition = b → (s.cache.get j).key = n → False := by
    intro j hv hp hk
    have hs := (u j hv).1
    rw [hk] at hs
    obtain ⟨x, rfl⟩ := cacheIndex_of_set j _ hs
    have := cacheFind_none s b n h x
    simp [CacheEntry.hits, hv, hp, hk] at this
  intro i hi
  rw [upd_get] at hi ⊢
  by_cases e : i = cacheIndex (cacheSet n) w
  · subst e
    simp only [if_true] at hi ⊢
    refine ⟨?_, fun j hj hp hk => ?_⟩
    · show (cacheSet n).val = ((cacheSet n).val * 2 + (if w then 1 else 0)) / 2
      split <;> omega
    · rw [upd_get] at hj hp hk
      by_cases f : j = cacheIndex (cacheSet n) w
      · exact f
      · rw [if_neg f] at hj hp hk
        exact (clash j hj hp hk).elim
  · rw [if_neg e] at hi ⊢
    refine ⟨(u i hi).1, fun j hj hp hk => ?_⟩
    rw [upd_get] at hj hp hk
    by_cases f : j = cacheIndex (cacheSet n) w
    · rw [if_pos f] at hp hk
      exact (clash i hi hp.symm hk.symm).elim
    · rw [if_neg f] at hj hp hk
      exact (u i hi).2 j hj hp hk

/-- R37: a fence leaves no key twice. -/
theorem cacheUnique_invalidate (v : Vector CacheEntry 16) (q : CacheEntry → Bool) (u : cacheUnique v) :
    cacheUnique (tabMap (fun e => if e.valid && q e then { e with valid := false } else e) v) := by
  have same : ∀ i, ((tabMap (fun e : CacheEntry => if e.valid && q e then { e with valid := false } else e) v).get i).valid =
      true → (tabMap (fun e : CacheEntry => if e.valid && q e then { e with valid := false } else e) v).get i = v.get i := by
    intro i hi
    rw [tabMap_get] at hi ⊢
    split
    · next c => rw [if_pos c] at hi; cases hi
    · rfl
  intro i hi
  have ei := same i hi
  rw [ei] at hi ⊢
  refine ⟨(u i hi).1, fun j hj hp hk => ?_⟩
  have ej := same j hj
  rw [ej] at hj hp hk
  exact (u i hi).2 j hj hp hk

theorem KeepsDispatch.lookup (K : KeepsDispatch P) {s : State} (h : P s) (b : Bool) (n : Nat) : P (s.lookup b n).1 := by
  unfold State.lookup
  extract_lets set
  split
  · next w _ =>
    have h1 := K.lru s (upd s.lru set (!w)) h
    dsimp only
    split <;> exact h1
  · next miss =>
    split
    · exact h
    · next r _ =>
      exact K.lru _ (upd s.lru set (!fillWay s set)) (K.cache s
        (upd s.cache (cacheIndex set (fillWay s set)) (filledEntry b n r)) (cacheUnique_fill s b n _ r miss) h)

theorem KeepsDispatch.resolveCommit (K : KeepsDispatch P) {s : State} (h : P s) (c : Commit) (n : Option Nat) :
    P (s.resolveCommit c n).1 := by
  have a := K.lookup h true c.position.val
  unfold State.resolveCommit
  split
  · next e => rw [e] at a; exact a
  · next e =>
    rw [e] at a
    split
    · split <;> exact a
    · exact a

theorem KeepsDispatch.resolve (K : KeepsDispatch P) {s : State} (h : P s) (i : Item) : P (s.resolve i).1 := by
  unfold State.resolve
  split
  · exact h
  · exact K.lookup h _ _

/-! ### Admission -/

theorem KeepsDispatch.command (K : KeepsDispatch P) {s : State} (h : P s) (src : Source) (i : Item) (r : Resolution) :
    P (s.command src i r).1 := by
  unfold State.command
  dsimp only
  split
  · split
    · exact K.requestStart h _ _ _
    · exact K.seqRefuse h _ _ _
  · split
    · exact K.requestStopNow h _ _ _
    · split
      · exact K.requestTrip h _ _
      · split
        · exact K.requestReset h _ _
        · split
          · exact K.requestControl h _ _ _
          · split
            · exact K.requestControl h _ _ _
            · split
              · exact K.requestLock h _ _
              · exact K.requestUnlock h _ _

theorem KeepsDispatch.reheatLimit (K : KeepsDispatch P) {s : State} (h : P s) (t : TrainId) : P (s.reheatLimit t).1 := by
  unfold State.reheatLimit
  dsimp only
  split
  · exact h
  · split
    · exact h
    · exact K.free s _ h

theorem KeepsDispatch.reheated (K : KeepsDispatch P) {s : State} (h : P s) (k : DriveKind) (t : TrainId) (v : Int) :
    P (s.reheated k t v).1 := by
  unfold State.reheated
  split
  · exact K.reheatLimit h _
  · exact h

theorem KeepsDispatch.refuse (K : KeepsDispatch P) {s : State} (h : P s) (f : FaultInfo) (c : Cause) :
    P (s.refuse f c).1 := K.raise h _

theorem KeepsDispatch.quantity (K : KeepsDispatch P) {s : State} (h : P s) (src : Source) (i : Item) (r : Resolution)
    (k : DriveKind) : P (s.quantity src i r k).1 := by
  unfold State.quantity
  extract_lets info ref
  have a := K.admitQuantity h r.train k src.level { item := info, ref := some ref }
  generalize s.admitQuantity r.train k src.level { item := info, ref := some ref } = x at a ⊢
  obtain ⟨s1, c | raised⟩ := x
  · exact a
  · dsimp only at a ⊢
    have b := K.reheated a k r.train (s1.limitedValue k r (askedValue k i))
    generalize s1.reheated k r.train (s1.limitedValue k r (askedValue k i)) = y at b ⊢
    obtain ⟨s2, _ | v⟩ := y
    · exact K.refuse b _ _
    · dsimp only at b ⊢
      have d := fun o => K.offer b o
      generalize hz : s2.offer _ = z
      have d1 : P z.1 := by rw [← hz]; exact d _
      clear hz
      obtain ⟨s3, ans⟩ := z
      dsimp only at d1 ⊢
      split
      · exact K.refuse d1 _ _
      · exact d1
      · exact d1
      · exact d1

theorem KeepsDispatch.handOn (K : KeepsDispatch P) {s : State} (h : P s) (src : Source) (i : Item) (r : Resolution) :
    P (s.handOn src i r).1 := by
  unfold State.handOn
  split
  · exact K.quantity h _ _ _ _
  · exact K.command h _ _ _

theorem KeepsDispatch.decideItem (K : KeepsDispatch P) {s : State} (h : P s) (src : Source) (i : Item) :
    P (s.decideItem src i).1 := by
  unfold State.decideItem
  dsimp only
  split
  · exact K.refuse h _ _
  · have a := K.resolve h i
    split
    · next e => rw [e] at a; exact K.refuse a _ _
    · next e =>
      rw [e] at a
      split
      · exact K.refuse a _ _
      · exact K.handOn a _ _ _

theorem KeepsDispatch.decideAll (K : KeepsDispatch P) (src : Source) (l : List Item) :
    ∀ {s : State}, P s → P (s.decideAll src l).1 := by
  induction l with
  | nil => intro s h; exact h
  | cons i l ih => intro s h; exact ih (K.decideItem h src i)

theorem KeepsDispatch.takeDispatch (K : KeepsDispatch P) {s : State} (h : P s) (src : Source) (a : Header)
    (l : List Item) : P (s.takeDispatch src a l) := by
  unfold State.takeDispatch
  have d := K.decideAll src l h
  generalize s.decideAll src l = r at d ⊢
  dsimp only
  split
  · exact K.answer d _ _ _ _
  · exact d

/-! ### The reserve unit -/

theorem KeepsSchedule.modAct (K : KeepsSchedule P) {s : State} (h : P s) (f : Activation → Activation) :
    P (s.modAct f) := K.act s _ h

theorem KeepsSchedule.modShare (K : KeepsSchedule P) {s : State} (h : P s) (t : TrainId) (f : Share → Share) :
    P (s.modShare t f) := K.shares s _ h

theorem KeepsSchedule.accumulate (K : KeepsSchedule P) {s : State} (h : P s) : P s.accumulate := by
  unfold State.accumulate
  split
  · exact h
  · have h1 : P (s.modActive fun x =>
        { x with accumulator := x.accumulator + Int.tdiv (s.act.applied * s.act.since) 1000 }) :=
      K.modActive h _ fun _ h => h
    exact K.modAct h1 _

theorem KeepsDispatch.bandOne (K : KeepsDispatch P) {x : State × ReserveBand} (h : P x.1) (c : Commit) :
    P (State.bandOne x c).1 := by
  unfold State.bandOne
  have a := K.resolveCommit h c (some allowReserve)
  split
  · next e => rw [e] at a; exact a
  · next e => rw [e] at a; exact a

theorem KeepsDispatch.reserveBand (K : KeepsDispatch P) {s : State} (h : P s) : P s.reserveBand.1 :=
  foldl_keeps (P := fun x : State × ReserveBand => P x.1) (fun _ _ hx => K.bandOne hx _) _ _ h

theorem KeepsSchedule.limitRequest (K : KeepsSchedule P) {s : State} (h : P s) (b : ReserveBand) :
    P (s.limitRequest b) := by
  unfold State.limitRequest
  extract_lets q l s1
  have h1 : P s1 := K.modAct h _
  clear_value s1
  split
  · exact h1
  · exact K.raise h1 _

theorem KeepsSchedule.splitOne (K : KeepsSchedule P) {x : State × Nat} (h : P x.1) (b : ReserveBand) (u : Bool)
    (t : TrainId) : P (State.splitOne b u x t).1 := by
  unfold State.splitOne
  split
  · exact K.modShare h _ _
  · exact K.modShare h _ _

theorem KeepsSchedule.split (K : KeepsSchedule P) {s : State} (h : P s) (b : ReserveBand) : P (s.split b) := by
  unfold State.split
  extract_lets l s1
  have h1 : P s1 :=
    foldl_keeps (P := fun x : State × Nat => P x.1) (fun _ _ hx => K.splitOne hx _ _ _) _ (s, l.natAbs) h
  clear_value s1
  exact K.modAct h1 _

theorem KeepsPlant.offerPower (K : KeepsPlant P) {s : State} (h : P s) (t : TrainId) (v : Nat) (o : Origin) :
    P (s.offerPower t v o) := by
  unfold State.offerPower
  extract_lets v1 v2
  split
  · exact h
  · exact K.offer h _

theorem KeepsSchedule.moveTrain (K : KeepsSchedule P) {s : State} (h : P s) (t : TrainId) : P (s.moveTrain t) := by
  unfold State.moveTrain
  extract_lets aim s1
  have h1 : P s1 := K.modShare h _ _
  clear_value s1
  split
  · exact K.offerPower h1 _ _ _
  · exact h1

theorem KeepsSchedule.moveTrains (K : KeepsSchedule P) {s : State} (h : P s) (c : TrainId → Bool) :
    P (s.moveTrains c) :=
  K.pollsLast _ (foldl_keeps (P := fun u => P (u.withPolls s.queue.polls)) (f := State.moveTrain)
    (fun _ _ hx => (K.withPolls s.queue.polls).moveTrain hx _) _ (s.withPolls []) h)

theorem KeepsSchedule.activate (K : KeepsSchedule P) {s : State} (h : P s) (i : Word) (r : Int) : P (s.activate i r) := by
  unfold State.activate
  extract_lets s1 b s2 s3
  have h1 : P s1 := K.modAct (K.accumulate h) _
  clear_value s1
  have hb : P b.1 := K.reserveBand h1
  clear_value b
  have h2 : P s2 := K.split (K.limitRequest hb _) _
  clear_value s2
  have h3 : P s3 := K.moveTrains h2 _
  clear_value s3
  exact K.modAct h3 _

theorem KeepsSchedule.endActivation (K : KeepsSchedule P) {s : State} (h : P s) : P s.endActivation := by
  unfold State.endActivation
  extract_lets s1 s2
  have h1 : P s1 := K.modAct (K.accumulate h) _
  clear_value s1
  have h2 : P s2 := K.shares s1 _ h1
  clear_value s2
  exact K.moveTrains h2 _

theorem KeepsSchedule.expireHold (K : KeepsSchedule P) {s : State} (h : P s) : P s.expireHold := by
  unfold State.expireHold
  split
  · exact h
  · exact K.raise (K.endActivation h) _

theorem KeepsSchedule.takeActivation (K : KeepsSchedule P) {s : State} (h : P s) (a : Header) (i : Item) :
    P (s.takeActivation a i) := by
  unfold State.takeActivation
  dsimp only
  split
  · exact K.raise (K.modAct h _) _
  · split
    · exact K.modAct h _
    · split
      · exact K.raise (K.modAct h _) _
      · split
        · exact K.modAct (K.endActivation h) _
        · exact K.activate h _ _

theorem KeepsSchedule.reserveNewSlot (K : KeepsSchedule P) {s : State} (h : P s) (b : TrainId → Nat) :
    P (s.reserveNewSlot b) := by
  unfold State.reserveNewSlot
  split
  · extract_lets c s1
    have hc : P c.1 := K.reserveBand h
    clear_value c
    have h1 : P s1 := K.split (K.limitRequest hc _) _
    clear_value s1
    exact K.moveTrains h1 _
  · exact h

theorem KeepsSchedule.dropShares (K : KeepsSchedule P) {s : State} (h : P s) : P s.dropShares := by
  unfold State.dropShares
  extract_lets gone s1
  split
  · exact h
  · have h1 : P s1 := foldl_keeps (P := P) (fun _ _ hx => K.modShare hx _ _) _ _ (K.accumulate h)
    clear_value s1
    exact K.modAct h1 _

theorem KeepsSchedule.clearActivation (K : KeepsSchedule P) {s : State} (h : P s) : P s.clearActivation := by
  unfold State.clearActivation
  extract_lets s1
  have h1 : P s1 := K.modAct (K.accumulate h) _
  clear_value s1
  exact K.shares s1 _ h1

/-! ### The schedule engine -/

theorem mem_fins48 : ∀ p : Fin 48, p ∈ fins 48 := by decide

theorem slotsBounded_iff (v : Vector Slot 48) : slotsBounded v = true ↔ ∀ p, (v.get p).commits.length ≤ 8 := by
  simp only [slotsBounded, List.all_eq_true, decide_eq_true_eq]
  exact ⟨fun h p => h p (mem_fins48 p), fun h p _ => h p⟩

theorem recordFor_bounded (s : State) (n : Word) (h : slotsBounded s.slots = true) :
    (s.recordFor n).commits.length ≤ 8 := by
  unfold State.recordFor
  split
  · exact (slotsBounded_iff _).1 h _
  · exact Nat.zero_le _

theorem KeepsPlant.putSlot (K : KeepsPlant P) {s : State} (h : P s) (n : Word) (x : Slot)
    (hx : slotsBounded s.slots = true → x.commits.length ≤ 8) : P (s.putSlot n x) := by
  refine K.slots s _ (fun hb => ?_) h
  rw [slotsBounded_iff]
  intro p
  rw [modAt_get]
  split
  · exact hx hb
  · exact (slotsBounded_iff _).1 hb p

theorem placeCommit_length (l m : List Commit) (c : Commit) (h : l.length ≤ 8) (e : placeCommit l c = some m) :
    m.length ≤ 8 := by
  unfold placeCommit at e
  split at e
  · cases e; simpa using h
  · split at e
    · cases e
    · cases e; simp; omega

theorem commitItem_bounded (s : State) (src : Source) (i : Item) (r x : Slot) (h : r.commits.length ≤ 8)
    (e : s.commitItem src i r = .ok x) : x.commits.length ≤ 8 := by
  unfold State.commitItem at e
  split at e
  · cases e
  · split at e
    · split at e
      · cases e
      · dsimp only at e
        split at e
        · next hp => cases e; exact placeCommit_length _ _ _ h hp
        · cases e
    · cases e

theorem actOnSlot_bounded (s : State) (src : Source) (i : Item) (r x : Slot) (h : r.commits.length ≤ 8)
    (e : s.actOnSlot src i r = .ok x) : x.commits.length ≤ 8 := by
  unfold State.actOnSlot at e
  split at e
  · exact commitItem_bounded _ _ _ _ _ h e
  · split at e
    · cases e; exact h
    · cases e; exact Nat.zero_le _

theorem KeepsPlant.scheduleItem (K : KeepsPlant P) {s : State} (h : P s) (src : Source) (i : Item) :
    P (State.scheduleItem src s i) := by
  unfold State.scheduleItem
  dsimp only
  split
  · exact K.raise h _
  · split
    · next e => exact K.putSlot h _ _ fun hb => actOnSlot_bounded _ _ _ _ _ (recordFor_bounded _ _ hb) e
    · exact K.raise h _

theorem KeepsPlant.takeSchedule (K : KeepsPlant P) {s : State} (h : P s) (src : Source) (l : List Item) :
    P (s.takeSchedule src l) := foldl_keeps (P := P) (fun _ _ hx => K.scheduleItem hx _ _) _ _ h

theorem KeepsPlant.passGate (K : KeepsPlant P) {s : State} (h : P s) (n : Word) : P (s.passGate n) := by
  unfold State.passGate
  dsimp only
  split
  · exact h
  · exact h
  · exact K.putSlot h _ _ fun hb => recordFor_bounded s n hb

theorem KeepsDispatch.targetOne (K : KeepsDispatch P) {w : TargetWork} (h : P w.state) (c : Commit) :
    P (Machine.targetOne w c).state := by
  unfold Machine.targetOne
  have a := K.resolveCommit h c (powerNeed c.power)
  split
  · next e => rw [e] at a; exact a
  · next e => rw [e] at a; exact a

theorem KeepsDispatch.workTargets (K : KeepsDispatch P) {s : State} (h : P s) (n : Word) : P (s.workTargets n).state :=
  foldl_keeps (P := fun w : TargetWork => P w.state) (fun _ _ hx => K.targetOne hx _) _ _ h

theorem addHistory_bounded (l : List Settlement) (r : Settlement) (h : l.length ≤ historyDepth) :
    (addHistory l r).length ≤ historyDepth := by
  unfold addHistory
  split
  · simp; omega
  · simp [historyDepth] at *
    omega

theorem KeepsSchedule.publish (K : KeepsSchedule P) {s : State} (h : P s) (x : Slot) (r : Settlement) :
    P (s.publish x r) := by
  unfold State.publish
  extract_lets s1
  have h1 : P s1 := K.history s _ (addHistory_bounded _ _) h
  clear_value s1
  split
  · exact K.emit h1 _ _ _ _
  · exact h1

theorem KeepsSchedule.closeSlot (K : KeepsSchedule P) {s : State} (h : P s) (n : Word) (m : Bool) :
    P (s.closeSlot n m) := by
  unfold State.closeSlot
  extract_lets r incomplete q x
  have h1 : P (s.putSlot n x) := K.putSlot h n x fun hb => recordFor_bounded s n hb
  exact K.publish h1 _ _

theorem KeepsPlant.takeBases (K : KeepsPlant P) {s : State} (h : P s) : P s.takeBases :=
  foldl_keeps (P := P) (fun _ _ hx => K.modRun hx _ _) _ _ h

theorem KeepsSchedule.openSlot (K : KeepsSchedule P) {s : State} (h : P s) (n : Word) : P (s.openSlot n) := by
  unfold State.openSlot
  extract_lets w s1 s2 s3
  have hw : P w.state := K.workTargets h n
  clear_value w
  have h1 : P s1 := K.modActive hw _ fun _ h => h
  clear_value s1
  have h2 : P s2 := foldl_keeps (P := P) (fun _ _ hx => K.raise hx _) _ _ h1
  clear_value s2
  have h3 : P s3 := K.modActive (K.takeBases h2) _ fun _ h => h
  clear_value s3
  exact K.modAct h3 _

theorem KeepsPlant.undelivered (K : KeepsPlant P) {s : State} (h : P s) : P s.undelivered :=
  K.modActive h _ fun _ h => h

theorem KeepsDispatch.searchOn (K : KeepsDispatch P) (a : Word) (p : Vector Int 6 → Bool) (n : Nat) :
    ∀ {x : Opening}, P x.1 → P (Machine.searchOn a p n x).1.1 := by
  induction n with
  | zero => intro x h; exact h
  | succ n ih =>
    intro x h
    unfold Machine.searchOn
    extract_lets k w y
    have hy : P y.1 := K.workTargets h k
    split
    · exact hy
    · exact ih hy

theorem KeepsDispatch.searchAhead (K : KeepsDispatch P) {x : Opening} (h : P x.1) (a : Word)
    (p : Vector Int 6 → Bool) : P (Machine.searchAhead a x p).1.1 := by
  unfold Machine.searchAhead
  split
  · exact h
  · exact K.searchOn a p _ h

theorem KeepsPlant.undeliveredFor (K : KeepsPlant P) {s : State} (h : P s) (t : TrainId) : P (s.undeliveredFor t) := by
  unfold State.undeliveredFor
  split
  · exact h
  · exact K.undelivered h

theorem KeepsPlant.stopUnscheduled (K : KeepsPlant P) {s : State} (h : P s) (t : TrainId) :
    P (s.stopUnscheduled t) := K.requestStopNow (K.undeliveredFor h t) _ _ _

theorem KeepsDispatch.dispatchTrain (K : KeepsDispatch P) {x : Opening} (h : P x.1) (a : Word) (t : TrainId) :
    P (Machine.dispatchTrain a x t).1 := by
  unfold Machine.dispatchTrain
  extract_lets m
  split
  · exact K.undeliveredFor h t
  · split
    · exact h
    · split
      · have hy := K.searchAhead h a fun v => inRunMode (v.get t) m
        split
        · next e => rw [e] at hy; exact hy
        · next e => rw [e] at hy; exact K.stopUnscheduled hy t
      · exact K.stopUnscheduled h t

theorem KeepsPlant.rollTrain (K : KeepsPlant P) {s : State} (h : P s) (a : Word) (t : TrainId) :
    P (State.rollTrain a s t) := by
  unfold State.rollTrain
  split
  · exact K.rollHeat h _ _ _
  · exact h

theorem KeepsPlant.startToward (K : KeepsPlant P) {s : State} (h : P s) (t : TrainId) (n : Word) (g : Int) :
    P (s.startToward t n g) := K.requestStart h _ _ _

theorem KeepsDispatch.startAhead (K : KeepsDispatch P) {x : Opening} (h : P x.1) (a : Word) (t : TrainId) :
    P (Machine.startAhead a x t).1 := by
  unfold Machine.startAhead
  split
  · split
    · exact K.startToward h _ _ _
    · have hy := K.searchAhead h a fun v => v.get t != 0
      split
      · next e => rw [e] at hy; exact K.startToward hy _ _ _
      · next e => rw [e] at hy; exact hy
  · exact h

theorem KeepsPlant.closedUndelivered (K : KeepsPlant P) {s : State} (h : P s) : P s.closedUndelivered := by
  unfold State.closedUndelivered
  split
  · exact K.undelivered h
  · exact h

theorem KeepsSchedule.runSlot (K : KeepsSchedule P) {s : State} (h : P s) (a : Word) (b : TrainId → Nat) :
    P (s.runSlot a b) := by
  unfold State.runSlot
  extract_lets s1 x s2
  have h1 : P s1 := K.reserveNewSlot h b
  clear_value s1
  have hx : P x.1 := foldl_keeps (P := fun x : Opening => P x.1) (fun _ _ hx => K.dispatchTrain hx _ _) _ (s1, []) h1
  clear_value x
  have h2 : P s2 := foldl_keeps (P := P) (fun _ _ hx => K.rollTrain hx _ _) _ _ hx
  clear_value s2
  exact foldl_keeps (P := fun x : Opening => P x.1) (fun _ _ hx => K.startAhead hx _ _) _ (s2, x.2) h2

theorem KeepsSchedule.afterOpening (K : KeepsSchedule P) {s : State} (h : P s) (a : Word) (b : TrainId → Nat) :
    P (s.afterOpening a b) := by
  unfold State.afterOpening
  split
  · exact K.pollsLast _ ((K.withPolls s.queue.polls).runSlot (s := s.withPolls []) h a b)
  · exact K.closedUndelivered h

theorem KeepsPlant.askNextFor (K : KeepsPlant P) {s : State} (h : P s) (n : Word) (v : Vector Int 6) (t : TrainId) :
    P (Machine.askNextFor n v s t) := by
  unfold Machine.askNextFor
  split
  · exact K.askNext h _ _ _
  · exact h

theorem KeepsSchedule.preReserve (K : KeepsSchedule P) {s : State} (h : P s) : P s.preReserve := by
  unfold State.preReserve
  extract_lets q s1
  have h1 : P s1 := K.engine s _ h
  clear_value s1
  split
  · exact h1
  · next a _ =>
    extract_lets n w
    split
    · have hw : P w.state := K.workTargets h1 n
      clear_value w
      exact foldl_keeps (P := P) (fun _ _ hx => K.askNextFor hx _ _ _) _ _ hw
    · exact h1

theorem KeepsSchedule.expirePre (K : KeepsSchedule P) {s : State} (h : P s) : P s.expirePre := by
  unfold State.expirePre
  split
  · exact K.preReserve h
  · exact h

theorem KeepsSchedule.activateSlot (K : KeepsSchedule P) {s : State} (h : P s) (n : Word) : P (s.activateSlot n) := by
  unfold State.activateSlot
  extract_lets q s1
  have h1 : P s1 := K.putSlot h n _ fun hb => recordFor_bounded s n hb
  clear_value s1
  exact K.engine s1 _ h1

theorem KeepsPlant.closeGateAhead (K : KeepsPlant P) {s : State} (h : P s) (n : Word) : P (s.closeGateAhead n) :=
  foldl_keeps (P := P) (fun _ _ hx => K.passGate hx _) _ _ h

theorem KeepsSchedule.boundary (K : KeepsSchedule P) {s : State} (h : P s) (a : Word) : P (s.boundary a) := by
  unfold State.boundary
  extract_lets n s1 q s2
  have h1 : P s1 := K.closeGateAhead (K.activateSlot (K.closeSlot (K.accumulate h) a false) n) n
  clear_value s1
  have h2 : P s2 := K.engine s1 _ h1
  clear_value s2
  exact K.afterOpening (K.openSlot h2 n) _ _

theorem KeepsSchedule.expireBoundary (K : KeepsSchedule P) {s : State} (h : P s) : P s.expireBoundary := by
  unfold State.expireBoundary
  split
  · exact K.boundary h _
  · exact h

theorem KeepsSchedule.synchronise (K : KeepsSchedule P) {s : State} (h : P s) (n : Word) (o : Nat)
    (b : TrainId → Nat) : P (s.synchronise n o b) := by
  unfold State.synchronise
  extract_lets r r1 s1 s2
  have hr : slotsBounded s.slots = true → r1.commits.length ≤ 8 := by
    intro hb
    show (if r.state = .closed then recycled n else r).commits.length ≤ 8
    split
    · exact Nat.zero_le _
    · exact recordFor_bounded s n hb
  have h1 : P s1 := K.putSlot h n _ hr
  clear_value s1
  have h2 : P s2 := K.engine s1 _ h1
  clear_value s2
  exact K.afterOpening (K.openSlot (K.closeGateAhead h2 n) n) _ _

theorem KeepsSchedule.correct (K : KeepsSchedule P) {s : State} (h : P s) (o : Nat) : P (s.correct o) := by
  unfold State.correct
  extract_lets err q s1 s2
  have h1 : P s1 := K.engine s _ h
  have h2 : P s2 := by
    show P (if s.part.timeTolerance < err then
      s1.modActive fun x => { x with flags := { x.flags with adjusted := true } } else s1)
    split
    · exact K.modActive h1 _ fun _ h => h
    · exact h1
  clear_value s2
  split
  · exact h2
  · split
    · exact K.engine s2 _ h2
    · exact K.preReserve h2

theorem KeepsSchedule.closeMissed (K : KeepsSchedule P) {s : State} (h : P s) (a : Word) (n : Nat) :
    P (s.closeMissed a n) := foldl_keeps (P := P) (fun _ _ hx => K.closeSlot hx _ _) _ _ h

theorem KeepsSchedule.jump (K : KeepsSchedule P) {s : State} (h : P s) (a n : Word) (o : Nat) : P (s.jump a n o) := by
  unfold State.jump
  extract_lets skipped s1 s2 s3
  have h1 : P s1 := K.modActive (K.accumulate h) _ fun _ h => h
  clear_value s1
  have h2 : P s2 := K.closeMissed (K.closeSlot h1 a false) a skipped
  clear_value s2
  have h3 : P s3 := by
    show P (if skipped = 0 then s2 else s2.raise
      { cause := Cause.slotMissed, category := some .schedule, slot := some n, detail := some (nat skipped) })
    split
    · exact h2
    · exact K.raise h2 _
  clear_value s3
  exact K.synchronise h3 _ _ _

theorem KeepsSchedule.takeMark (K : KeepsSchedule P) {s : State} (h : P s) (a : Header) (i : Item) :
    P (s.takeMark a i) := by
  unfold State.takeMark
  dsimp only
  split
  · exact h
  · split
    · exact K.synchronise h _ _ _
    · split
      · exact K.correct h _
      · split
        · exact K.raise h _
        · exact K.jump h _ _ _

theorem KeepsSchedule.expireMark (K : KeepsSchedule P) {s : State} (h : P s) : P s.expireMark := by
  unfold State.expireMark
  split
  · exact h
  · exact K.raise (K.engine s _ h) _

theorem KeepsSchedule.rampTrain (K : KeepsSchedule P) {s : State} (h : P s) (t : TrainId) : P (s.rampTrain t) := by
  unfold State.rampTrain
  split
  · exact h
  · extract_lets x aim rate s1
    have h1 : P s1 := K.offerPower h t _ .schedule
    clear_value s1
    split
    · exact K.modShare h1 _ _
    · exact h1

theorem KeepsSchedule.expireRamp (K : KeepsSchedule P) {s : State} (h : P s) : P s.expireRamp := by
  unfold State.expireRamp
  split
  · exact h
  · extract_lets q s1
    have h1 : P s1 := K.engine s _ h
    clear_value s1
    split
    · have h2 : P s1.dropShares := K.dropShares h1
      exact K.pollsLast _ (foldl_keeps (P := fun u => P (u.withPolls s1.dropShares.queue.polls)) (f := State.rampTrain)
        (fun _ _ hx => (K.withPolls _).rampTrain hx _) _ (s1.dropShares.withPolls []) h2)
    · exact h1

end Sys2Proof.Machine
end

