-- ==== Sys2Proof/Laws/KeepsMeasure.lean ====
section
/-! SUPPORT. What the recomputation of a store or a cavern and the operations of the instrument bus keep. -/

namespace Sys2Proof.Machine

variable {P : State → Prop}

/-! ### Stores and layers -/

theorem KeepsMeasure.modLayer (K : KeepsMeasure P) {s : State} (h : P s) (i : LayerId) (f : Layer → Layer) :
    P (s.modLayer i f) := K.layers s _ h

theorem KeepsMeasure.modPoint (K : KeepsMeasure P) {s : State} (h : P s) (i : ScanId) (f : Point → Point) :
    P (s.modPoint i f) := K.points s _ h

theorem KeepsMeasure.setStoreRun (K : KeepsMeasure P) {s : State} (h : P s) (i : StoreId) (r : StoreRun) :
    P (s.setStoreRun i r) := K.stores s _ h

theorem KeepsMeasure.account (K : KeepsMeasure P) {s : State} (h : P s) (i : StoreId) : P (s.account i) := by
  unfold State.account
  exact K.setStoreRun (foldl_keeps (P := P) (fun _ _ hx => K.modLayer hx _ _) _ _ h) _ _

theorem KeepsMeasure.recomputeStore (K : KeepsMeasure P) {s : State} (h : P s) (i : StoreId) : P (s.recomputeStore i) := by
  unfold State.recomputeStore
  split
  · exact K.trim (K.account h _) _
  · exact h

theorem KeepsMeasure.layerSuccess (K : KeepsMeasure P) {s : State} (h : P s) (i : LayerId) (v : Int) :
    P (s.layerSuccess i v) := K.modLayer h _ _

theorem KeepsMeasure.layerChanged (K : KeepsMeasure P) {s : State} (h : P s) (i : LayerId) : P (s.layerChanged i) := by
  unfold State.layerChanged
  split
  · exact K.recomputeStore h _
  · exact h

theorem KeepsMeasure.expireLayer (K : KeepsMeasure P) {s : State} (h : P s) (i : LayerId) : P (s.expireLayer i) := by
  unfold State.expireLayer
  split
  · exact h
  · dsimp only
    split
    · exact K.layerChanged (K.modPoint (K.modLayer h _ _) _ _) _
    · exact K.layerChanged (K.modLayer h _ _) _

/-! ### Caverns -/

theorem KeepsPlant.conditionChange (K : KeepsPlant P) {s : State} (h : P s) (c : CavernId) (o n : Condition) (d : Nat) :
    P (s.conditionChange c o n d) := by
  unfold State.conditionChange
  have idle : P (if o = .blind then s.modCavern c fun r => { r with blindTimer := .idle } else s) := by
    split
    · exact K.modCavern' h c _
    · exact h
  split
  · exact h
  · split
    · exact K.raise (K.modCavern' h c _) _
    · dsimp only
      split
      · exact K.raise idle _
      · exact idle

theorem KeepsPlant.compareHold (K : KeepsPlant P) {s : State} (h : P s) (c : CavernId) (o n : Bool) (r : Nat) :
    P (s.compareHold c o n r) := by
  unfold State.compareHold
  split
  · exact h
  · exact K.raise h _

theorem KeepsPlant.updateHolds (K : KeepsPlant P) {s : State} (h : P s) (c : CavernId) : P (s.updateHolds c) := by
  unfold State.updateHolds
  exact K.compareHold (K.compareHold (K.modCavern' h c _) _ _ _ _) _ _ _ _

theorem KeepsPlant.updateRates (K : KeepsPlant P) {s : State} (h : P s) (c : CavernId) (a b : Int) (x : Bool) :
    P (s.updateRates c a b x) := by
  unfold State.updateRates
  dsimp only
  split
  · split
    · exact K.modCavern' h c _
    · split
      · exact h
      · refine K.updateHolds (K.modCavern' h c _ ?_ ?_) c <;> intro r <;> split <;> rfl
  · exact K.modCavern' h c _

theorem KeepsPlant.tripHolders (K : KeepsPlant P) {s : State} (h : P s) (c : CavernId) (p : Int) :
    P (s.tripHolders c p) :=
  foldl_keeps (P := P) (f := fun s t => s.tripEnvelope t p) (fun _ _ hx => K.tripEnvelope hx _ _) _ _ h

theorem KeepsPlant.testHardLimits (K : KeepsPlant P) {s : State} (h : P s) (c : CavernId) (a b : Int) :
    P (s.testHardLimits c a b) := by
  unfold State.testHardLimits
  dsimp only
  split
  · split
    · exact K.tripHolders h _ _
    · exact h
  · split
    · exact K.tripHolders h _ _
    · exact h
  · exact h

theorem KeepsPlant.recomputed (K : KeepsPlant P) {s : State} (h : P s) (c : CavernId) : P (s.recomputed c) := by
  unfold State.recomputed
  extract_lets k a b changed
  split
  · exact h
  · split
    next cond high low _ =>
    extract_lets s1 s2
    have h1 : P s1 := K.modCavern' h c _
    have h2 : P s2 := K.conditionChange h1 _ _ _ _
    clear_value s2
    split
    · next x y _ =>
      have h3 := K.modCavern' h2 c fun r =>
        { r with chargeBand := some (s.bandFor c x), generateBand := some (s.bandFor c y) }
      exact K.testHardLimits (K.updateRates h3 _ _ _ _) _ _ _
    · exact K.modCavern' h2 c _

theorem KeepsPlant.recomputeCavern (K : KeepsPlant P) {s : State} (h : P s) (c : CavernId) : P (s.recomputeCavern c) :=
  K.settleSince (K.recomputed h c) s

theorem KeepsPlant.expireBlind (K : KeepsPlant P) {s : State} (h : P s) (c : CavernId) : P (s.expireBlind c) := by
  unfold State.expireBlind
  split
  · exact foldl_keeps (P := P) (fun _ _ hx => K.requestStop hx _ _) _ _ (K.modCavern' h c _)
  · exact h

theorem setStale_direction (r : CavernRun) (x : Transmitter) (v : Option Nat) :
    (r.setStale x v).direction = r.direction := by cases x <;> rfl

theorem setStale_holders (r : CavernRun) (x : Transmitter) (v : Option Nat) :
    (r.setStale x v).holders = r.holders := by cases x <;> rfl

theorem KeepsPlant.setStale (K : KeepsPlant P) {s : State} (h : P s) (c : CavernId) (x : Transmitter) (v : Option Nat) :
    P (s.modCavern c fun r => r.setStale x v) :=
  K.modCavern' h c _ (fun _ => setStale_direction _ _ _) (fun _ => setStale_holders _ _ _)

theorem KeepsMeasure.expireStaleness (K : KeepsMeasure P) {s : State} (h : P s) (c : CavernId) (x : Transmitter) :
    P (s.expireStaleness c x) := by
  unfold State.expireStaleness
  split
  · exact h
  · dsimp only
    split
    · exact K.recomputeCavern (K.modPoint (K.setStale h c x none) _ _) _
    · exact K.recomputeCavern (K.setStale h c x none) _

theorem KeepsMeasure.pointWritten (K : KeepsMeasure P) {s : State} (h : P s) (i : ScanId) (v : Option Int) :
    P (s.pointWritten i v) := by
  unfold State.pointWritten
  dsimp only
  split
  · split
    · split
      · exact K.recomputeCavern (K.setStale h _ _ _) _
      · exact K.recomputeCavern h _
    · exact h
  · split
    · split
      · exact K.layerChanged (K.layerSuccess h _ _) _
      · exact K.layerChanged h _
    · exact h
  · exact h

/-! ### The instrument bus -/

theorem KeepsBus.modBus (K : KeepsBus P) {s : State} (h : P s) (f : Bus → Bus) : P (s.modBus f) := K.bus s _ h

theorem KeepsLink.reply (K : KeepsLink P) {s : State} (h : P s) (d q : HWord) (i : Item) (l : List Item) :
    P (s.reply d q i l) := K.answer h _ _ _ _

theorem KeepsBus.replyDone (K : KeepsBus P) {s : State} (h : P s) (d q : HWord) (x : Status) (b c : Word)
    (l : List Item) : P (s.replyDone d q x b c l) := by
  unfold State.replyDone State.takeFree
  exact K.reply (K.free s _ h) _ _ _ _

theorem KeepsMeasure.scanOk (K : KeepsMeasure P) {s : State} (h : P s) (i : ScanId) (f : ScanEntry) (a b c : Byte) :
    P (s.scanOk i f a b c) := by
  unfold State.scanOk
  exact K.pointWritten (K.modPoint h _ _) _ _

theorem KeepsMeasure.scanFail (K : KeepsMeasure P) {s : State} (h : P s) (i : ScanId) (x : PointResult) :
    P (s.scanFail i x) := by
  unfold State.scanFail
  dsimp only
  split
  · exact K.pointWritten (K.raise (K.modPoint h _ _) _) _ _
  · exact K.pointWritten (K.modPoint h _ _) _ _

theorem KeepsBus.endRoundOnce (K : KeepsBus P) {s : State} (h : P s) : P s.endRoundOnce := by
  unfold State.endRoundOnce
  split
  · exact K.modBus h _
  · exact h

theorem KeepsBus.endRound (K : KeepsBus P) {s : State} (h : P s) : P s.endRound := K.endRoundOnce (K.endRoundOnce h)

theorem KeepsBus.arbitrate (K : KeepsBus P) {s : State} (h : P s) : P s.arbitrate := by
  unfold State.arbitrate
  have h1 := K.endRound h
  split
  · exact h
  · dsimp only
    split
    · exact K.modBus h1 _
    · split
      · exact K.modBus h1 _
      · exact h1

theorem KeepsBus.expireInterval (K : KeepsBus P) {s : State} (h : P s) : P s.expireInterval := by
  unfold State.expireInterval
  split
  · exact h
  · have h1 := K.modBus h fun b => { b with interval := some s.part.scanInterval }
    dsimp only
    split
    · exact h1
    · split
      · exact K.raise (K.modBus h1 _) _
      · exact K.arbitrate (K.endRound (K.modBus h1 _))

theorem KeepsBus.endTransfer (K : KeepsBus P) {s : State} (h : P s) (r : TransferResult) (n : Nat) (l : List Byte) :
    P (s.endTransfer r n l) := by
  unfold State.endTransfer
  split
  · exact h
  · exact K.replyDone (K.modBus h _) _ _ _ _ _ _

theorem KeepsFault.busFault (K : KeepsFault P) {s : State} (h : P s) (c : Cause) (d : Word) : P (s.busFault c d) :=
  K.raise h _

theorem KeepsMeasure.tellScanner (K : KeepsMeasure P) {s : State} (h : P s) (t : Txn) (x : PointResult) :
    P (s.tellScanner t x) := by
  unfold State.tellScanner
  split
  · split
    · exact h
    · exact K.scanFail h _ _
  · exact h

theorem KeepsBus.scanComplete (K : KeepsBus P) {s : State} (h : P s) (r : ScanEnd) : P (s.scanComplete r) := by
  unfold State.scanComplete
  split
  · split
    · exact h
    · dsimp only
      split
      · split
        · exact K.arbitrate (K.modBus h _)
        · exact K.arbitrate (K.modBus (K.scanOk h _ _ _ _ _) _)
      · exact K.arbitrate (K.modBus (K.tellScanner (K.busFault h _ _) _ _) _)
  · exact h

theorem KeepsBus.transferComplete (K : KeepsBus P) {s : State} (h : P s) (r : TransferEnd) : P (s.transferComplete r) := by
  unfold State.transferComplete
  split
  · split
    · exact h
    · dsimp only
      split
      · exact K.arbitrate (K.modBus (K.endTransfer h _ _ _) _)
      · exact K.arbitrate (K.modBus (K.endTransfer h _ _ _) _)
  · exact h

theorem KeepsBus.startTransaction (K : KeepsBus P) {s : State} (h : P s) (a b : Bool) : P (s.startTransaction a b) := by
  unfold State.startTransaction
  split
  · exact h
  · split
    · exact h
    · split
      · exact K.modBus h _
      · exact K.modBus h _

theorem KeepsBus.keepReceived (K : KeepsBus P) {s : State} (h : P s) (l : List Byte) : P (s.keepReceived l) := by
  unfold State.keepReceived
  split
  · split
    · exact K.modBus h _
    · exact h
  · exact h

theorem KeepsBus.loseArbitration (K : KeepsBus P) {s : State} (h : P s) (l : List Byte) : P (s.loseArbitration l) := by
  unfold State.loseArbitration
  split
  · exact h
  · split
    · exact h
    · split
      · exact K.modBus (K.keepReceived h _) _
      · dsimp only
        split
        · exact K.arbitrate (K.modBus (K.tellScanner (K.busFault h _ _) _ _) _)
        · exact K.arbitrate (K.modBus (K.endTransfer h _ _ _) _)

theorem KeepsBus.hang (K : KeepsBus P) {s : State} (h : P s) (n : Word) (l : List Byte) : P (s.hang n l) := by
  unfold State.hang
  split
  · exact h
  · dsimp only
    split
    · exact K.modBus (K.tellScanner (K.busFault h _ _) _ _) _
    · exact K.modBus (K.endTransfer (K.busFault h _ _) _ _ _) _

theorem KeepsBus.replyRecovery (K : KeepsBus P) {s : State} (h : P s) : P s.replyRecovery := by
  unfold State.replyRecovery
  split
  · exact K.replyDone (K.modBus h _) _ _ _ _ _ _
  · exact h

theorem KeepsBus.failRecovery (K : KeepsBus P) {s : State} (h : P s) (n : Nat) : P (s.failRecovery n) := by
  unfold State.failRecovery
  exact K.replyRecovery (K.endTransfer (K.raise (K.modBus h _) _) _ _ _)

theorem KeepsBus.recoveryEnds (K : KeepsBus P) {s : State} (h : P s) (n : Nat) (f : Bool) : P (s.recoveryEnds n f) := by
  unfold State.recoveryEnds
  split
  · exact h
  · split
    · exact K.arbitrate (K.replyRecovery (K.modBus h _))
    · exact K.failRecovery h _

theorem KeepsBus.expireClockLow (K : KeepsBus P) {s : State} (h : P s) (l : List Byte) (n : Nat) :
    P (s.expireClockLow l n) := by
  unfold State.expireClockLow
  split
  · exact K.hang h _ _
  · exact K.hang h _ _
  · exact K.failRecovery h _
  · exact h

theorem KeepsBus.expireDataLow (K : KeepsBus P) {s : State} (h : P s) (l : List Byte) : P (s.expireDataLow l) := by
  unfold State.expireDataLow
  split
  · exact K.hang h _ _
  · exact K.hang h _ _
  · exact h

theorem KeepsBus.abort (K : KeepsBus P) {s : State} (h : P s) (l : List Byte) : P (s.abort l) := by
  unfold State.abort
  split
  · exact K.endTransfer h _ _ _
  · exact h

end Sys2Proof.Machine
end

