-- ==== Sys2Proof/Laws/KeepsStations.lean ====
section
/-! SUPPORT. What the station unit keeps: everything but the stations, the roll call, and what a change of enrolment
hands to the trains behind a station. -/

namespace Sys2Proof.Machine

variable {P : State → Prop}

theorem KeepsStations.modStation (K : KeepsStations P) {s : State} (h : P s) (i : StationId) (f : Station → Station) :
    P (s.modStation i f) := K.stations s _ h

theorem KeepsDrive.toldLost (K : KeepsDrive P) {s : State} (h : P s) (i : StationId) : P (s.toldLost i) :=
  foldl_keeps (P := P) (f := State.dropTrain) (fun _ _ hx => K.dropTrain hx _) _ _ h

theorem KeepsPlant.toldEnrolled (K : KeepsPlant P) {s : State} (h : P s) (i : StationId) : P (s.toldEnrolled i) :=
  foldl_keeps (P := P) (f := State.toUnknown) (fun _ _ hx => K.toUnknown hx _) _ _ h

theorem KeepsStations.lose (K : KeepsStations P) {s : State} (h : P s) (i : StationId) : P (s.lose i) := by
  unfold State.lose
  split
  · exact K.raise (K.toldLost (K.modStation h _ _) _) _
  · exact h

theorem KeepsStations.loseBehind (K : KeepsStations P) {s : State} (h : P s) (i : StationId) : P (s.loseBehind i) :=
  K.settle (foldl_keeps (P := P) (f := State.lose) (fun _ _ hx => K.lose hx _) _ _ h)

theorem KeepsStations.reject (K : KeepsStations P) {s : State} (h : P s) (i : StationId) : P (s.reject i) := by
  unfold State.reject
  extract_lets s1
  have h1 : P s1 := K.modStation h _ _
  clear_value s1
  split
  · exact K.toldLost h1 _
  · exact h1

theorem KeepsStations.rejectWithBehind (K : KeepsStations P) {s : State} (h : P s) (i : StationId) :
    P (s.rejectWithBehind i) :=
  foldl_keeps (P := P) (f := State.reject) (fun _ _ hx => K.reject hx _) _ _ (K.reject h i)

theorem KeepsStations.callStation (K : KeepsStations P) {s : State} (h : P s) (i : StationId) : P (s.callStation i) := by
  unfold State.callStation
  extract_lets q s1
  have h1 : P s1 := K.emit h _ _ _ _
  clear_value s1
  exact K.roll s1 _ h1

theorem KeepsStations.passOver (K : KeepsStations P) {s : State} (h : P s) (i : StationId) : P (s.passOver i) :=
  K.roll s _ h

theorem KeepsStations.seekFrom (K : KeepsStations P) (l : List StationId) : ∀ {s : State}, P s → P (s.seekFrom l) := by
  induction l with
  | nil => intro s h; exact K.roll s _ h
  | cons i l ih =>
    intro s h
    unfold State.seekFrom
    split
    · split
      · exact ih (K.passOver (K.raise (K.reject h _) _) _)
      · exact ih (K.passOver h _)
      · exact K.callStation h _
    · exact ih h

theorem KeepsStations.seek (K : KeepsStations P) {s : State} (h : P s) : P s.seek := K.seekFrom _ h

theorem KeepsStations.endCall (K : KeepsStations P) {s : State} (h : P s) (i : StationId) : P (s.endCall i) :=
  K.seek (K.roll s _ h)

theorem KeepsStations.expirePeriod (K : KeepsStations P) {s : State} (h : P s) : P s.expirePeriod := by
  unfold State.expirePeriod
  split
  · exact h
  · have h1 := K.roll s { s.roll with period := some (seconds s.part.rollPeriod) } h
    dsimp only
    split
    · exact h1
    · exact K.seek (K.roll s _ h)

theorem KeepsStations.expireReply (K : KeepsStations P) {s : State} (h : P s) : P s.expireReply := by
  unfold State.expireReply
  split
  · next i _ _ _ =>
    extract_lets m was s1 s2
    have h1 : P s1 := K.modStation h _ _
    have h2 : P s2 := by
      show P (if was = .enrolled ∧ s.part.missLimit ≤ m then (s1.lose i).loseBehind i else s1)
      split
      · exact K.loseBehind (K.lose h1 _) _
      · exact h1
    clear_value s2
    exact K.endCall h2 _
  · exact h

theorem KeepsStations.failIdentity (K : KeepsStations P) {s : State} (h : P s) (i : StationId) (d : Word) :
    P (s.failIdentity i d) := by
  unfold State.failIdentity
  extract_lets e s1 s2
  have h1 : P s1 := K.modStation (K.reject h _) _ _
  clear_value s1
  have h2 : P s2 := K.raise h1 _
  clear_value s2
  split
  · exact K.loseBehind h2 _
  · exact h2

theorem KeepsStations.takeBehind (K : KeepsStations P) {s : State} (h : P s) (c : StationId) (i : Item) :
    P (State.takeBehind c s i) := by
  unfold State.takeBehind
  split
  · split
    · exact h
    · exact K.raise (K.rejectWithBehind h _) _
  · exact K.raise h _

theorem KeepsStations.enrol (K : KeepsStations P) {s : State} (h : P s) (i : StationId) : P (s.enrol i) := by
  unfold State.enrol
  extract_lets e s1
  have h1 : P s1 := K.modStation h _ _
  clear_value s1
  split
  · exact h1
  · split
    · exact K.raise h1 _
    · exact K.toldEnrolled (K.modStation h1 _ _) _
  · split
    · exact K.raise h1 _
    · exact K.toldEnrolled (K.modStation h1 _ _) _
  · exact h

theorem KeepsStations.judgements (K : KeepsStations P) {s : State} (h : P s) (i : StationId) (l : List Item) :
    P (s.judgements i l) := by
  unfold State.judgements
  extract_lets e
  split
  · exact K.failIdentity h _ _
  · split
    · exact K.failIdentity h _ _
    · split
      · split
        · exact K.raise (K.rejectWithBehind h _) _
        · exact K.enrol (foldl_keeps (P := P) (fun _ _ hx => K.takeBehind hx _ _) _ _ h) _
      · exact K.enrol h _

theorem KeepsStations.judgeReply (K : KeepsStations P) {s : State} (h : P s) (i : StationId) (l : List Item) :
    P (s.judgeReply i l) := K.settle (K.judgements h i l)

theorem KeepsStations.takeRollcallReply (K : KeepsStations P) {s : State} (h : P s) (a : Header) (l : List Item) :
    P (s.takeRollcallReply a l) := by
  unfold State.takeRollcallReply
  split
  · split
    · exact K.endCall (K.judgeReply (K.roll s _ h) _ _) _
    · exact h
  · exact h

theorem KeepsStations.unenrol (K : KeepsStations P) {s : State} (h : P s) (l : List StationId) : P (s.unenrol l) := by
  unfold State.unenrol
  extract_lets s1
  have h1 : P s1 := foldl_keeps (P := P) (fun _ _ hx => K.modStation hx _ _) _ _ h
  clear_value s1
  split
  · split
    · exact K.endCall h1 _
    · exact h1
  · exact h1

end Sys2Proof.Machine
end

