-- ==== Sys2Proof/Laws/KeepsAll.lean ====
section
/-! SUPPORT. What management, the link unit, every command and every step keep. -/

namespace Sys2Proof.Machine

/-- A property kept by every change of the block's fields within the bounds of Safety.lean, and by the two resets. -/
structure KeepsAll (P : State → Prop) : Prop extends KeepsSchedule P, KeepsStations P, KeepsBus P where
  part : ∀ (s : State) (x : Part), (s.part.inRange → x.inRange) → P s → P { s with part := x }
  openGate : ∀ s : State, P s → P { s with gateOpen := true }
  shutGate : ∀ s : State, P s → P s.shutGate
  ptrip : ∀ (s : State) (b : Bool), P s → P { s with ptrip := b }
  permissions : ∀ (s : State) (v : Vector (BitVec 9) 192), P s → P { s with permissions := v }
  positions : ∀ (s : State) (v : Vector Position 128), P s → P { s with positions := v }
  duties : ∀ (s : State) (v : Vector Duty 16), P s → P { s with duties := v }
  bands : ∀ (s : State) (v : Vector Band 16), P s → P { s with bands := v }
  scan : ∀ (s : State) (v : Vector ScanEntry 48), P s → P { s with scan := v }
  routes : ∀ (s : State) (v : Vector Route 61), (routesFixed s.routes = true → routesFixed v = true) → P s →
    P { s with routes := v }
  masks : ∀ (s : State) (v : Vector Tier 3),
    ((s.tiers.get tierSafety).mask &&& fixedSafetySet = 0 → (v.get tierSafety).mask &&& fixedSafetySet = 0) → P s →
      P { s with tiers := v }
  pending : ∀ (s : State) (l : List Instr), P s → P { s with pending := l }
  powerOn : ∀ (s : State) (x : BitVec 4), P s → P (s.powerOn x)
  warmRestart : ∀ s : State, P s → P s.warmRestart

/-! ### Tables -/

theorem mem_fins {n : Nat} (i : Fin n) : i ∈ fins n := by
  induction n with
  | zero => exact i.elim0
  | succ n ih =>
    refine Fin.cases ?_ (fun j => ?_) i
    · exact List.mem_cons_self
    · exact List.mem_cons_of_mem _ (List.mem_map_of_mem (ih j))

/-- What every stored value and every legalising keeps of the entries, the table after a request keeps. -/
theorem Table.after_forall {n : Nat} {α : Type} (T : Table n α) (Q : Fin n → α → Prop)
    (hput : ∀ i f w e x, T.put i f w e = some x → Q i e → Q i x) (hfix : ∀ i l e, Q i e → Q i (T.fix l e))
    (v : Vector α n) (fs : List Field) (h : ∀ i, Q i (v.get i)) : ∀ i, Q i ((T.after v fs).get i) := by
  have stored : ∀ (l : List Field) (u : Vector α n), (∀ i, Q i (u.get i)) → ∀ i, Q i ((l.foldl T.store u).get i) := by
    intro l
    induction l with
    | nil => intro u hu; exact hu
    | cons f l ih =>
      intro u hu
      refine ih _ fun i => ?_
      unfold Table.store
      split
      · exact hu i
      · next j _ =>
        split
        · next x hx =>
          rw [upd_get]
          split
          · next e => subst e; exact hput _ _ _ _ _ hx (hu _)
          · exact hu i
        · exact hu i
  have fixed : ∀ (l : List (Fin n)) (g : Fin n → List Nat) (u : Vector α n), (∀ i, Q i (u.get i)) →
      ∀ i, Q i ((l.foldl (fun w i => modAt w i (T.fix (g i))) u).get i) := by
    intro l g
    induction l with
    | nil => intro u hu; exact hu
    | cons j l ih =>
      intro u hu
      refine ih _ fun i => ?_
      rw [modAt_get]
      split
      · next e => subst e; exact hfix _ _ _ (hu _)
      · exact hu i
  exact fixed _ _ _ (stored fs v h)

theorem Table.judge_ok {n : Nat} {α : Type} (T : Table n α) (v w : Vector α n) (fs : List Field) (l : List Item)
    (e : T.judge v fs = .ok (w, l)) : w = T.after v (lastWrites fs) := by
  unfold Table.judge at e
  dsimp only at e
  split at e
  · cases e
  · cases e; rfl

theorem judged_ok {n : Nat} {α : Type} {j : Except MRefusal (Vector α n × List Item)}
    {whole : Vector α n → Option MRefusal} {accept : Vector α n → State} {t : State} {l : List Item}
    (e : judged j whole accept = .ok (t, l)) : ∃ w, j = .ok (w, l) ∧ whole w = none ∧ t = accept w := by
  unfold judged at e
  cases j with
  | error r => cases e
  | ok x =>
    obtain ⟨w, k⟩ := x
    dsimp only at e
    split at e
    · cases e
    · next hw => cases e; exact ⟨w, rfl, hw, rfl⟩

theorem routesFixed_iff (v : Vector Route 61) : routesFixed v = true ↔
    ∀ c, (fixedSafety c = true → v.get c = {}) ∧ (fixedDesk c = true → v.get c = { plant := true, desk := true }) := by
  simp only [routesFixed, List.all_eq_true, Bool.and_eq_true, Bool.or_eq_true, Bool.not_eq_true', beq_iff_eq]
  constructor
  · intro h c
    have hc := h c (mem_fins c)
    refine ⟨fun hs => ?_, fun hd => ?_⟩
    · rcases hc.1 with a | a
      · rw [hs] at a; cases a
      · exact a
    · rcases hc.2 with a | a
      · rw [hd] at a; cases a
      · exact a
  · intro h c _
    refine ⟨?_, ?_⟩
    · cases hs : fixedSafety c
      · exact Or.inl rfl
      · exact Or.inr ((h c).1 hs)
    · cases hd : fixedDesk c
      · exact Or.inl rfl
      · exact Or.inr ((h c).2 hd)

theorem putRoute_fixed (c : Cause) (f : Nat) (w : Word) (e x : Route) (hx : putRoute c f w e = some x)
    (hc : fixedRoute c = true) : x = e := by
  unfold putRoute at hx
  rw [hc] at hx
  split at hx
  · cases hx
  · simp at hx
    exact hx.symm

theorem routes_after (v : Vector Route 61) (fs : List Field) (h : routesFixed v = true) :
    routesFixed (routeTable.after v fs) = true := by
  rw [routesFixed_iff] at *
  refine Table.after_forall routeTable (fun c r => (fixedSafety c = true → r = {}) ∧
    (fixedDesk c = true → r = { plant := true, desk := true })) ?_ (fun _ _ _ q => q) v fs h
  intro c f w e x hx q
  refine ⟨fun hs => ?_, fun hd => ?_⟩
  · rw [putRoute_fixed c f w e x hx (by simp [fixedRoute, hs])]; exact q.1 hs
  · rw [putRoute_fixed c f w e x hx (by simp [fixedRoute, hd])]; exact q.2 hd

theorem caverns_after (s : State) (v : Vector Cavern 2) (fs : List Field) (h : cavernsDirected v) :
    cavernsDirected ((cavernTable s).after v fs) := by
  refine Table.after_forall (cavernTable s) (fun _ x => x.run.direction = none ↔ x.run.holders = 0) ?_
    (fun _ _ _ q => q) v fs h
  intro c f w e x hx q
  simp only [cavernTable, Option.map_eq_some_iff] at hx
  obtain ⟨y, _, rfl⟩ := hx
  exact q

theorem legalNat_mem (lo hi : Nat) (w : Word) (h : lo ≤ hi) : lo ≤ legalNat lo hi w ∧ legalNat lo hi w ≤ hi := by
  unfold legalNat legalInt clampInt
  split_ifs <;> omega

theorem legalSlotLength_mem (w : Word) :
    60 ≤ legalSlotLength w ∧ legalSlotLength w ≤ 900 ∧ legalSlotLength w % 60 = 0 := by
  have := legalNat_mem 60 900 w (by omega)
  unfold legalSlotLength
  omega

/-- A stored value leaves the numeric settings of PART within their ranges. -/
theorem putPart_inRange (f : Nat) (w : Word) (e x : Part) (h : putPart f w e = some x) (he : e.inRange) : x.inRange := by
  unfold Part.inRange at he ⊢
  unfold putPart at h
  split at h <;> simp only [Option.map_eq_some_iff, Option.some.injEq, reduceCtorEq] at h
  all_goals first
    | (obtain ⟨_, _, rfl⟩ := h; exact he)
    | (subst h
       simp only [and_assoc] at he ⊢
       simp only [he, legalNat_mem, legalSlotLength_mem, and_self, Nat.reduceLeDiff])

theorem fixPart_inRange (l : List Nat) (e : Part) (he : e.inRange) : (fixPart l e).inRange := by
  unfold Part.inRange at he ⊢
  unfold fixPart
  split_ifs <;> dsimp only <;> omega

theorem part_after (p : Part) (fs : List Field) (h : p.inRange) :
    ((partTable.after (Vector.replicate 1 p) fs).get 0).inRange :=
  Table.after_forall partTable (fun _ x => x.inRange) (fun _ f w e x hx he => putPart_inRange f w e x hx he)
    (fun _ l e he => fixPart_inRange l e he) _ fs (fun i => by simpa [Vector.get] using h) 0

variable {P : State → Prop}

/-! ### Management -/

theorem KeepsAll.replyWith (K : KeepsAll P) {s : State} (h : P s) (m : Manager) (x : Status) (l : List Item) :
    P (s.replyWith m x l) := K.replyDone h _ _ _ _ _ _

theorem KeepsAll.replyWrite (K : KeepsAll P) {s : State} (h : P s) (m : Manager) (l : List Item) :
    P (s.replyWrite m l) := K.replyWith h _ _ _

theorem KeepsAll.refuseManage (K : KeepsAll P) {s : State} (h : P s) (m : Manager) (r : MRefusal) :
    P (s.refuseManage m r) := K.reply h _ _ _ _

theorem KeepsAll.finishWrite (K : KeepsAll P) {s : State} (h : P s) (m : Manager) (w : Write)
    (hw : ∀ t l, w = .ok (t, l) → P t) : P (s.finishWrite m w) := by
  unfold State.finishWrite
  split
  · exact K.refuseManage h _ _
  · exact K.replyWrite (hw _ _ rfl) _ _

/-- An accepted write keeps what its effect on the accepted table keeps. -/
theorem KeepsAll.judgedWrite (K : KeepsAll P) {s : State} (h : P s) (m : Manager) {n : Nat} {α : Type}
    (T : Table n α) (v : Vector α n) (fs : List Field) (whole : Vector α n → Option MRefusal)
    (accept : Vector α n → State) (ha : P (accept (T.after v (lastWrites fs)))) :
    P (s.finishWrite m (judged (T.judge v fs) whole accept)) := by
  refine K.finishWrite h m _ fun t l e => ?_
  obtain ⟨w, hj, _, rfl⟩ := judged_ok e
  rw [Table.judge_ok T v w fs l hj]
  exact ha

theorem KeepsPlant.trainWritten (K : KeepsPlant P) {s : State} (h : P s) (fs : List Field) (t : TrainId) :
    P (State.trainWritten fs s t) := by
  unfold State.trainWritten
  extract_lets s1
  have h1 : P s1 := K.toUnknown h t
  clear_value s1
  split
  · exact K.modRun h1 _ _
  · exact h1

theorem KeepsPlant.trainsWritten (K : KeepsPlant P) {s : State} (h : P s) (fs : List Field) (l : List TrainId) :
    P (s.trainsWritten fs l) := by
  unfold State.trainsWritten
  split
  · exact h
  · exact K.settle (foldl_keeps (P := P) (fun _ _ hx => K.trainWritten hx _ _) _ _ h)

theorem KeepsPlant.configureCavern (K : KeepsPlant P) {s : State} (h : P s) (c : CavernId) : P (s.configureCavern c) := by
  unfold State.configureCavern
  extract_lets s1
  have h1 : P s1 := K.recomputed h c
  clear_value s1
  split
  · exact K.modCavern' h1 c _
  · exact h1

theorem KeepsPlant.cavernWritten (K : KeepsPlant P) {s : State} (h : P s) (b : Vector Cavern 2) (fs : List Field)
    (c : CavernId) : P (State.cavernWritten b fs s c) := by
  unfold State.cavernWritten
  extract_lets f was now
  split
  · exact K.configureCavern h c
  · split
    · exact K.modCavern h c _ fun _ _ => by simp
    · split
      · exact K.recomputed h c
      · exact h

theorem KeepsPlant.cavernsWritten (K : KeepsPlant P) {s : State} (b : Vector Cavern 2) (fs : List Field)
    (l : List CavernId) (h : P s) (s0 : State) : P ((l.foldl (State.cavernWritten b fs) s).settleSince s0) :=
  K.settleSince (foldl_keeps (P := P) (fun _ _ hx => K.cavernWritten hx _ _ _) _ _ h) _

theorem KeepsAll.storeWritten (K : KeepsAll P) {s : State} (h : P s) (b : Vector Store 4) (fs : List Field)
    (i : StoreId) : P (State.storeWritten b fs s i) := by
  unfold State.storeWritten
  extract_lets f was now
  split
  · exact foldl_keeps (P := P) (fun _ _ hx => K.modLayer hx _ _) _ _ (K.setStoreRun h _ _)
  · split
    · exact K.recomputeStore h i
    · exact h

theorem KeepsAll.scanWritten (K : KeepsAll P) {s : State} (h : P s) (w : Vector ScanEntry 48) (fs : List Field) :
    P (let changed := (writtenEntries 48 fs).filter (scanReset s.scan w fs)
       let s1 := State.modBus { s with scan := w } fun b => b.discardFor w
       let s2 := changed.foldl (fun s i => s.modPoint i fun _ => {}) s1
       let s3 := (changedCaverns s.scan w changed).foldl State.recomputed s2
       ((changedStores s s.scan w changed).foldl State.recomputeStore s3).settleSince s) := by
  extract_lets changed s1 s2 s3
  have h1 : P s1 := K.modBus (K.scan s w h) _
  clear_value s1
  have h2 : P s2 := foldl_keeps (P := P) (fun _ _ hx => K.modPoint hx _ _) _ _ h1
  clear_value s2
  have h3 : P s3 := foldl_keeps (P := P) (f := State.recomputed) (fun _ _ hx => K.recomputed hx _) _ _ h2
  clear_value s3
  exact K.settleSince (foldl_keeps (P := P) (f := State.recomputeStore) (fun _ _ hx => K.recomputeStore hx _) _ _ h3) s

theorem KeepsAll.writePart (K : KeepsAll P) {s : State} (h : P s) (m : Manager) (fs : List Field) :
    P (s.writePart m fs) := by
  unfold State.writePart
  split
  · exact K.refuseManage h _ _
  · split
    · exact K.refuseManage h _ _
    · rename_i w l e _ _
      refine K.part _ _ (fun hr => ?_) (K.replyWrite h _ _)
      rw [Table.judge_ok partTable _ w fs l e]
      exact part_after s.part _ hr

theorem KeepsAll.writeTable (K : KeepsAll P) {s : State} (h : P s) (m : Manager) (t : Fin 12) (fs : List Field) :
    P (s.writeTable m t fs) := by
  unfold State.writeTable
  split
  · exact K.judgedWrite h m _ _ _ _ _ (K.unenrol (K.stations s _ h) _)
  · exact K.judgedWrite h m _ _ _ _ _ (K.permissions s _ h)
  · unfold State.writePositions
    extract_lets passes
    split
    · exact K.finishWrite h m _ fun _ _ e => by cases e
    · exact K.judgedWrite h m _ _ _ _ _ (K.positions s _ h)
  · exact K.judgedWrite h m _ _ _ _ _ (K.duties s _ h)
  · exact K.judgedWrite h m _ _ _ _ _
      (K.trainsWritten (K.trains s _ h) _ _)
  · exact K.judgedWrite h m _ _ _ _ _
      (K.cavernsWritten s.caverns fs _ (K.caverns s _ (caverns_after s _ _) h) s)
  · exact K.judgedWrite h m _ _ _ _ _ (K.bands s _ h)
  · exact K.judgedWrite h m _ _ _ _ _
      (foldl_keeps (P := P) (fun _ _ hx => K.storeWritten hx _ _ _) _ _ (K.stores s _ h))
  · exact K.judgedWrite h m _ _ _ _ _
      (foldl_keeps (P := P) (f := State.recomputeStore) (fun _ _ hx => K.recomputeStore hx _) _ _ (K.layers s _ h))
  · exact K.judgedWrite h m _ _ _ _ _ (K.scanWritten h _ _)
  · exact K.judgedWrite h m _ _ _ _ _ (K.routes s _ (routes_after _ _) h)
  · exact K.writePart h _ _

theorem KeepsAll.gateOpened (K : KeepsAll P) {s : State} (h : P s) (m : Manager) : P (s.openGate m) := by
  unfold State.openGate
  split
  · exact K.replyWith h _ _ _
  · split
    · exact K.refuseManage h _ _
    · exact K.replyWith (K.openGate s h) _ _ _

theorem KeepsDispatch.invalidate (K : KeepsDispatch P) {s : State} (h : P s) (q : CacheEntry → Bool) :
    P (s.invalidate q) := K.cache s _ (cacheUnique_invalidate s.cache q) h

theorem KeepsAll.closeGate (K : KeepsAll P) {s : State} (h : P s) (m : Manager) : P (s.closeGate m) :=
  K.replyWith (K.shutGate s h) _ _ _

/-- A property that every change of the gate keeps is kept by CLOSE_GATE. -/
theorem KeepsSchedule.shutGate (K : KeepsSchedule P) (hg : ∀ (s : State) (b : Bool), P s → P { s with gateOpen := b })
    (s : State) (h : P s) : P s.shutGate :=
  K.invalidate (K.flushGate (K.clearActivation (hg s false h))) _

theorem KeepsAll.replyRead (K : KeepsAll P) {s : State} (h : P s) (m : Manager) (l : ReadItems) : P (s.replyRead m l) := by
  unfold State.replyRead
  dsimp only
  split <;> exact K.replyDone h _ _ _ _ _ _

theorem KeepsAll.readEntries (K : KeepsAll P) {s : State} (h : P s) (m : Manager) (a b c d : Nat) :
    P (s.readEntries m a b c d) := by
  unfold State.readEntries
  split
  · exact K.refuseManage h _ _
  · split
    · exact K.replyRead h _ _
    · exact K.refuseManage h _ _

theorem KeepsAll.readState (K : KeepsAll P) {s : State} (h : P s) (m : Manager) (a b c : Nat) :
    P (s.readState m a b c) := by
  unfold State.readState
  split
  · exact K.replyRead h _ _
  · exact K.refuseManage h _ _

theorem KeepsAll.busTransfer (K : KeepsAll P) {s : State} (h : P s) (m : Manager) (a b c : Nat)
    (d : Option (List Field)) : P (s.busTransfer m a b c d) := by
  unfold State.busTransfer
  extract_lets bytes
  clear_value bytes
  split
  · exact K.refuseManage h _ _
  · split
    · exact K.refuseManage h _ _
    · split
      · exact K.refuseManage h _ _
      · exact K.arbitrate (K.modBus h _)

theorem KeepsAll.busRecover (K : KeepsAll P) {s : State} (h : P s) (m : Manager) : P (s.busRecover m) := by
  unfold State.busRecover
  split
  · exact K.modBus h _
  · exact K.modBus h _
  · exact K.refuseManage h _ _

theorem KeepsAll.busAbort (K : KeepsAll P) {s : State} (h : P s) (m : Manager) (l : List Byte) : P (s.busAbort m l) := by
  unfold State.busAbort
  split
  · exact K.replyWith h _ _ _
  · exact K.arbitrate (K.replyWith (K.modBus (K.abort h _) _) _ _ _)
  · exact K.arbitrate (K.replyWith (K.modBus (K.abort h _) _) _ _ _)
  · exact K.refuseManage h _ _
  · exact K.busRecover h _

theorem Tier.clear_mask (t : Tier) (c : Cause) : (t.clear c).mask = t.mask := by
  unfold Tier.clear
  split <;> rfl

theorem KeepsAll.clearNotices (K : KeepsAll P) {s : State} (h : P s) (m : Manager) (k : TierId) (l : BitVec 61) :
    P (s.clearNotices m k l) := by
  unfold State.clearNotices
  extract_lets s1
  have h1 : P s1 := K.modTier h k _ fun t =>
    foldl_keeps (P := fun u : Tier => u.mask = t.mask) (fun u c hu => (Tier.clear_mask u c).trans hu) _ t rfl
  clear_value s1
  exact K.replyWith h1 _ _ _

theorem KeepsAll.setMask (K : KeepsAll P) {s : State} (h : P s) (m : Manager) (k : TierId) (l : BitVec 61) :
    P (s.setMask m k l) := by
  unfold State.setMask
  extract_lets mask s1 low high
  have h1 : P s1 := by
    refine K.masks s _ (fun hs => ?_) h
    rw [modAt_get]
    split
    · next e =>
      subst e
      show maskFor tierSafety l &&& fixedSafetySet = 0
      simp only [maskFor, if_true]
      rw [BitVec.and_assoc]
      have : ~~~fixedSafetySet &&& fixedSafetySet = 0 := by decide
      rw [this]
      simp
    · exact hs
  clear_value s1
  exact K.replyWrite h1 _ _

theorem KeepsAll.manage (K : KeepsAll P) {s : State} (h : P s) (m : Manager) (q : ManageReq) : P (s.manage m q) := by
  cases q with
  | bad => exact K.refuseManage h _ _
  | readEntries a b c d => exact K.readEntries h _ _ _ _ _
  | readState a b c => exact K.readState h _ _ _ _
  | write t fs => exact K.writeTable h _ _ _
  | fenceAll => exact K.replyWith (K.invalidate h _) _ _ _
  | fencePosition p => exact K.replyWith (K.invalidate h _) _ _ _
  | fenceDesk d => exact K.replyWith (K.invalidate h _) _ _ _
  | fenceDuty u => exact K.replyWith (K.invalidate h _) _ _ _
  | openGate => exact K.gateOpened h _
  | closeGate => exact K.closeGate h _
  | restart => exact K.replyWith (K.warmRestart s h) _ _ _
  | transferRead a b c => exact K.busTransfer h m a b c none
  | transferWrite a b c d => exact K.busTransfer h m a b c (some d)
  | recover => exact K.busRecover h _
  | recoverAbort o =>
    cases o with
    | none => exact K.busAbort (K.toKeepsBus.free s _ h) _ _
    | some l => exact K.busAbort h _ _
  | clearNotices k l => exact K.clearNotices h _ _ _
  | setMask k l => exact K.setMask h _ _ _

theorem KeepsAll.takeManage (K : KeepsAll P) {s : State} (h : P s) (m : Manager) (q : ManageReq) :
    P (s.takeManage m q) := by
  unfold State.takeManage
  split
  · exact K.refuseManage h _ _
  · split
    · exact K.refuseManage h _ _
    · exact K.manage h _ _

/-! ### The link unit -/

theorem KeepsFault.formed (K : KeepsFault P) {s n : State} (h : P s) (hn : P n) (c : Byte) (a : Header) (k : Nat) :
    P (s.formed c a k n) := by
  unfold State.formed
  split
  · exact K.raise h _
  · exact hn

theorem KeepsFault.steered (K : KeepsFault P) {s n : State} (h : P s) (hn : P n) (c : Byte) (a : Header) (b : Bool) :
    P (s.steered c a b n) := by
  unfold State.steered
  split
  · exact hn
  · exact K.raise h _

theorem KeepsFault.sourced (K : KeepsFault P) {s : State} (h : P s) (p : Port) (c : Byte) (a : Header)
    (f : Station → Bool) (n : Source → State) (hn : ∀ x, P (n x)) : P (s.sourced p c a f n) := by
  unfold State.sourced
  split
  · exact K.raise h _
  · exact hn _

theorem KeepsAll.arriveDispatch (K : KeepsAll P) {s : State} (h : P s) (a : Header) (l : List Item) :
    P (s.arriveDispatch a l) :=
  K.formed h (K.steered h (K.sourced h _ _ _ _ _ fun _ => K.takeDispatch h _ _ _) _ _ _) _ _ _

theorem KeepsAll.arriveSchedule (K : KeepsAll P) {s : State} (h : P s) (a : Header) (l : List Item) :
    P (s.arriveSchedule a l) :=
  K.formed h (K.steered h (K.sourced h _ _ _ _ _ fun _ => K.takeSchedule h _ _) _ _ _) _ _ _

theorem KeepsAll.arriveActivation (K : KeepsAll P) {s : State} (h : P s) (a : Header) (l : List Item) :
    P (s.arriveActivation a l) :=
  K.formed h (K.steered h (K.sourced h _ _ _ _ _ fun _ => K.takeActivation h _ _) _ _ _) _ _ _

theorem KeepsAll.arriveMark (K : KeepsAll P) {s : State} (h : P s) (a : Header) (l : List Item) :
    P (s.arriveMark a l) :=
  K.formed h (K.steered h (K.sourced h _ _ _ _ _ fun _ => K.takeMark h _ _) _ _ _) _ _ _

theorem KeepsAll.arriveManage (K : KeepsAll P) {s : State} (h : P s) (a : Header) (n : Nat) (q : ManageReq) :
    P (s.arriveManage a n q) := by
  refine K.formed h (K.steered h ?_ _ _ _) _ _ _
  split
  · exact K.takeManage h _ _
  · exact K.sourced h _ _ _ _ _ fun _ => K.takeManage h _ _

theorem KeepsAll.arriveRollcallReply (K : KeepsAll P) {s : State} (h : P s) (a : Header) (l : List Item) :
    P (s.arriveRollcallReply a l) := K.formed h (K.steered h (K.takeRollcallReply h _ _) _ _ _) _ _ _

theorem KeepsPlant.routePoll (K : KeepsPlant P) {s : State} (h : P s) (f : Frame) (a : Header) : P (s.routePoll f a) := by
  unfold State.routePoll
  split
  · split
    · exact K.takePoll h _ _ _ _
    · exact K.hand h _ _
  · split
    · exact K.hand h _ _
    · exact K.raise h _

theorem KeepsPlant.arrivePoll (K : KeepsPlant P) {s : State} (h : P s) (e : Eth) (a : Header) (l : List Item)
    (b : List Byte) : P (s.arrivePoll e a l b) :=
  K.formed h (K.sourced h _ _ _ _ _ fun _ => K.routePoll h _ _) _ _ _

theorem KeepsPlant.readFrom (K : KeepsPlant P) {s : State} (h : P s) (i : StationId) (l : List Item) :
    P (s.readFrom i l) := by
  unfold State.readFrom
  split
  · exact foldl_keeps (P := P) (fun _ _ hx => K.readReport hx _ _) _ _ h
  · exact h

theorem KeepsPlant.arriveReport (K : KeepsPlant P) {s : State} (h : P s) (e : Eth) (a : Header) (l : List Item)
    (b : List Byte) : P (s.arriveReport e a l b) :=
  K.formed h (K.sourced h _ _ _ _ _ fun _ => K.readFrom (K.hand h _ _) _ _) _ _ _

theorem KeepsAll.receiveTelegram (K : KeepsAll P) {s : State} (h : P s) (p : Port) (e : Eth) (t : Telegram) :
    P (s.receiveTelegram p e t) := by
  unfold State.receiveTelegram
  split
  · exact K.arriveDispatch h _ _
  · exact K.arriveSchedule h _ _
  · exact K.arriveActivation h _ _
  · exact K.arriveMark h _ _
  · exact K.arriveManage h _ _ _
  · exact K.arrivePoll h _ _ _ _
  · exact K.arriveReport h _ _ _ _
  · exact K.arriveRollcallReply h _ _
  · exact K.formed h (K.raise h _) _ _ _

theorem KeepsLink.passForeign (K : KeepsLink P) {s : State} (h : P s) (p : Port) (f : RawFrame) : P (s.passForeign p f) := by
  unfold State.passForeign
  split
  · exact K.hand h _ _
  · exact h

theorem KeepsAll.receiveFrame (K : KeepsAll P) {s : State} (h : P s) (p : Port) (f : RawFrame) : P (s.receiveFrame p f) := by
  unfold State.receiveFrame
  split
  · exact K.passForeign h _ _
  · split
    · exact K.raise h _
    · exact K.receiveTelegram h _ _ _

/-! ### Lines and time -/

theorem KeepsAll.assertPtrip (K : KeepsAll P) {s : State} (h : P s) : P s.assertPtrip :=
  K.settle (foldl_keeps (P := P) (f := State.ptripTrain) (fun _ _ hx => K.ptripTrain hx _) _ _ (K.ptrip s true h))

theorem KeepsAll.deassertPtrip (K : KeepsAll P) {s : State} (h : P s) : P s.deassertPtrip :=
  K.trains _ _ (K.ptrip s false h)

theorem transmit_bounded (x : PortState) (h : x.tx.length ≤ txDepth) : x.transmit.tx.length ≤ txDepth := by
  unfold PortState.transmit
  split
  · exact le_trans (by simp) h
  · exact h

theorem KeepsAll.tick (K : KeepsAll P) {s : State} (h : P s) : P s.tick := by
  have h1 := K.link s { u := s.link.u.transmit, d := s.link.d.transmit } (by
    simp only [Link.bounded, Bool.and_eq_true, decide_eq_true_eq]
    exact fun b => ⟨transmit_bounded _ b.1, transmit_bounded _ b.2⟩) h
  replace h1 := K.roll _ { s.roll with period := dec s.roll.period, reply := dec s.roll.reply } h1
  dsimp only at h1
  replace h1 := K.trains _ (tabMap Train.tick s.trains) h1
  dsimp only at h1
  replace h1 := K.queue _ { s.queue with pacing := tabMap dec s.queue.pacing } (by exact fun b => b)
    (by exact fun b => b) (by exact fun b => b) (Or.inr (by exact fun _ b => b)) h1
  dsimp only at h1
  replace h1 := K.caverns _ (tabMap (fun x : Cavern => { x with run := x.run.tick }) s.caverns) (fun hd c => by
    rw [tabMap_get]; exact hd c) h1
  dsimp only at h1
  replace h1 := K.layers _ (tabMap (fun l : Layer => { l with stale := dec l.stale }) s.layers) h1
  dsimp only at h1
  replace h1 := K.engine _ s.engine.tick h1
  dsimp only at h1
  replace h1 := K.act _ { s.act with hold := dec s.act.hold, since := aged s.act.since } h1
  dsimp only at h1
  replace h1 := K.points _ (tabMap (fun p : Point => { p with age := p.age.map aged }) s.points) h1
  dsimp only at h1
  exact K.bus _
    { s.bus with interval := dec s.bus.interval, clockLow := dec s.bus.clockLow, dataLow := dec s.bus.dataLow } h1

/-! ### Commands and steps -/

/-- A meaning's next state is the one it names. -/
theorem next_keeps {a t : State} (e : (Host.Outcome.next a : Host.Outcome State Fault Refusal) = .next t) (h : P a) :
    P t := by
  cases e
  exact h

/-- Every command keeps it. -/
theorem KeepsAll.exec (K : KeepsAll P) {s t : State} (h : P s) (i : Instr) (e : exec i s = .next t) : P t := by
  cases i with
  | powerOn straps => exact next_keeps e (K.powerOn s _ h)
  | frameCheckDiscard port f => exact next_keeps e (h)
  | foreignFrame port f => exact next_keeps e (K.receiveFrame h _ _)
  | malformedTelegram port f => exact next_keeps e (K.receiveFrame h _ _)
  | droppedTelegram port eth t => exact next_keeps e (K.receiveTelegram h _ _ _)
  | dispatch a items => exact next_keeps e (K.arriveDispatch h _ _)
  | schedule a items => exact next_keeps e (K.arriveSchedule h _ _)
  | activation a item => exact next_keeps e (K.arriveActivation h _ _)
  | timemark a item => exact next_keeps e (K.arriveMark h _ _)
  | poll eth a items pad => exact next_keeps e (K.arrivePoll h _ _ _ _)
  | report eth a items pad => exact next_keeps e (K.arriveReport h _ _ _ _)
  | rollcallReply a items => exact next_keeps e (K.arriveRollcallReply h _ _)
  | readEntries a table first count field => exact next_keeps e (K.arriveManage h _ _ _)
  | readState a block index field => exact next_keeps e (K.arriveManage h _ _ _)
  | writeStations a fields => exact next_keeps e (K.arriveManage h _ _ _)
  | writePermissions a fields => exact next_keeps e (K.arriveManage h _ _ _)
  | writePositions a fields => exact next_keeps e (K.arriveManage h _ _ _)
  | writeDuties a fields => exact next_keeps e (K.arriveManage h _ _ _)
  | writeTrains a fields => exact next_keeps e (K.arriveManage h _ _ _)
  | writeCaverns a fields => exact next_keeps e (K.arriveManage h _ _ _)
  | writeBands a fields => exact next_keeps e (K.arriveManage h _ _ _)
  | writeStores a fields => exact next_keeps e (K.arriveManage h _ _ _)
  | writeLayers a fields => exact next_keeps e (K.arriveManage h _ _ _)
  | writeScan a fields => exact next_keeps e (K.arriveManage h _ _ _)
  | writeRoutes a fields => exact next_keeps e (K.arriveManage h _ _ _)
  | writePart a fields => exact next_keeps e (K.arriveManage h _ _ _)
  | fenceAll a => exact next_keeps e (K.arriveManage h _ _ _)
  | fencePosition a q => exact next_keeps e (K.arriveManage h _ _ _)
  | fenceDesk a d => exact next_keeps e (K.arriveManage h _ _ _)
  | fenceDuty a u => exact next_keeps e (K.arriveManage h _ _ _)
  | openGate a => exact next_keeps e (K.arriveManage h _ _ _)
  | closeGate a => exact next_keeps e (K.arriveManage h _ _ _)
  | restart a => exact next_keeps e (K.arriveManage h _ _ _)
  | busTransferRead a address offset count => exact next_keeps e (K.arriveManage h _ _ _)
  | busTransferWrite a address offset count fields => exact next_keeps e (K.arriveManage h _ _ _)
  | busRecover a => exact next_keeps e (K.arriveManage h _ _ _)
  | busRecoverAbort a moved => exact next_keeps e (K.arriveManage h _ _ _)
  | clearNotices a tier low high => exact next_keeps e (K.arriveManage h _ _ _)
  | setMask a tier low high => exact next_keeps e (K.arriveManage h _ _ _)
  | ptripAsserted => exact next_keeps e (K.assertPtrip h)
  | ptripDeasserted => exact next_keeps e (K.deassertPtrip h)
  | rollCallPeriodExpiry => exact next_keeps e (K.expirePeriod h)
  | replyTimerExpiry => exact next_keeps e (K.expireReply h)
  | engageTimerExpiry t => exact next_keeps e (K.expireEngage h _)
  | startTimerExpiry t => exact next_keeps e (K.expireStart h _)
  | stopTimerExpiry t => exact next_keeps e (K.expireStop h _)
  | trainStopRequest => exact next_keeps e (K.takeStopRequest h)
  | pacingTimerExpiry t => exact next_keeps e (K.expirePacing h _)
  | cavernStalenessTimerExpiry c x => exact next_keeps e (K.expireStaleness h _ _)
  | blindTimerExpiry c => exact next_keeps e (K.expireBlind h _)
  | layerStalenessTimerExpiry l => exact next_keeps e (K.expireLayer h _)
  | boundaryTimerExpiry => exact next_keeps e (K.expireBoundary h)
  | preReservationTimerExpiry => exact next_keeps e (K.expirePre h)
  | rampStepTimerExpiry => exact next_keeps e (K.expireRamp h)
  | timeMarkTimerExpiry => exact next_keeps e (K.expireMark h)
  | holdTimerExpiry => exact next_keeps e (K.expireHold h)
  | scanIntervalTimerExpiry => exact next_keeps e (K.expireInterval h)
  | clockLowTimerExpiry moved pulses => exact next_keeps e (K.expireClockLow h _ _)
  | dataLowTimerExpiry moved => exact next_keeps e (K.expireDataLow h _)
  | transactionStart clockHigh dataHigh => exact next_keeps e (K.startTransaction h _ _)
  | arbitrationLost moved => exact next_keeps e (K.loseArbitration h _)
  | scanTransactionComplete r => exact next_keeps e (K.scanComplete h _)
  | managementTransferComplete r => exact next_keeps e (K.transferComplete h _)
  | recoveryComplete pulses freed => exact next_keeps e (K.recoveryEnds h _ _)

/-- Every step keeps it. -/
theorem KeepsAll.step (K : KeepsAll P) {s t : State} (h : P s) (e : step s = .next t) : P t := by
  unfold Machine.step at e
  split at e
  · exact K.exec (K.pending s _ h) _ e
  · unfold idleStep at e
    split at e
    · exact K.exec h _ e
    · cases e; exact K.tick h

end Sys2Proof.Machine
end

