-- ==== Sys2Proof/Laws/Frames.lean ====
section
/-! SUPPORT. Frames: for each layer of operations the one equation that says which fields it can change.  With the
lemmas of the Keeps files, each operation of a layer has its frame by one application: for `State.settle`,
`(driveFrame s).settle rfl`. -/

namespace Sys2Proof.Machine

/-- What handing a frame, sending and answering can change. -/
theorem linkFrame (s : State) : KeepsLink fun u => u = { s with link := u.link } where
  link := fun _ l _ h => congrArg (fun u : State => { u with link := l }) h

/-- What raising a fault can change. -/
theorem faultFrame (s : State) : KeepsFault fun u => u = { s with link := u.link, faults := u.faults, tiers := u.tiers } where
  link := fun _ l _ h => congrArg (fun u : State => { u with link := l }) h
  faults := fun _ x _ h => congrArg (fun u : State => { u with faults := x }) h
  tiers := fun _ v _ h => congrArg (fun u : State => { u with tiers := v }) h

/-- What the drive queue's own operations can change: placing, withdrawing, refilling, releasing polls, departures. -/
theorem driveFrame (s : State) : KeepsDrive fun u => u = { s with link := u.link, queue := u.queue } where
  link := fun _ l _ h => congrArg (fun u : State => { u with link := l }) h
  queue := fun _ q _ _ _ _ h => congrArg (fun u : State => { u with queue := q }) h

/-- What a request for a train, a report or a timer of a train can change. -/
theorem plantFrame (s : State) : KeepsPlant fun u => u =
    { s with link := u.link, faults := u.faults, tiers := u.tiers, queue := u.queue, trains := u.trains,
             caverns := u.caverns, reservations := u.reservations, slots := u.slots, stopRequests := u.stopRequests } where
  link := fun _ l _ h => congrArg (fun u : State => { u with link := l }) h
  faults := fun _ x _ h => congrArg (fun u : State => { u with faults := x }) h
  tiers := fun _ v _ h => congrArg (fun u : State => { u with tiers := v }) h
  queue := fun _ q _ _ _ _ h => congrArg (fun u : State => { u with queue := q }) h
  trains := fun _ v h => congrArg (fun u : State => { u with trains := v }) h
  caverns := fun _ v _ h => congrArg (fun u : State => { u with caverns := v }) h
  reservations := fun _ l _ h => congrArg (fun u : State => { u with reservations := l }) h
  slots := fun _ v _ h => congrArg (fun u : State => { u with slots := v }) h
  stopRequests := fun _ l h => congrArg (fun u : State => { u with stopRequests := l }) h

/-- The tables, the settings, the stations, the gate, the stores and the bus stand through every operation of the
admission, sequencing, envelope, heat grant, schedule and reserve units. -/
theorem tablesFrame (s : State) : KeepsSchedule (tablesKept s) where
  link := fun _ _ _ h => h
  faults := fun _ _ _ h => h
  tiers := fun _ _ _ h => h
  queue := fun _ _ _ _ _ _ h => h
  trains := fun _ _ h => h
  caverns := fun _ _ _ h => h
  reservations := fun _ _ _ h => h
  slots := fun _ _ _ h => h
  stopRequests := fun _ _ h => h
  cache := fun _ _ _ h => h
  lru := fun _ _ h => h
  free := fun _ _ h => h
  engine := fun _ _ h => h
  act := fun _ _ h => h
  shares := fun _ _ h => h
  history := fun _ _ _ h => h

/-- A state keeps its own tables. -/
theorem tablesKept_refl (s : State) : tablesKept s s :=
  ⟨rfl, rfl, rfl, rfl, rfl, rfl, rfl, rfl, rfl, rfl, rfl, rfl, rfl, rfl, rfl, rfl⟩

/-! ### The frames of the shared operations, cited by name -/

theorem hand_frame (s : State) (p : Port) (f : Frame) : s.hand p f = { s with link := (s.hand p f).link } :=
  (linkFrame s).hand rfl p f

theorem answer_frame (s : State) (cls : Byte) (dst seq : HWord) (items : List Item) :
    s.answer cls dst seq items = { s with link := (s.answer cls dst seq items).link } :=
  (linkFrame s).answer rfl cls dst seq items

theorem emit_frame (s : State) (p : Port) (cls : Byte) (dst : HWord) (items : List Item) :
    s.emit p cls dst items = { s with link := (s.emit p cls dst items).link } := (linkFrame s).emit rfl p cls dst items

theorem raise_frame (s : State) (f : FaultInfo) :
    s.raise f = { s with link := (s.raise f).link, faults := (s.raise f).faults, tiers := (s.raise f).tiers } :=
  (faultFrame s).raise rfl f

theorem settle_frame (s : State) : s.settle = { s with link := s.settle.link, queue := s.settle.queue } :=
  (driveFrame s).settle rfl

theorem sendDrive_frame (s : State) (t : TrainId) (k : Byte) (e : Entry) :
    s.sendDrive t k e = { s with link := (s.sendDrive t k e).link, queue := (s.sendDrive t k e).queue } :=
  (driveFrame s).sendDrive rfl t k e

theorem placeCommand_frame (s : State) (t : TrainId) (k : DriveKind) (v : Int) (ref : Option ItemRef)
    (hk : k.isQuantity = false) :
    (s.placeCommand t k v ref).1 =
      { s with link := (s.placeCommand t k v ref).1.link, queue := (s.placeCommand t k v ref).1.queue } :=
  (driveFrame s).placeCommand rfl t k v ref hk

/-- R102: the trips of a cavern's holders, one event, change what a trip can change. -/
theorem tripHolders_frame (s : State) (c : CavernId) (p : Int) :
    s.tripHolders c p =
      { s with link := (s.tripHolders c p).link, faults := (s.tripHolders c p).faults, tiers := (s.tripHolders c p).tiers,
               queue := (s.tripHolders c p).queue, trains := (s.tripHolders c p).trains,
               caverns := (s.tripHolders c p).caverns, reservations := (s.tripHolders c p).reservations,
               slots := (s.tripHolders c p).slots, stopRequests := (s.tripHolders c p).stopRequests } :=
  (plantFrame s).tripHolders rfl c p

/-! ### The bytes a transaction had moved (R162, R166) -/

theorem Bus.moved_length (b : Bus) (bytes : List Byte) :
    (b.moved bytes).length ≤ (b.transfer.map fun x => x.count).getD 0 := by
  unfold Bus.moved
  split
  · exact List.length_take_le _ _
  · exact Nat.zero_le _

theorem Bus.moved_waiting (b : Bus) (bytes : List Byte) (h : (b.txn.any fun t => t.started) = false) :
    b.moved bytes = [] := by
  unfold Bus.moved
  rw [h]
  rfl

/-! ### Writes of TRAINS that make no train UNKNOWN -/

@[simp] theorem State.trainsWritten_nil (s : State) (fs : List Field) : s.trainsWritten fs [] = s := rfl

end Sys2Proof.Machine
end

