-- ==== Sys2Proof/Tests/Slice0.lean ====
section
/-! SUPPORT. The model's own tests: the well-formedness checks, steps on a small plant, and for every statement of
Certificates/Slice0/Obligations.lean states and operands that meet its hypotheses, clause by clause. -/

namespace Sys2Proof.Tests

open Sys2Proof.Machine

set_option Elab.async false

/-! ### The small plant -/

/-- A header from a station to the own address. -/
def hdr (src : HWord) (flags : Byte := 0) : Header := { dst := 0x7F00, src := src, seq := 5, flags := flags }

/-- Two Ethernet addresses. -/
def eth : Eth := { dst := 0x0246000000D1, src := 0x0246000000C1 }

/-- A received frame of the telegram type. -/
def raw (bytes : List Byte) : RawFrame := { eth := eth, type := 0xD7A1, payload := bytes }

/-- A received frame of another type. -/
def foreign : RawFrame := { eth := eth, type := 0x0800, payload := [1, 2] }

/-- An item that names train `t`. -/
def forTrain (kind : Byte) (t : HWord) (value auxA : Word := 0) : Item :=
  { kind := kind, refKind := 1, refId := t, value := value, auxA := auxA, tag := 9 }

/-- One FIELD item of a request. -/
def fld (i : HWord) (n v : Word) : Field := { index := i, number := n, value := v }

/-- A station of the plant network. -/
def upper (a : HWord) (r : Role) (l : Nat) : Station :=
  { inUse := true, address := a, port := .u, role := r, level := l, manage := true }

/-- A train controller. -/
def lower (a : HWord) : Station :=
  { inUse := true, address := a, port := .d, role := .train, idLow := 7, enrolment := .enrolled }

/-- A configured train in a state, engaged and running in GENERATE. -/
def machine (c : StationId) (x : TrainState) : Train :=
  { cfg := { configured := true, controller := c, ratedCharge := 4000, ratedGenerate := 5000, minStable := 500,
             heatGenerate := 1000, defaultEnergy := 100 }
    run := { state := x, engaged := some .generate, mode := some .generate } }

/-- A plant: stations of every upper role, two trains behind controllers 8 and 9, cavern 0, store 0. -/
def plant : State :=
  { State.reset with
    stations := upd (upd (upd (upd (upd (upd (upd (upd State.reset.stations 0 (upper 0x101 .safety 0))
      1 (upper 0x102 .plant 1)) 2 (upper 0x103 .desk 2)) 3 (upper 0x104 .grid 3)) 4 (upper 0x105 .clock 3))
      5 (upper 0x106 .desk 0)) 8 (lower 0x201)) 9 (lower 0x202)
    trains := upd (upd State.reset.trains 0 (machine 8 .running)) 1 (machine 9 .standstill)
    caverns := upd State.reset.caverns 0
      { cfg := { configured := true }
        run := { condition := .agreed, high := some 9000, low := some 9000, chargeBand := some 0,
                 generateBand := some 0, direction := some .generate, holders := 1 } }
    bands := upd State.reset.bands 0 { charge := 3000, generate := 4000 }
    stores := upd State.reset.stores 0
      { cfg := { configured := true, capacity := 90000 }
        run := { condition := .good, stored := 50000, reservable := 50000, headroom := 40000, usable := 1 } }
    gateOpen := true }

/-- Who the stations of the plant are to the block. -/
def source (e : StationId) (r : Role) (l : Nat) (a : HWord) : Source :=
  { entry := e, role := r, level := l, address := a, seq := 5 }

/-- Train 0 in another state. -/
def with0 (x : TrainState) : State := plant.modRun 0 fun r => { r with state := x }

/-- The plant with the gate shut. -/
def shut : State := { plant with gateOpen := false }

/-- The plant synchronised, slot 10 active. -/
def synced : State := { plant with engine := { active := some 10, boundary := some 250000, pre := .done, ramp := some 1,
                                               mark := some 1 } }

/-- The plant with its instrument bus in a state. -/
def onBus (b : Bus) : State := { plant with bus := b }

/-- A transaction. -/
def txn (started retry : Bool) : Txn := { started := started, retry := retry, fast := false, fields := {}, discarded := false }

/-- A management transfer under way. -/
def moving : Transfer := { write := false, address := 0x20, register := 0, count := 2, active := true, dst := 1, seq := 2 }

/-! ### Well-formed commands -/

theorem test_wf_source : (Instr.openGate (hdr 0xFFFF)).wf = false ∧ (Instr.openGate (hdr 0x101)).wf = true := by decide

theorem test_wf_items : (Instr.dispatch (hdr 0x101) (List.replicate 17 {})).wf = false ∧
    (Instr.dispatch (hdr 0x101) (List.replicate 16 {})).wf = true ∧
    (Instr.rollcallReply (hdr 0x201) []).wf = false ∧ (Instr.rollcallReply (hdr 0x201) [{}]).wf = true := by decide

theorem test_wf_fields : (Instr.writeDuties (hdr 0x101) (List.replicate 16 (fld 0 0 0))).wf = false ∧
    (Instr.writeDuties (hdr 0x101) (List.replicate 15 (fld 0 0 0))).wf = true := by decide

theorem test_wf_payload : (Instr.frameCheckDiscard .u (raw (List.replicate 1501 0))).wf = false ∧
    (Instr.frameCheckDiscard .u (raw (List.replicate 1500 0))).wf = true := by decide +kernel

theorem test_wf_form :
    (Instr.malformedTelegram .u (raw [1])).wf = true ∧
    (Instr.malformedTelegram .u (raw ({ cls := 3, hdr := hdr 1, items := [] } : Telegram).toBytes)).wf = false ∧
    (Instr.droppedTelegram .u eth { cls := 3, hdr := hdr 1, items := [] }).wf = true ∧
    (Instr.droppedTelegram .u eth { cls := 15, hdr := hdr 1, items := [] }).wf = false := by decide +kernel

theorem test_wf_bus :
    (Instr.busRecoverAbort (hdr 0x101) (List.replicate 33 0)).wf = false ∧
    (Instr.arbitrationLost (List.replicate 33 0)).wf = false ∧
    (Instr.managementTransferComplete (.ok (List.replicate 33 0))).wf = false ∧
    (Instr.recoveryComplete 10 true).wf = false ∧ (Instr.recoveryComplete 9 true).wf = true ∧
    (Instr.clockLowTimerExpiry [] 10).wf = false ∧ (Instr.clockLowTimerExpiry [] 9).wf = true := by decide

/-! ### Words of the table -/

theorem test_no_row_gives_bits : decodeTableWord 16 0 = none ∧ State.reset.withFetchWord 16 0 = State.reset := by
  decide +kernel

/-- The bytes of a POLL of no items, written out from section 1.10. -/
theorem test_poll_bytes : parseTelegram [1, 3, 0x02, 0x01, 0x01, 0x01, 0, 5, 0, 0, 0, 0] =
    { cls := 3, hdr := { dst := 0x201, src := 0x101, seq := 5 }, items := [] } := by decide

/-- The bytes of a DISPATCH of one item (POWER 4000 for train 0, tag 9), written out from section 1.10. -/
theorem test_dispatch_bytes : parseTelegram
    [1, 1, 0x7F, 0, 0x01, 0x01, 0, 5, 1, 1, 0, 24,
     1, 1, 0, 0, 0, 0, 0x0F, 0xA0, 0, 0, 0, 0, 0, 0, 0, 0, 0, 0, 0, 0, 0, 0, 0, 9] =
    { cls := 1, hdr := { dst := 0x7F00, src := 0x101, seq := 5, flags := 1 }, items := [forTrain 1 0 4000] } := by
  decide

/-! ### Single steps on the plant -/

/-- What a command leaves, by a reading of the next state. -/
def after {α : Type} (c : Instr) (s : State) (f : State → α) : Option α :=
  match step { s with pending := [c] } with
  | .next t => some (f t)
  | _ => none

theorem test_power_is_capped_and_sent :
    after (.dispatch (hdr 0x101) [forTrain kPower 0 4800]) plant
      (fun t => ((t.run 0).power, t.link.d.tx.length, t.pending.length)) = some (4000, 1, 0) := by decide +kernel

theorem test_start_reserves_and_starts :
    after (.dispatch (hdr 0x101) [forTrain kStart 1 0 2]) plant
      (fun t => ((t.run 1).state, (t.run 1).mode, t.reservations.length, (t.cavern 0).run.holders)) =
        some (.starting, some .generate, 1, 3) := by decide +kernel

theorem test_trip_stops_train :
    after (.dispatch (hdr 0x101) [forTrain kTrip 0]) plant
      (fun t => ((t.run 0).state, (t.run 0).lastCause, t.faults.ring.length, (t.cavern 0).run.direction)) =
        some (.tripped, some Cause.trip, 1, none) := by decide +kernel

theorem test_closed_gate_refuses :
    after (.dispatch (hdr 0x101 1) [forTrain kPower 0 100]) shut
      (fun t => ((t.faults.ring.map fun r => r.cause), t.link.u.tx.length, (t.run 0).power)) =
        some ([Cause.gateClosed], 1, 0) := by decide +kernel

theorem test_mark_synchronises :
    after (.timemark (hdr 0x105) { kind := 0x3C, value := 60, auxA := 10 }) plant
      (fun t => (t.engine.active, t.engine.boundary, t.engine.pre)) = some (some 10, some 240000, .running 180000) := by
  decide +kernel

theorem test_boundary_opens_next_slot :
    after .boundaryTimerExpiry synced (fun t => (t.engine.active, t.history.length, (t.slots.get 11).state)) =
      some (some 11, 1, .active) := by decide +kernel

theorem test_close_gate : after (.closeGate (hdr 0x102)) plant (fun t => (t.gateOpen, t.link.u.tx.length)) =
    some (false, 1) := by decide +kernel

theorem test_power_on_straps : after (.powerOn 5) plant (fun t => (t.part.address, (t.station 0).inUse, t.gateOpen)) =
    some (0x7F05, false, false) := by decide +kernel

theorem test_scan_value :
    after (.scanTransactionComplete (.ok 0x01 0x02 0))
      (onBus { state := .scanActive, entry := some 3, txn := some (txn true false) })
      (fun t => ((t.points.get 3).value, (t.points.get 3).quality, t.bus.state)) = some (some 258, .good, .idle) := by
  decide +kernel

theorem test_stop_on_blind_timer :
    after (.blindTimerExpiry 0) (plant.modCavern 0 fun r => { r with blindTimer := .running 0 })
      (fun t => (t.stopRequests, (t.cavern 0).run.blindTimer)) =
        some ([{ train := 0, cause := Cause.blindStop }], .expired) := by decide +kernel

/-- R88: the polls a change of PTRIP releases leave in the order of the list, whatever the order of their trains. -/
theorem test_polls_leave_in_list_order :
    (let poll (t : TrainId) (a : HWord) : HeldPoll :=
       { train := t, frame := { eth := eth, type := a, payload := .raw [] }, src := 0, seq := 0, stamp := 5 }
     let e (t : TrainId) : Entry := { train := t, kind := .stop, value := 0, origin := .sequencer }
     let far (t : TrainId) (s : State) : State := s.modRun t fun r => { r with state := .running }
     after .ptripAsserted
       (far 0 (far 1 { plant with queue := { entries := [e 0, e 1], polls := [poll 1 0x11, poll 0 0x22], stamp := 5,
                                             pacing := upd (upd (Vector.replicate 6 none) 0 (some 9)) 1 (some 9) } }))
       (fun t => (t.link.d.tx.map fun f => f.type).filter fun a => a == 0x11 || a == 0x22)) = some [0x11, 0x22] := by
  decide +kernel

/-- R160: a line that stays low before the start condition ends the transaction when its guard timer runs out. -/
theorem test_guard_timer_ends_a_waiting_transaction :
    (onBus { state := .scanActive, entry := some 3, txn := some (txn false false), clockLow := some 0 }).idleEvent =
      some (.clockLowTimerExpiry [] 0) ∧
    (onBus { state := .scanActive, entry := some 3, txn := some (txn true false), clockLow := some 0 }).idleEvent = none := by
  decide +kernel

theorem test_idle_tick : ((match step State.reset with | .next t => t.roll.period | _ => none) = some 4999) := by
  decide +kernel

/-! ### The hypotheses of the statements, met -/

theorem witness_StepTakesFront : { plant with pending := [.ptripAsserted] }.pending = .ptripAsserted :: [] := rfl

theorem witness_EmptyQueueLetsTimePass :
    (plant.pending = [] ∧ plant.idleEvent = none) ∧
    ({ plant with roll := { period := some 0 } } : State).idleEvent = some .rollCallPeriodExpiry ∧
    ({ plant with roll := { period := some 0 }, stopRequests := [⟨0, Cause.blindStop⟩] } : State).idleEvent =
      some .trainStopRequest ∧
    (onBus { txn := some (txn false false), clockLow := some 0, dataLow := some 0 }).idleEvent =
      some (.clockLowTimerExpiry [] 0) ∧
    (onBus { txn := some (txn true false), clockLow := some 0, dataLow := some 0 }).idleEvent = none := by decide +kernel

theorem witness_FramesOnTheTwoPorts :
    (foreign.type ≠ plant.part.telegramType ∧ plant.part.foreignPass = true) ∧
    { plant with part := { plant.part with foreignPass := false } }.part.foreignPass = false ∧
    ((raw [1]).type = plant.part.telegramType ∧ formCheck (raw [1]).payload = some 1) ∧
    formCheck (raw [1, 3, 0x02, 0x01, 0x01, 0x01, 0, 5, 0, 0, 0, 0]).payload = none ∧
    ((plant.port .u).up = true ∧ (plant.port .u).tx.length < 64) ∧
    ({ up := false } : PortState).up = false ∧
    64 ≤ ({ tx := List.replicate 64 { eth := eth, type := 0, payload := .raw [] } } : PortState).tx.length ∧
    ({ tx := [{ eth := eth, type := 0, payload := .raw [] }] } : PortState).tx ≠ [] := by decide +kernel

/-- One payload for each condition of R2, in order, then one that passes. -/
theorem witness_FormCheckNamesFirstCondition :
    [[1], [2, 3, 0, 0, 0, 0, 0, 0, 0, 0, 0, 0], [1, 15, 0, 0, 0, 0, 0, 0, 0, 0, 0, 0], [1, 3, 0, 0, 0, 0, 0, 0, 0, 17, 0, 0],
     [1, 3, 0, 0, 0, 0, 0, 0, 0, 1, 0, 25], [1, 3, 0, 0, 0, 0, 0, 0, 0, 1, 0, 24], [1, 10, 0, 0, 0, 0, 0, 0, 0, 0, 0, 0],
     [1, 3, 0, 0, 0, 0, 0, 0, 0, 0, 0, 0]].map formCheck =
      [some 1, some 2, some 3, some 4, some 5, some 6, some 7, none] := by decide

theorem witness_TelegramRoundTrip :
    ({ cls := 7, hdr := hdr 0x105, items := [{ kind := 0x3C }], pad := [0] } : Telegram).items.length ≤ 16 ∧
    countSuits 7 1 = true ∧ countSuits 3 16 = true := by decide

theorem witness_SteeringOfTelegrams :
    ([] : List Item).length ≤ 16 ∧ (∀ c ∈ [1, 5, 3, 4, 8, 0x0B, 0x0C, 0x0D, 0x0E], countSuits c 0 = true) ∧
    (∀ c ∈ [6, 7, 0x0A, 9, 2], countSuits c 1 = true) ∧ (hdr 1).dst = plant.part.address ∧
    ({ dst := 0xFFFF, src := 1, seq := 0 } : Header).dst = 0xFFFF ∧
    ({ dst := 0x201, src := 1, seq := 0 } : Header).dst ≠ plant.part.address ∧
    (1 ≤ (0x01 : Byte).toNat ∧ (0x0E : Byte).toNat ≤ 14 ∧ ¬ (0x0F : Byte).toNat ≤ 14 ∧ ¬ 1 ≤ (0x00 : Byte).toNat) := by
  decide +kernel

theorem witness_SourcesAreChecked :
    plant.findStation .u 0x104 = some 3 ∧ plant.findStation .u 0x201 = none ∧ plant.findStation .d 0x101 = none ∧
    plant.findStation .d 0x201 = some 8 ∧ (plant.station 3).role = .grid ∧ (plant.station 4).role = .clock ∧
    requestOfCommand (.openGate (hdr 0x101)) = some (hdr 0x101, .openGate) ∧ (Instr.openGate (hdr 0x101)).wf = true ∧
    State.reset.commissioning = true ∧ (plant.station 0).inUse = true ∧ (plant.station 0).manage = true ∧
    (plant.modStation 1 fun e => { e with manage := false }).findStation .u 0x102 = some 1 := by decide +kernel

theorem witness_NoManagerAtReset :
    ∀ i, (State.reset.station i).inUse = true → (State.reset.station i).port = .u → (State.reset.station i).manage = false := by
  decide +kernel

theorem witness_RequestsByLevelAndReply :
    plant.managerOf (hdr 0x101) = some { dst := 0x101, seq := 5, level := 0 } ∧
    plant.managerOf (hdr 0x102) = some { dst := 0x102, seq := 5, level := 1 } ∧
    requestOfCommand (.readEntries (hdr 0x101) 12 0 1 0) = some (hdr 0x101, .bad) ∧
    highestLevel (.restart (hdr 0x102)) < 1 ∧ 1 ≤ highestLevel (.openGate (hdr 0x102)) ∧
    (Instr.restart (hdr 0x102)).wf = true ∧ requestOfCommand (.restart (hdr 0x102)) = some (hdr 0x102, .restart) := by
  decide +kernel

theorem witness_ManageTelegramIsItsRequest :
    ({ kind := 0x58, auxA := 1 } : Item).kind = 0x58 ∧ ([] : List Item).length ≤ 15 ∧
    plant.managerOf (hdr 0x102) = some { dst := 0x102, seq := 5, level := 1 } ∧ ({ kind := 0x4F } : Item).kind.toNat < 0x50 ∧
    0x5A < ({ kind := 0x5B } : Item).kind.toNat := by decide +kernel

theorem witness_RaisedFaultIsRecorded :
    State.reset.faults.ring.length < 32 ∧
    32 ≤ (List.replicate 32 (faultRecord plant { cause := 0 })).length ∧ synced.engine.active = some 10 ∧
    synced.engine.boundary = some 250000 ∧ plant.engine.active = none := by decide +kernel

/-- A tier with cause 30 pending, and one with it masked. -/
theorem witness_NoticesFollowPendingAndMask :
    (State.raise plant { cause := 30 }).tiers.get 0 = { pending := BitVec.twoPow 61 30 } ∧
    (plant.tiers.get 0).pending.getLsbD 30 = false ∧ ({ mask := 2 } : Tier).mask.getLsbD 1 = true ∧
    ({ plant with part := { plant.part with safetyDest := some 0x101 } } : State).noticeDest 0 (faultRecord plant { cause := 30 })
      = some 0x101 ∧
    plant.noticeDest 0 (faultRecord plant { cause := 30 }) = none ∧
    plant.positionDesk (some (referenceWord 3 3)) = none ∧
    ({ plant with positions := upd plant.positions 3 { desk := some 2 } } : State).positionDesk (some (referenceWord 3 3))
      = some 0x103 := by decide +kernel

theorem witness_NoticesAreClearedAndMasked :
    plant.managerOf (hdr 0x101) = some { dst := 0x101, seq := 5, level := 0 } ∧ (0 : Word).toNat = (0 : TierId).val ∧
    (2 : Word).toNat = (2 : TierId).val ∧ (0x40000000 : Word).getLsbD (30 : Cause).val = true ∧
    (0x80000000 : Word).getLsbD (31 : Cause).val = true ∧ (1 : Word).getLsbD ((32 : Cause).val - 32) = true := by
  decide +kernel

theorem witness_RollCallTimersExpire :
    State.reset.roll.period = some 5000 ∧ State.reset.roll.inRound = false ∧
    (let s : State := { plant with roll := { inRound := true, call := some (8, 1), reply := some 3 } }
     s.roll.reply = some 3 ∧ s.roll.call = some (8, 1) ∧ (s.station 8).enrolment = .enrolled ∧ ¬ s.part.missLimit ≤ 1) ∧
    (let s : State := plant.modStation 8 fun e => { e with misses := 2 }
     s.part.missLimit ≤ (s.station 8).misses + 1 ∧ (0 : TrainId) ∈ s.trainsBehind 8) := by decide +kernel

/-- A chain of couplers 11 to 14 below port D; entry 15 behind them has depth 4. -/
def chain : State :=
  { State.reset with
    stations := upd (upd (upd (upd (upd State.reset.stations 11 { lower 0x210 with role := .coupler })
      12 { lower 0x211 with role := .coupler, via := some 11 })
      13 { lower 0x212 with role := .coupler, via := some 12 }) 14 { lower 0x213 with role := .coupler, via := some 13 })
      15 { lower 0x214 with via := some 14, enrolment := .unenrolled } }

theorem witness_SeekingTheNextCall :
    (∀ i, ¬ (State.reset.roll.cursor ≤ (i : StationId).val ∧ (State.reset.station i).inUse = true)) ∧
    (plant.roll.cursor ≤ 8 ∧ (plant.station 8).inUse = true ∧ (plant.station 8).port = .d ∧ plant.depth 8 ≤ 3 ∧
      (plant.station 8).via = none) ∧
    chain.depth 15 = 4 ∧ chain.depth 14 = 3 ∧
    ((chain.modStation 12 fun e => { e with enrolment := .lost }).station 13).via = some 12 := by decide +kernel

/-- A call to station 8 with sequence 5 outstanding, station 8 not enrolled yet. -/
def called : State :=
  (State.modStation { plant with roll := { inRound := true, call := some (8, 5), reply := some 3 } } 8
    fun e => { e with enrolment := .unenrolled })

theorem witness_RollCallRepliesEnrol :
    called.roll.call = some (8, (hdr 0x201).seq) ∧ (hdr 0x201).src = (called.station 8).address ∧
    (called.station 8).role = .train ∧ (called.station 8).enrolment = .unenrolled ∧ called.enrolledCount < 31 ∧
    (called.station 8).idHigh = 0 ∧ (called.station 8).idLow = 7 ∧ (0 : TrainId) ∈ called.trainsBehind 8 ∧
    (1 : TrainId) ∉ called.trainsBehind 8 ∧ (hdr 0x201).dst = called.part.address ∧
    (hdr 0x202).src ≠ (called.station 8).address := by decide +kernel

/-- The chain below port D with a call to coupler `i`, of which every entry named is ENROLLED. -/
def calling (i : StationId) (l : List StationId) : State :=
  l.foldl (fun s j => s.modStation j fun e => { e with inUse := true, port := .d, enrolment := .enrolled })
    { chain with roll := { inRound := true, call := some (i, 5), reply := some 3 }
                 stations := tabMap (fun e => { e with enrolment := .unenrolled }) chain.stations }

/-- The items of a coupler's reply: depth, count, and the addresses it lists behind itself. -/
def couplerReply (depth count : Word) (l : List HWord) : List Item :=
  { kind := 0x41, value := depth, auxB := 7, auxC := count } :: l.map fun a => { kind := 0x42, refId := a }

theorem witness_CouplerReplies :
    ((calling 11 []).station 11).role = .coupler ∧ ((calling 11 []).station 11).enrolment = .unenrolled ∧
    (calling 11 []).depth 11 = 0 ∧ (calling 14 []).depth 14 = 3 ∧ (calling 11 []).findStation .d 0x211 = some 12 ∧
    ((calling 11 []).station 12).via = some 11 ∧ (calling 11 []).findStation .d 0x212 = some 13 ∧
    ((calling 11 []).station 13).via ≠ some 11 ∧ (calling 11 []).findStation .d 0x300 = none ∧
    (couplerReply 0 1 [0x300]).filter (fun y => y.kind == 0x42) = [{ kind := 0x42, refId := 0x300 }] ∧
    nat 15 = (15 : Word) ∧ ¬ 15 < (15 : Word).toNat ∧ 15 < (16 : Word).toNat ∧
    ((calling 11 [11]).station 11).enrolment = .enrolled ∧ (calling 11 []).enrolledCount < 31 ∧
    31 ≤ (calling 11 ((fins 32).filter fun j => j != 11)).enrolledCount ∧
    (13 ∈ viaChain (calling 11 []).stations 14) := by decide +kernel

/-- Enrolments of entries 11, 12, 13 and the causes raised after a reply to a call of coupler 11, which then ends; where the
seeking that follows reaches entry 15 it is rejected for its depth of 4. -/
def replied (l : List StationId) (items : List Item) : Option (List Enrolment × List Cause) :=
  (match exec (.rollcallReply (hdr 0x210) items) (calling 11 l) with
   | .next t => some ([11, 12, 13].map fun i => (t.station i).enrolment, t.faults.ring.map fun r => r.cause)
   | _ => none)

theorem test_coupler_replies :
    replied [] (couplerReply 0 1 [0x211]) = some ([.enrolled, .unenrolled, .unenrolled], []) ∧
    replied [12] (couplerReply 1 0 []) = some ([.rejected, .rejected, .rejected], [Cause.topologyExceeded]) ∧
    replied [13] (couplerReply 0 1 [0x212]) = some ([.enrolled, .unenrolled, .rejected], [Cause.unexpectedStation]) ∧
    replied [12] [{ kind := 0x42 }] = some ([.rejected, .lost, .unenrolled],
      [Cause.identityMismatch, Cause.stationLost, Cause.topologyExceeded]) := by
  decide +kernel

theorem witness_dispatches : plant.dispatches (hdr 0x101) (source 0 .safety 0 0x101) ∧
    plant.dispatches (hdr 0x102 1) (source 1 .plant 1 0x102) ∧ wantsReply (hdr 0x102 1) = true ∧
    wantsReply (hdr 0x102) = false ∧ plant.dispatches (hdr 0x103) (source 2 .desk 2 0x103) :=
  ⟨⟨by decide +kernel, by decide +kernel⟩, ⟨by decide +kernel, by decide +kernel⟩, by decide, by decide,
   ⟨by decide +kernel, by decide +kernel⟩⟩

theorem witness_AdmissionRefusals :
    shut.dispatches (hdr 0x101) (source 0 .safety 0 0x101) ∧ shut.gateOpen = false ∧ plant.gateOpen = true ∧
    (∀ k ∈ [1, 11], 1 ≤ k ∧ k ≤ 11) ∧ 2 ≤ (source 2 .desk 2 0x103).level ∧ (source 1 .plant 1 0x102).level = 1 ∧
    (forTrain kUnlock 0).kind = kUnlock :=
  ⟨⟨by decide +kernel, by decide +kernel⟩, by decide +kernel, by decide +kernel, by decide, by decide, by decide, by decide⟩

/-- The plant with POSITION 3 mapped to DUTY 2 mapped to train 0, and both keys cached in way 0 of their sets. -/
def mapped : State :=
  { plant with
    positions := upd (upd plant.positions 3 { state := .mapped, duty := 2, allow := 7, limit := 100, desk := some 2 })
      4 { state := .null }
    duties := upd (upd plant.duties 2 { mapped := true, train := 0, allow := 3, limit := 80 })
      5 { mapped := true, train := 4 } }

theorem witness_ReferencesAreResolved :
    (mapped.positions.get 3).state = .mapped ∧ (mapped.positions.get 4).state = .null ∧
    (mapped.positions.get 127).state = .unused ∧ (mapped.duties.get 2).mapped = true ∧
    (mapped.duties.get 0).mapped = false ∧ (mapped.cfg (mapped.duties.get 5).train).configured = false ∧
    (mapped.positions.get 3).duty = 2 ∧ (mapped.cfg 0).configured = true ∧
    ((mapped.lookup true 3).1.cache.get (cacheIndex (cacheSet 3) false)).valid = true ∧
    ((mapped.lookup true 3).1.cache.get (cacheIndex (cacheSet 3) false)).key = 3 ∧
    (mapped.cache.get (cacheIndex (cacheSet 3) false)).valid = false := by decide +kernel

/-- The mapped plant with a DUTY that allows GENERATE only, and a POSITION of it that allows CHARGE only. -/
def narrow : State :=
  { mapped with
    positions := upd mapped.positions 6 { state := .mapped, duty := 2, allow := 2, limit := 100, desk := some 2 }
    duties := upd mapped.duties 6 { mapped := true, train := 0, allow := 1, limit := 80 } }

/-- The cause of the last fault a command leaves. -/
def lastFault (c : Instr) (s : State) : Option Cause := (after c s fun t => (t.faults.ring.getLast?.map fun r => r.cause)).join

/-- The cause of the last fault an item by a DUTY or POSITION leaves. -/
def refusedBy (src : HWord) (k rk : Byte) (id : HWord) (v a : Word) (s : State) : Option Cause :=
  lastFault (.dispatch (hdr src) [{ kind := k, refKind := rk, refId := id, value := v, auxA := a }]) s

/-- R29 to R41: items refused once their reference is looked up, in the order of the checks. -/
theorem test_resolved_items_refused :
    [refusedBy 0x101 kStop 2 0 0 0 narrow, refusedBy 0x101 kStop 2 5 0 0 narrow, refusedBy 0x101 kStop 1 4 0 0 narrow,
     refusedBy 0x106 kStop 3 3 0 0 narrow, refusedBy 0x101 kStart 2 2 0 0 narrow, refusedBy 0x101 kStart 2 6 0 1 narrow,
     refusedBy 0x101 kPower 3 6 5 0 narrow, refusedBy 0x101 kPower 2 2 0xFFFFFFFF 0 narrow,
     refusedBy 0x103 kPower 2 2 5 0 narrow,
     refusedBy 0x101 kStop 2 2 0 0 (narrow.modStation 8 fun e => { e with enrolment := .lost })] =
    [Cause.dutyUnused, Cause.trainUnconfigured, Cause.trainUnconfigured, Cause.positionForeign, Cause.modeMismatch,
     Cause.dutyDenied, Cause.positionDenied, Cause.modeMismatch, Cause.notPermitted, Cause.trainUnreachable].map some := by
  decide +kernel

/-- R34, R43: POWER by a POSITION, within the lower limit of its translation. -/
theorem test_power_by_position :
    after (.dispatch (hdr 0x101) [{ kind := kPower, refKind := 3, refId := 3, value := 5000 }]) mapped
      (fun t => ((t.run 0).power, t.faults.ring.length)) = some (80, 0) := by decide +kernel

theorem witness_FencesInvalidateTheirScope :
    mapped.managerOf (hdr 0x103) = some { dst := 0x103, seq := 5, level := 2, desk := some 2 } ∧
    (let e := (mapped.lookup true 3).1.cache.get (cacheIndex (cacheSet 3) false)
     e.valid = true ∧ e.isPosition = true ∧ e.key = 3 ∧ e.desk = some 2 ∧ e.duty = some 2) := by decide +kernel

theorem witness_controls : plant.controls (source 0 .safety 0 0x101) (forTrain kAuto 0) 0 :=
  ⟨by decide +kernel, by decide, by decide +kernel, by decide +kernel, by decide, by decide⟩

theorem witness_ControlLockAndResetRequests :
    ((with0 .standstill).run 0).state = .standstill ∧ ((with0 .locked).run 0).state = .locked ∧
    ((with0 .unknown).run 0).state = .unknown ∧ ((with0 .tripped).run 0).state = .tripped ∧
    (with0 .tripped).reachable 0 = true ∧ { with0 .tripped with ptrip := true }.ptrip = true ∧
    (with0 .tripped).ptrip = false ∧ (source 0 .safety 0 0x101).level = 0 := by decide +kernel

/-- R58: STOP of a train RUNNING and of one at STANDSTILL. -/
theorem test_stop_requests :
    after (.dispatch (hdr 0x101) [forTrain kStop 0]) plant (fun t => ((t.run 0).state, (t.run 0).timer, (t.cavern 0).run.holders)) =
      some (.stopping, some (.stop, 900000), 1) ∧
    after (.dispatch (hdr 0x101) [forTrain kStop 1]) plant (fun t => ((t.run 1).state, t.faults.ring.length)) =
      some (.standstill, 0) ∧
    lastFault (.dispatch (hdr 0x101) [forTrain kStop 0]) (with0 .tripped) = some Cause.trainState := by decide +kernel

/-- The plant with cavern 0 free, a heat ratio of train 1 in CHARGE, and an amount of heat in store 0. -/
def filled (stored : Nat) : State :=
  { plant with
    trains := modAt plant.trains 1 fun x => { x with cfg := { x.cfg with heatCharge := 700 } }
    caverns := modAt plant.caverns 0 fun c => { c with run := { c.run with direction := none, holders := 0 } }
    stores := modAt plant.stores 0 fun k =>
      { k with run := { k.run with stored := stored, headroom := 90000 - stored } } }

/-- The cause of the last fault an item for a train leaves. -/
def refusedTrain (src : HWord) (k : Byte) (t : HWord) (v m : Word) (s : State) : Option Cause :=
  lastFault (.dispatch (hdr src) [forTrain k t v m]) s

/-- R53, R110: the causes a START is refused with, and an overfull store that makes no FILL grant. -/
theorem test_starts_refused :
    [refusedTrain 0x101 kStart 0 0 2 plant, refusedTrain 0x101 kStart 1 0 1 plant,
     refusedTrain 0x101 kStart 1 0 2 { plant with ptrip := true },
     refusedTrain 0x101 kStart 1 0 2 (plant.modCavern 0 fun r => { r with condition := .disagreed }),
     refusedTrain 0x101 kStart 1 0 1 (filled 90001), refusedTrain 0x101 kStart 1 0 1 (filled 90000),
     refusedTrain 0x101 kStart 1 0 1 (filled 50000)] =
    [some Cause.trainState, some Cause.directionConflict, some Cause.tripLineActive, some Cause.envelopeStart,
     some Cause.heatShort, none, none] := by decide +kernel

theorem witness_StartRequests :
    (forTrain kStart 1 0 2).auxA = 2 ∧ plant.reachable 1 = true ∧ (plant.run 1).state = .standstill ∧
    (plant.cfg 1).kind.allows .generate = true ∧ plant.ptrip = false ∧
    plant.permitsStart (plant.cfg 1).cavern .generate = true ∧
    (plant.cavern (plant.cfg 1).cavern).run.direction = some .generate ∧
    (plant.cfg 1).heatRatio .generate ≠ 0 ∧ (plant.store (plant.cfg 1).store).cfg.configured = true ∧
    (plant.store (plant.cfg 1).store).run.condition ≠ .blind ∧ plant.reservations.length < 10 ∧
    max ((plant.cfg 1).defaultEnergy * 1000 / 1000) 0 ≤ plant.available 0 .draw ∧ (plant.cfg 1).heatRatio .charge = 0 ∧
    (plant.run 1).engaged = some .generate := by decide +kernel

theorem witness_TripRequests :
    (forTrain kTrip 0).kind = kTrip ∧ (forTrain kTrip 0).refKind = 1 ∧ (forTrain kTrip 0).refId.toNat = (0 : TrainId).val ∧
    (plant.cfg 0).configured = true ∧ (plant.run 0).state.holdsClaim = true ∧ (plant.run 1).state.holdsClaim = false ∧
    (source 1 .plant 1 0x102).level ≤ 1 := by decide +kernel

theorem witness_QuantityRequests :
    plant.controls (source 0 .safety 0 0x101) (forTrain kPower 0 4000) 0 ∧ (0 : Int) ≤ (forTrain kPower 0 4000).value.toInt ∧
    plant.reachable 0 = true ∧ (plant.run 0).state = .running ∧ (plant.run 0).auto = false ∧
    (plant.run 0).engaged = some .generate ∧ plant.queue.entries.length < 12 :=
  ⟨⟨by decide +kernel, by decide, by decide +kernel, by decide +kernel, by decide, by decide⟩, by decide,
   by decide +kernel, by decide +kernel, by decide +kernel, by decide +kernel, by decide +kernel⟩

/-- A waiting entry. -/
def waiting (t : TrainId) (k : DriveKind) : Entry := { train := t, kind := k, value := 1, origin := .admitted }

/-- The plant with `n` commands of train 5 waiting. -/
def full (n : Nat) : State :=
  { plant with queue := { entries := List.replicate n (waiting 5 .start), pacing := upd (Vector.replicate 6 none) 5 (some 9) } }

/-- The plant with train 0 in AUTO. -/
def autoPlant : State := plant.modRun 0 fun r => { r with auto := true }

/-- Store 0 with layer 0 read, train 0 with a reactive limit. -/
def warm : State :=
  { plant with
    trains := modAt plant.trains 0 fun x => { x with cfg := { x.cfg with reactiveLimit := 40 } }
    layers := upd plant.layers 0 { coefficient := 10, base := 100, last := some 2300 }
    scan := upd plant.scan 2 { inUse := true, destKind := .layer }
    points := upd plant.points 2 { value := some 2300, quality := .good, age := some 0 } }

/-- What an item for train 0 leaves of it: REACTIVE, REHEAT, control. -/
def leftOf0 (k : Byte) (v : Word) (s : State) : Option (Int × Int × Bool) :=
  after (.dispatch (hdr 0x101) [forTrain k 0 v]) s fun t => ((t.run 0).reactive, (t.run 0).reheat, (t.run 0).auto)

/-- R43, R57, R122: REACTIVE and REHEAT placed, and what refuses a quantity. -/
theorem test_quantities :
    [leftOf0 kReactive 50 warm, leftOf0 kReheat 2400 warm, leftOf0 kReheat 2000 warm, leftOf0 kPower 5 autoPlant] =
      [some (40, 0, false), some (0, 2150, false), some (0, 2000, false), some (0, 0, false)] ∧
    [refusedTrain 0x101 kPower 0 5 0 autoPlant, refusedTrain 0x102 kPower 0 5 0 autoPlant,
     refusedTrain 0x101 kPower 1 5 0 plant,
     refusedTrain 0x101 kReheat 0 5 0 (plant.modRun 0 fun r => { r with mode := some .charge }),
     refusedTrain 0x101 kReheat 0 5 0 { warm with stores := State.reset.stores },
     refusedTrain 0x101 kPower 0 5 0 (full 12)] =
      [Cause.override, Cause.notManual, Cause.trainState, Cause.modeMismatch, Cause.storeBlind, Cause.queueFull].map some := by
  decide +kernel

theorem witness_FirstUsableLayer :
    leastIndex (fun l : LayerId => l.val / 16 = ((warm.cfg 0).store).val ∧
      l.val % 16 < (warm.store (warm.cfg 0).store).cfg.layerCount ∧ warm.layerUsable l = true) 0 ∧
    (warm.layer 0).last = some 2300 ∧ (warm.run 0).mode ≠ some .charge := by
  refine ⟨⟨by decide +kernel, ?_⟩, by decide +kernel, by decide +kernel⟩
  intro j h
  exact absurd h (by omega)

theorem witness_DriveQueuePlacement :
    (plant.run 1).state ≠ .running ∧ (plant.run 0).state = .running ∧ plant.gateOpen = true ∧ shut.gateOpen = false ∧
    (∀ e ∈ (full 11).queue.entries, ¬ (e.train = 0 ∧ e.kind = .power)) ∧ (full 11).queue.entries.length < 12 ∧
    12 ≤ (full 12).queue.entries.length ∧ (full 15).queue.entries.length < 16 ∧ 16 ≤ (full 16).queue.entries.length ∧
    DriveKind.isQuantity .power = true ∧ DriveKind.isQuantity .engage = false ∧
    ((full 16).queue.entries.filter fun e => !(e.train == 0 && !e.kind.isQuantity)).length = 16 := by decide +kernel

/-- Train 0 with an entry of its own, its pacing timer running. -/
def paced : State :=
  { plant with queue := { entries := [waiting 0 .power], pacing := upd (Vector.replicate 6 none) 0 (some 1) } }

theorem witness_PacingExpirySendsTheOldestEntry :
    (∀ x, paced.queue.holds.get x = none) ∧ (∀ x, paced.queue.pendings.get x = none) ∧ paced.queue.polls = [] ∧
    (∀ e ∈ paced.queue.entries, e.train = 0) ∧ paced.reachable 0 = true ∧
    paced.queue.entriesOf 0 = waiting 0 .power :: [] ∧ paced.queue.entriesOf 1 = [] := by decide +kernel

theorem witness_PollsAreForwardedHeldOrRefused :
    plant.findStation .u (hdr 0x101).src = some 0 ∧ paced.findStation .d 0x201 = some 8 ∧ paced.trainsBehind 8 = [0] ∧
    paced.queue.entriesOf 0 ≠ [] ∧ paced.queue.polls.length < 4 ∧ plant.queue.entriesOf 0 = [] ∧
    plant.queue.holds.get 0 = none ∧ (plant.setTrain 1 {}).trainsBehind 9 = [] ∧ paced.findStation .d 0xFFFF = none ∧
    paced.findStation .d 0x300 = none ∧
    4 ≤ (List.replicate 4 { train := 0, frame := { eth := eth, type := 0, payload := .raw [] }, src := 0, seq := 0,
                            stamp := 0 : HeldPoll }).length := by decide +kernel

/-- A RUN_STATE report. -/
def reports (w : Word) : List Item := [{ kind := 0x20, value := w }]

theorem witness_ReportsAreTaken :
    plant.findStation .d (hdr 0x202).src = some 9 ∧ (plant.station 9).enrolment = .enrolled ∧
    plant.trainsBehind 9 = [1] ∧ (plant.run 1).state = .standstill ∧ (readReport (reports 0)).runState = some .standstill ∧
    plant.trainsBehind 8 = [0] ∧ ((with0 .starting).run 0).state = .starting ∧
    (readReport (reports 3)).runState = some .synchronised ∧ ((with0 .stopping).run 0).state = .stopping ∧
    ((with0 .engaging).run 0).state = .engaging ∧
    (readReport (reports 5)).runState = some .tripped ∧ (plant.run 0).state = .running ∧ (readReport []).runState = none ∧
    (called.station 8).enrolment ≠ .enrolled := by decide +kernel

theorem witness_ReportsOfUnknownTrains :
    ((with0 .unknown).run 0).state = .unknown ∧ ((with0 .engaging).run 0).mode = some .generate ∧
    (readReport [{ kind := 0x21, value := 2 }]).mode = some (some .generate) ∧
    (readReport [{ kind := 0x21, value := 1 }]).mode ≠ some ((with0 .engaging).run 0).mode ∧
    (plant.cfg 0).kind = .reversible ∧ ((plant.modRun 0 fun r => { r with engaged := none }).run 0).engaged = none ∧
    ({ plant with ptrip := true } : State).ptrip = true ∧ plant.ptrip = false ∧
    (plant.cavern (plant.cfg 0).cavern).run.direction = some .generate ∧ RunMode.generate ≠ .charge ∧
    (plant.cfg 0).heatRatio .charge = 0 ∧ plant.part.failureLimit = 3 := by decide +kernel

/-- What a report of train 0, UNKNOWN and engaged in GENERATE, leaves: state, mode, POWER, causes raised. -/
def resynced (s : State) (items : List Item) : Option (TrainState × Mode × Nat × List Cause) :=
  (match exec (.report eth (hdr 0x201) items []) s with
   | .next t => some ((t.run 0).state, (t.run 0).mode, (t.run 0).power, t.faults.ring.map fun r => r.cause)
   | _ => none)

theorem test_resynchronisation :
    resynced (with0 .unknown) [{ kind := 0x20, value := 3 }, { kind := 0x22, value := 9000 }] =
      some (.running, some .generate, 5000, []) ∧
    resynced (with0 .unknown) [{ kind := 0x20, value := 3 }, { kind := 0x21, value := 1 }] =
      some (.tripped, none, 0, [Cause.resyncConflict]) := by decide +kernel

/-- The state and last cause a report of train 0 leaves. -/
def leftByReport (x : TrainState) (w : Word) : Option (TrainState × Option Cause) :=
  after (.report eth (hdr 0x201) (reports w) []) (with0 x) fun t => ((t.run 0).state, (t.run 0).lastCause)

/-- R67: reports that find a train in another state than the part does: the state and last cause they leave. -/
theorem test_unexpected_reports :
    ([(.running, 0), (.running, 4), (.running, 3), (.starting, 4), (.starting, 5), (.starting, 1), (.stopping, 3),
      (.standstill, 5), (.standstill, 3), (.locked, 3), (.locked, 0), (.tripped, 0)].map fun x => leftByReport x.1 x.2) =
      [some (.standstill, some Cause.unexpectedReport), some (.stopping, some Cause.unexpectedReport),
       some (.running, none), some (.stopping, some Cause.unexpectedReport), some (.tripped, some Cause.trip),
       some (.starting, none), some (.stopping, none), some (.tripped, some Cause.trip),
       some (.running, some Cause.unexpectedReport), some (.tripped, some Cause.unexpectedReport), some (.locked, none),
       some (.tripped, none)] ∧
     after (.report eth (hdr 0x201) (reports 0) []) ((with0 .tripped).modRun 0 fun r => { r with reset := true })
       (fun t => ((t.run 0).state, (t.run 0).reset)) = some (.standstill, false) := by decide +kernel

/-- Two trains behind one controller. -/
def shared : State := { plant with trains := modAt plant.trains 1 fun x => { x with cfg := { x.cfg with controller := 8 } } }

theorem test_report_of_two_trains :
    shared.trainsBehind 8 = [0, 1] ∧
    after (.report eth (hdr 0x201) (reports 0) []) shared (fun t => ((t.run 0).age, (t.run 1).age)) =
      some (some 0, some 0) := by decide +kernel

/-- R66: the engaged mode follows the MODE of a report that moves the train under R55 or R59. -/
theorem test_mode_at_transitions :
    (let left (x : TrainState) (w mode : Word) : Option (TrainState × Mode) :=
       after (.report eth (hdr 0x201) [{ kind := 0x20, value := w }, { kind := 0x21, value := mode }] []) (with0 x)
         fun t => ((t.run 0).state, (t.run 0).engaged)
     left .engaging 3 0 = some (.stopping, none) ∧ left .engaging 5 1 = some (.tripped, some .charge) ∧
     left .stopping 5 1 = some (.tripped, some .charge) ∧ left .starting 5 1 = some (.tripped, some .generate)) := by
  decide +kernel

theorem witness_TrainTimersAndStopRequests :
    ((plant.modRun 0 fun r => { r with timer := some (.engage, 1) }).run 0).timer = some (.engage, 1) ∧
    ((plant.modRun 0 fun r => { r with timer := some (.start, 1) }).run 0).timer = some (.start, 1) ∧
    ((plant.modRun 0 fun r => { r with timer := some (.stop, 1) }).run 0).timer = some (.stop, 1) ∧
    (plant.run 0).timer = none ∧ ¬ plant.part.failureLimit ≤ 2 ∧ plant.part.failureLimit ≤ 3 ∧
    ({ plant with stopRequests := [{ train := 0, cause := Cause.blindStop }] } : State).stopRequests ≠ [] ∧
    (plant.run 0).state = .running ∧ (plant.run 1).state = .standstill ∧ (plant.run 2).state = .unknown := by
  decide +kernel

theorem witness_TripLineTakesTrainsDown :
    (plant.cfg 0).configured = true ∧ (plant.run 0).state.holdsClaim = true ∧ (plant.run 1).state.holdsClaim = false := by
  decide +kernel

theorem witness_DirectionClaimsAndPowerCap :
    (plant.cavern 0).run.holders.getLsbD 0 = true ∧ (plant.cavern 0).run.holders.getLsbD 1 = false ∧
    (plant.cavern 0).run.condition ≠ .blind ∧ (plant.cavern 1).run.condition = .blind ∧
    (plant.cavern 0).run.direction = some .generate ∧ (plant.cavern 1).run.direction = none := by decide +kernel

/-- The plant with transmitters A and B of cavern 0 read by scan entries 0 and 1. -/
def measured (a b : Option Int) : State :=
  { plant with
    scan := upd (upd plant.scan 0 { inUse := true, destKind := .cavernA }) 1 { inUse := true, destKind := .cavernB }
    points := upd (upd plant.points 0 { value := a, quality := .good, age := some 0 })
      1 { value := b, quality := .good, age := some 0 } }

theorem witness_CavernConditionAndTimers :
    (plant.cavern 0).cfg.configured = true ∧ (plant.cavern 1).cfg.configured = false ∧
    (measured (some 9000) (some 9100)).usablePressure 0 .a = some 9000 ∧
    (measured (some 9000) (some 9101)).usablePressure 0 .b = some 9101 ∧
    (measured (some 1) none).usablePressure 0 .b = none ∧ (measured (some 1) none).usablePressure 0 .a = some 1 ∧
    (measured none (some 1)).usablePressure 0 .a = none ∧ (measured none (some 1)).usablePressure 0 .b = some 1 ∧
    plant.usablePressure 0 .a = none ∧ plant.usablePressure 0 .b = none ∧ plant.cavernPoint 0 .a = none ∧
    (measured none none).cavernPoint 0 .a = some 0 ∧ (plant.cavern 0).run.stale .a = none ∧
    ({ staleA := some 1 } : CavernRun).stale .a = some 1 ∧ ({ blindTimer := .running 1 } : CavernRun).blindTimer = .running 1 := by
  decide +kernel

/-- R91: at exactly the staleness limit a transmitter is usable until its timer has expired there. -/
theorem test_usable_at_the_limit :
    (let usable (age : Nat) (x : Option Nat) : Option Int :=
       ((measured (some 1) none).modPoint 0 fun p => { p with age := some age, staleAt := x }).usablePressure 0 .a
     usable 4999 none = some 1 ∧ usable 5000 none = some 1 ∧ usable 5000 (some 5000) = none ∧ usable 5001 none = none) ∧
    after (.cavernStalenessTimerExpiry 0 .a)
      (((measured (some 1) none).modCavern 0 fun r => { r with staleA := some 0 }).modPoint 0 fun p => { p with age := some 5000 })
      (fun t => ((t.cavern 0).run.condition, (t.points.get 0).age)) = some (.blind, some 5000) := by decide +kernel

/-- R163: a cavern that was the destination of a written entry only before the write is recomputed. -/
theorem test_scan_write_recomputes_the_former_cavern :
    after (.writeScan (hdr 0x102) [fld 0 7 1]) (measured (some 9000) (some 9050))
      (fun t => ((t.cavern 0).run.condition, (t.cavern 0).run.high, t.points.get 0)) = some (.single, some 9050, {}) := by
  decide +kernel

/-- Cavern 0 measured at two pressures with a rate window of age `e` at 9000 kPa in both, charging within `hardMax`. -/
def windowed (e : Nat) (p : Int) (hardMax : Nat) : State :=
  let s := measured (some p) (some p)
  { s with caverns := modAt s.caverns 0 fun c =>
      { cfg := { c.cfg with hardMax := hardMax, staleness := 1 }
        run := { c.run with usableA := true, usableB := true, windowAge := some e, windowHigh := some 9000,
                            windowLow := some 9000, direction := some .charge } } }

theorem witness_RatesAndHardLimits :
    (windowed 9999 9100 30000).usablePressure 0 .a = some 9100 ∧ ((windowed 9999 9100 30000).cavern 0).run.usableB = true ∧
    ((windowed 10000 9100 9100).cavern 0).run.windowAge = some 10000 ∧
    ((windowed 0 9100 9100).cavern 0).cfg.rateWindow * 1000 = 300000 ∧
    ((windowed 0 9100 9100).cavern 0).run.holders.getLsbD 0 = true ∧ ((windowed 0 9100 9100).run 0).state.holdsClaim = true ∧
    ((measured none none).cavern 0).run.windowAge = none := by decide +kernel

/-- The rise rate, the RISE_HOLD flag, the state of train 0 and the causes raised by a recomputation. -/
def recomputed (s : State) : Nat × Bool × TrainState × List Cause :=
  let t := s.recomputeCavern 0
  ((t.cavern 0).run.rise, (t.cavern 0).run.riseHold, (t.run 0).state, t.faults.ring.map fun r => r.cause)

theorem test_rates_and_hard_limits :
    recomputed (windowed 9999 9100 30000) = (0, false, .running, []) ∧
    recomputed (windowed 10000 9100 9101) = (36000, true, .running, [Cause.rateHold]) ∧
    recomputed (windowed 10000 9000 9000) = (0, false, .tripped, [Cause.envelopeTrip]) := by decide +kernel

/-- R82: a write of CAVERNS that trips train 0 sends TRIP, then its held poll, then the command the refill moved in. -/
theorem test_polls_leave_before_the_refill :
    (let e (t : TrainId) (k : DriveKind) : Entry := { train := t, kind := k, value := 0, origin := .sequencer }
     let poll : HeldPoll := { train := 0, frame := { eth := eth, type := 0x11, payload := .raw [] }, src := 0, seq := 0, stamp := 5 }
     after (.writeCaverns (hdr 0x102) [fld 0 7 100])
       { windowed 0 30000 30000 with
         queue := { entries := List.replicate 16 (e 0 .power), holds := upd (Vector.replicate 6 none) 1 (some (e 1 .stop)),
                    polls := [poll], stamp := 5 } }
       (fun t => t.link.d.tx.map fun f => match f.payload with
         | .telegram x => x.items.map fun i => (i.kind, i.refId)
         | .raw _ => [])) = some [[(kTrip, 0)], [], [(kStop, 1)]] := by decide +kernel

/-- The plant whose store 0 has 2 layers, layer 0 read by scan entry 2. -/
def layered : State :=
  { plant with
    stores := upd plant.stores 0 { cfg := { configured := true, layerCount := 2, capacity := 900 } }
    layers := upd plant.layers 0 { coefficient := 10, base := 100, last := some 500, stale := some 1 }
    scan := upd plant.scan 2 { inUse := true, destKind := .layer }
    points := upd plant.points 2 { value := some 500, quality := .good, age := some 0 } }

theorem witness_StoreRecomputation :
    (layered.store 0).cfg.configured = true ∧ (layered.store 1).cfg.configured = false ∧
    (((fins 64).filter fun i => i.val / 16 == 0 && i.val % 16 < 2).filter layered.layerUsable).length = 1 ∧
    (layered.layer 0).stale = some 1 ∧ (layered.layer 1).stale = none ∧ layered.pointFor .layer 0 = some 2 ∧
    layered.pointFor .layer 1 = none ∧ 0 % 16 < (layered.store 0).cfg.layerCount := by decide +kernel

theorem witness_HeatGrants :
    (plant.cfg 0).heatCharge = 0 ∧ ((filled 90001).cfg 1).heatCharge ≠ 0 ∧ (plant.cfg 0).heatGenerate ≠ 0 ∧
    ((filled 90001).store 0).cfg.capacity < ((filled 90001).store 0).run.stored ∧ (plant.store 0).cfg.configured = true ∧
    (plant.store 1).cfg.configured = false ∧ (plant.store 0).run.condition ≠ .blind ∧ plant.reservations.length < 10 ∧
    max (50000 * 1000 / 1000) 0 ≤ plant.available 0 .draw ∧ plant.available 0 .draw < max (50001 * 1000 / 1000) 0 ∧
    (plant.store 0).cfg.minGrant ≤ plant.available 0 .draw := by decide +kernel

/-- The plant where train 0 holds a CURRENT record of 100 with counter `c`, 40 heat reservable, quantum 30. -/
def holding (c : Option Word) : State :=
  { plant with
    stores := modAt plant.stores 0 fun k => { cfg := { k.cfg with quantum := 30 }, run := { k.run with reservable := 40 } }
    reservations := [{ train := 0, store := 0, kind := .draw, phase := .current, slot := none, granted := 100, consumed := 0,
                       basis := 100, counter := c }] }

/-- What a report of a generated-energy counter leaves: the stop requests waiting, then the record's granted, consumed and counter. -/
def consumed (c : Option Word) (g : Word) : Option (List Nat) :=
  after (.report eth (hdr 0x201) [{ kind := 0x24, value := g }] []) (holding c)
    fun t => t.stopRequests.length :: (t.reservations.map fun r => [r.granted, r.consumed, (r.counter.map BitVec.toNat).getD 7]).flatten

/-- R115, R117: consumption, an extension, an exhaustion, and a counter taken. -/
theorem test_consumption :
    [consumed (some 0xFFFFFFFF) 59, consumed (some 0) 110, consumed (some 0) 111, consumed none 50] =
      [some [0, 100, 60, 0xFFFFFFFF], some [0, 140, 110, 0], some [1, 100, 111, 0], some [0, 100, 0, 50]] := by decide +kernel

theorem witness_TrimAndConsumption :
    plant.excess 0 .draw = 0 ∧ ((holding none).run 0).state = .running ∧ ((holding none).run 0).mode = some .generate ∧
    ((holding none).reservations.find? fun x => x.train == 0 && x.phase == .current).isSome = true ∧
    (readReport [{ kind := 0x24, value := 5 }]).runState = none ∧ (readReport [{ kind := 0x24, value := 5 }]).gen = some 5 := by
  decide +kernel

/-- A SCHEDULE item for a slot. -/
def commit (kind : Byte) (p : HWord) (n : Word) : Item := { kind := kind, refKind := 3, refId := p, value := 100, auxA := n }

theorem witness_ScheduleItemsActOnTheRing :
    (hdr 0x103).dst = synced.part.address ∧
    synced.sourceOf .u (hdr 0x103) (fun e => e.role == .desk) = some (source 2 .desk 2 0x103) ∧
    synced.engine.active = some 10 ∧ (13 : Word).toNat ≤ (10 : Word).toNat + synced.part.gateLead ∧
    ¬ (14 : Word).toNat ≤ (10 : Word).toNat + synced.part.gateLead ∧ (10 : Word).toNat + 47 < (58 : Word).toNat ∧
    ¬ (10 : Word).toNat + 47 < (57 : Word).toNat ∧ (mapped.positions.get 3).desk = some 2 ∧
    (mapped.positions.get 5).desk = none ∧ (commit 0x30 127 14).refId.toNat = (127 : Fin 128).val ∧
    128 ≤ (commit 0x30 128 14).refId.toNat ∧ (plant.slots.get 0).commits.length < 8 ∧ plant.engine.active = none := by
  decide +kernel

theorem witness_partInRange : plant.part.inRange ∧ synced.part.inRange := by
  unfold Part.inRange
  decide +kernel

theorem witness_TimeMarksSynchroniseAndCorrect :
    synced.sourceOf .u (hdr 0x105) (fun e => e.role == .clock) = some (source 4 .clock 3 0x105) ∧
    plant.sourceOf .u (hdr 0x105) (fun e => e.role == .clock) = some (source 4 .clock 3 0x105) ∧
    plant.engine.active = none ∧ (10 : Word).toNat + plant.part.gateLead < 4294967296 ∧ (9 : Word).toNat < (10 : Word).toNat ∧
    synced.engine.boundary = some 250000 ∧ synced.engine.pre = .done ∧ synced.part.slotLength = 300 ∧
    synced.part.timeTolerance = 2 := by decide +kernel

theorem witness_BoundarySettlesAndDispatches :
    synced.engine.active = some 10 ∧ synced.engine.boundary = some 250000 ∧
    (10 : Word).toNat + 1 + synced.part.gateLead < 4294967296 ∧ synced.history.length ≤ 16 ∧
    (synced.accumulate.recordFor 10).flags.missed = false := by decide +kernel

/-- Train 0 alone, in AUTO, slot 10 active and slot `n` holding a commitment of power `p` on POSITION 3. -/
def committed (x : TrainState) (n : Word) (p : Int) : State :=
  { mapped with
    trains := modAt (upd plant.trains 1 {}) 0 fun y =>
      { y with run := { y.run with state := x, auto := true, mode := if x = .running then some .generate else none } }
    engine := { active := some 10, boundary := some 0, pre := .running 0, ramp := some 0 }
    slots := upd (upd plant.slots 10 { number := 10, state := .active, targets := Vector.replicate 6 60 }) (slotPos n)
      { number := n, state := .firm, gatePassed := true, commits := [{ position := 3, power := p, up := 0, down := 0 }] } }

/-- A CURRENT record of train 0 for a slot. -/
def current (n : Option Word) : Reservation :=
  { train := 0, store := 0, kind := .draw, phase := .current, slot := n, granted := 50, consumed := 0, basis := 50, counter := none }

/-- What a boundary leaves: the state of train 0, UNDELIVERED, then its target and the slots of the reservations. -/
def leftByBoundary (s : State) : Option (TrainState × Bool × List Int) :=
  after .boundaryTimerExpiry s fun t =>
    ((t.run 0).state, (t.slots.get 11).flags.undelivered,
      (t.slots.get 11).targets.get 0 :: t.reservations.map fun r => ((r.slot.map BitVec.toNat).getD 0 : Nat))

/-- R121, R136, R139, R140, R143: a boundary that goes on, rolls, stops, starts. -/
theorem test_boundary_dispatches :
    [leftByBoundary (committed .running 11 70), leftByBoundary { committed .running 11 70 with reservations := [current none] },
     leftByBoundary { committed .running 11 70 with reservations := [current (some 11)] },
     leftByBoundary (committed .running 12 70), leftByBoundary (committed .running 14 70),
     leftByBoundary (committed .running 11 (-70)), leftByBoundary (committed .standstill 11 70),
     leftByBoundary (committed .standstill 12 70), leftByBoundary (committed .standstill 14 70),
     leftByBoundary { committed .running 11 70 with gateOpen := false }] =
    [some (.running, false, [70, 11]), some (.running, false, [70, 11]), some (.running, false, [70, 11]),
     some (.running, false, [0]), some (.stopping, false, [0]), some (.stopping, true, [-70]),
     some (.starting, true, [70, 11]), some (.starting, false, [0, 12]), some (.standstill, false, [0]),
     some (.running, true, [70])] := by decide +kernel

theorem witness_BoundaryOfOneTrain :
    (committed .running 11 70).act.active = false ∧
    (∀ v, ((committed .running 11 70).cfg v).configured = true ↔ v = 0) ∧
    (committed .running 11 70).part.lookAhead = 2 ∧ ((committed .running 11 70).cfg 0).heatRatio .generate ≠ 0 ∧
    ((committed .standstill 11 70).run 0).state = .standstill := by decide +kernel

/-- R120, R141, R142: a NEXT grant asked before the slot, and a ramp step toward the target. -/
theorem test_pre_reservation_and_ramp :
    after .preReservationTimerExpiry { committed .running 11 70 with reservations := [current (some 10)] }
      (fun t => t.reservations.map fun r => (r.phase, r.slot)) = some [(.current, some 10), (.next, some 11)] ∧
    after .rampStepTimerExpiry (committed .running 11 70) (fun t => ((t.run 0).power, t.engine.step)) = some (60, 10) ∧
    after .rampStepTimerExpiry (let s := committed .running 11 70
       { s with trains := modAt s.trains 0 fun x => { x with cfg := { x.cfg with rampRate := 3 } } })
      (fun t => ((t.run 0).power, t.engine.step)) = some (30, 10) := by decide +kernel

theorem witness_EngineTimersExpire :
    synced.engine.mark = some 1 ∧ plant.engine.mark = none ∧ synced.engine.ramp = some 1 ∧ plant.engine.ramp = none ∧
    synced.gateOpen = true ∧ synced.engine.active.isSome = true ∧ shut.gateOpen = false ∧
    ({ pre := .running 1, active := some 10 } : Engine).pre = .running 1 := by decide +kernel

theorem witness_ActivationsAreDecided :
    synced.sourceOf .u (hdr 0x104) (fun e => e.role == .grid) = some (source 3 .grid 3 0x104) ∧
    plant.engine.active = none ∧ synced.engine.active = some 10 ∧ { synced with gateOpen := false }.gateOpen = false ∧
    ({ kind := 0x38, value := 0 } : Item).value = 0 ∧ ({ kind := 0x38, value := 300 } : Item).value ≠ 0 := by
  decide +kernel

/-- Slot 10 active with a reserve of 200 up and 100 down on POSITION 3, which resolves to train 0 with RESERVE allowed
where `allow` holds bit 2. -/
def reserved (allow : BitVec 3) : State :=
  { synced with
    positions := upd mapped.positions 3 { state := .mapped, duty := 2, allow := allow, limit := 100, desk := some 2 }
    duties := upd mapped.duties 2 { mapped := true, train := 0, allow := 7, limit := 80 }
    slots := upd synced.slots 10 { number := 10, state := .active, commits := [{ position := 3, power := 0, up := 200, down := 100 }] } }

theorem test_reserve_band :
    after (.activation (hdr 0x104) { kind := 0x38, value := 300, auxA := 7 }) (reserved 7)
      (fun t => (t.act.up, t.act.down, t.act.limited, t.act.outcome)) = some (200, 100, 200, .limited) ∧
    after (.activation (hdr 0x104) { kind := 0x38, value := 300, auxA := 7 }) (reserved 3)
      (fun t => (t.act.up, t.act.down, t.act.limited, t.act.outcome)) = some (0, 0, 0, .limited) := by decide +kernel

theorem witness_HoldExpiryAndActivatedEnergy :
    ({ synced with act := { hold := some 1, active := true } } : State).act.hold = some 1 ∧ synced.act.hold = none ∧
    synced.engine.active = some 10 ∧ plant.engine.active = none := by decide +kernel

theorem witness_ScanRoundsAndTransactions :
    (onBus { interval := some 1 }).bus.interval = some 1 ∧ (onBus { state := .failed }).bus.state = .failed ∧
    (onBus { inRound := true }).bus.inRound = true ∧
    (0 + 1 : Word).toNat % ((measured none none).scan.get 0).period = 0 ∧ ((measured none none).scan.get 0).inUse = true ∧
    (∀ i, (plant.scan.get i).inUse = false) ∧ (onBus { txn := some (txn false true) }).bus.txn = some (txn false true) ∧
    (onBus { txn := some (txn true false), attempt := 4, state := .scanActive, entry := some 0 }).bus.attempt = 4 ∧
    (true && false) = false := by decide +kernel

theorem witness_TransactionsEndWithResults :
    (let b : Bus := { state := .scanActive, txn := some (txn true false), entry := some 3 }
     (onBus b).bus.entry = some 3 ∧ (txn true false).started = true ∧ (txn true false).discarded = false) ∧
    (let b : Bus := { state := .mgmtActive, txn := some (txn true false), transfer := some moving }
     (onBus b).bus.transfer = some moving ∧ (onBus b).bus.state = .mgmtActive) := by decide +kernel

theorem witness_HungTransactionsAreRecovered :
    (onBus { state := .recovering }).bus.state = .recovering ∧ (onBus { state := .idle }).bus.state = .idle ∧
    (onBus { state := .mgmtActive, txn := some (txn true false) }).bus.txn = some (txn true false) ∧
    (onBus { state := .scanActive, txn := some (txn true false), entry := some 47 }).bus.entry = some 47 := by
  decide +kernel

theorem witness_BusRequests :
    plant.managerOf (hdr 0x102) = some { dst := 0x102, seq := 5, level := 1 } ∧
    ((127 : HWord).toNat ≤ 127 ∧ (255 : Word).toNat ≤ 255 ∧ 1 ≤ (32 : Word).toNat ∧ (32 : Word).toNat ≤ 32) ∧
    ¬ (128 : HWord).toNat ≤ 127 ∧ (∀ f ∈ [fld 0 0 7], f.number.toNat < (4 + 3) / 4) ∧
    ([fld 0 0 7] = [] ++ fld 0 0 7 :: [] ∧ [fld 0 0 7, fld 0 0 8] = [fld 0 0 7] ++ fld 0 0 8 :: []) ∧
    (onBus { state := .failed }).bus.state = .failed ∧ (onBus {}).bus.state = .idle ∧ (onBus {}).bus.transfer = none ∧
    (onBus { state := .scanActive }).bus.transfer = none := by decide +kernel

theorem test_transfer_write_runs_at_once :
    after (.busTransferWrite (hdr 0x101) 0x20 3 2 [fld 0 0 0x01020304, fld 0 0 0x0A0B0C0D]) (onBus {})
      (fun t => (t.bus.state, t.bus.attempt, t.bus.transfer.any fun x => x.write && x.active, t.bus.buffer.get 0)) =
        some (.mgmtActive, 1, true, 0x0A) := by decide +kernel

theorem witness_ReadsChangeNothing :
    plant.managerOf (hdr 0x104) = some { dst := 0x104, seq := 5, level := 3 } ∧ (11 : Word).toNat < 12 ∧
    8 < (9 : Word).toNat ∧ (plant.tableFields 3 15).isSome = true ∧ plant.tableFields 3 16 = none ∧
    (plant.tableFields 3 14).isSome = true ∧ plant.blockFields 3 4 = none ∧ (plant.blockFields 3 3).isSome = true ∧
    (plant.blockFields 16 0).isSome = true := by decide +kernel

theorem witness_WritesAreJudgedAndStored :
    plant.managerOf (hdr 0x101) = some { dst := 0x101, seq := 5, level := 0 } ∧
    plant.managerOf (hdr 0x106) = some { dst := 0x106, seq := 5, level := 0, desk := some 5 } ∧
    (dutyTable.judge plant.duties [fld 16 0 0]).isOk = false ∧ (dutyTable.judge plant.duties [fld 15 0 1]).isOk = true ∧
    (permissionTable.judge plant.permissions [fld 192 0 0]).isOk = false ∧
    (permissionTable.judge plant.permissions [fld 191 0 0]).isOk = true ∧
    (routeTable.judge plant.routes [fld 60 0 1]).isOk = true ∧ (routeTable.judge plant.routes [fld 61 0 1]).isOk = false ∧
    (positionTable.judge plant.positions [fld 127 0 1]).isOk = true ∧
    (mapped.positions.get 3).state ≠ .unused ∧ (mapped.positions.get 3).desk ≠ some 5 ∧
    (bandTable.judge plant.bands [fld 15 0 1]).isOk = true ∧ (bandTable.judge plant.bands [fld 16 0 1]).isOk = false ∧
    (positionTable.judge plant.positions [fld 127 1 16]).isOk = false ∧
    plant.managerOf (hdr 0x102) = some { dst := 0x102, seq := 5, level := 1 } ∧
    plant.managerOf (hdr 0x103) = some { dst := 0x103, seq := 5, level := 2, desk := some 2 } ∧
    dutyTable.put 15 0 1 (plant.duties.get 15) = some { mapped := true } := by decide +kernel

/-- The written bands 0 and 1 of cavern 0, descending at band 1. -/
theorem witness_BandsAscendOrNot :
    (let w := upd (upd plant.bands 0 { bound := 30000 }) 1 { bound := 1 }
     leastIndex (fun j : Fin 16 => ∃ i : Fin 16, j.val = i.val + 1 ∧ j.val ≠ 8 ∧ (w.get j).bound < (w.get i).bound) 1) ∧
    (∀ j : Fin 16, ¬ ∃ i : Fin 16, j.val = i.val + 1 ∧ j.val ≠ 8 ∧ (plant.bands.get j).bound < (plant.bands.get i).bound) := by
  unfold leastIndex
  decide +kernel

/-- A desk's write to POSITION 3, its own, and to 4, which it does not own and which is in use. -/
theorem test_desk_writes_its_positions :
    after (.writePositions (hdr 0x103) [fld 3 4 70]) mapped (fun t => (t.positions.get 3).limit) = some 70 ∧
    after (.writePositions (hdr 0x103) [fld 3 4 70, fld 4 3 2]) mapped
      (fun t => ((t.positions.get 3).limit, (t.positions.get 4).desk)) = some (100, none) := by decide +kernel

theorem witness_StationWritesUnenrol :
    plant.managerOf (hdr 0x101) = some { dst := 0x101, seq := 5, level := 0 } ∧
    (stationTable.judge plant.stations [fld 9 1 0x203]).isOk = true ∧
    (∃ i, ((upd plant.stations 9 (lower 0x7F00)).get i).inUse = true ∧
      ((upd plant.stations 9 (lower 0x7F00)).get i).address = plant.part.address) ∧
    (let w := upd plant.stations 9 { lower 0x202 with via := some 8 }
     leastIndex (fun i : StationId => (w.get i).inUse = true ∧ (w.get i).port = .d ∧ ∃ j, (w.get i).via = some j ∧
       ((w.get j).inUse = false ∨ (w.get j).port = .u ∨ (w.get j).role ≠ .coupler ∨ j = i ∨ i ∈ viaChain w i)) 9) ∧ plant.roll.call = none ∧ called.roll.call = some (8, 5) := by
  unfold leastIndex
  decide +kernel

theorem witness_TrainWritesMakeUnknown :
    plant.managerOf (hdr 0x102) = some { dst := 0x102, seq := 5, level := 1 } ∧ (fld 5 0 1).index.toNat = (5 : TrainId).val ∧
    (putTrainCfg 0 1 (plant.cfg 5)).isSome = true ∧ (putTrainCfg 2 1 (plant.cfg 1)).isSome = true ∧
    (putTrainCfg 19 1 (plant.cfg 1)).isSome = true ∧ (plant.cfg 0).configured = true ∧
    (plant.run 0).state.holdsClaim = true ∧ (plant.run 1).state.holdsClaim = false ∧ (plant.run 1).state ≠ .tripped := by
  decide +kernel

/-- R90, R106: a cavern and a store configured by a write, an unconfigured store. -/
theorem test_plant_writes :
    after (.writeCaverns (hdr 0x102) [fld 1 0 1]) plant
      (fun t => ((t.cavern 1).cfg.configured, (t.cavern 1).run.blindTimer, t.faults.ring.length)) =
        some (true, .running 60000, 0) ∧
    after (.writeStores (hdr 0x102) [fld 1 0 1, fld 1 1 500]) plant
      (fun t => ((t.store 1).cfg.configured, (t.store 1).run.headroom)) = some (true, 500) ∧
    after (.writeStores (hdr 0x102) [fld 0 1 700]) plant (fun t => (t.store 0).run.headroom) = some 700 ∧
    after (.writeStores (hdr 0x102) [fld 0 0 0]) layered (fun t => ((t.store 0).run.headroom, (t.layer 0).stale)) =
      some (0, none) ∧
    after (.writeLayers (hdr 0x102) [fld 0 0 1]) layered (fun t => (t.store 0).run.stored) = some 40 := by decide +kernel

theorem witness_PlantTableWrites :
    ((cavernTable plant).judge plant.caverns [fld 1 0 1]).isOk = true ∧ (storeTable.judge plant.stores [fld 3 6 5]).isOk = true ∧
    ((layerTable plant).judge plant.layers [fld 63 2 5]).isOk = true ∧ (plant.cavern 0).cfg.configured = true ∧
    (plant.cavern 0).run.holders ≠ 0 ∧ (plant.store 0).cfg.minReserve ≤ (plant.store 0).cfg.capacity ∧
    (let k := (plant.cavern 0).cfg; k.hardMin ≤ k.minOp ∧ k.minOp < k.maxOp ∧ k.maxOp ≤ k.hardMax) ∧
    (∀ k, (State.reset.store k).cfg.configured = false) := by decide +kernel

/-- R179: the first refusal in item order is that of the first item a rule refuses, a replaced item's index included. -/
theorem test_first_refusal_in_item_order :
    (let cause (fs : List Field) : Option MCause := match partTable.judge (Vector.replicate 1 plant.part) fs with
       | .error r => some r.cause
       | .ok _ => none
     cause [fld 0 3 0xD7A1, fld 1 0 5, fld 0 1 0x100] = some .badIndex ∧
     cause [fld 0 3 0xD7A1, fld 0 1 0x100, fld 1 0 5] = some .badValue ∧
     cause [fld 1 0 5, fld 0 4 9, fld 1 0 5] = some .badIndex ∧
     cause [fld 0 4 9, fld 1 0 5, fld 0 4 1] = some .badIndex ∧ cause [fld 0 4 9, fld 0 4 1] = none) := by decide +kernel

/-- R10: role against port, manage on a D entry and via on a U entry are found at an item that writes one of them. -/
theorem test_station_conditions :
    (let cause (fs : List Field) : Option MCause := match stationTable.judge plant.stations fs with
       | .error r => some r.cause
       | .ok _ => none
     cause [fld 8 0 1, fld 40 0 1, fld 8 3 0] = some .badIndex ∧ cause [fld 8 3 0, fld 40 0 1] = some .badValue ∧
     cause [fld 8 5 1] = some .badValue ∧ cause [fld 0 6 8] = some .badValue ∧ cause [fld 0 2 1] = some .badValue ∧
     cause [fld 8 3 7, fld 8 4 0] = none) := by decide +kernel

theorem witness_ScanAndPartWrites :
    plant.managerOf (hdr 0x102) = some { dst := 0x102, seq := 5, level := 1 } ∧
    (scanTable.judge plant.scan [fld 47 8 5]).isOk = true ∧ (scanTable.judge plant.scan [fld 47 0 1]).isOk = true ∧
    (scanTable.judge plant.scan [fld 48 8 5]).isOk = false ∧
    plant.bus.entry = none ∧ (partTable.judge (Vector.replicate 1 plant.part) [fld 0 9 600]).isOk = true ∧
    (partTable.judge (Vector.replicate 1 plant.part) [fld 1 9 600]).isOk = false ∧
    (plant.station 8).address = 0x201 ∧ (plant.station 8).inUse = true ∧ synced.engine.active.isSome = true ∧
    (fld 0 0 0x201).number.toNat = 0 ∧ ((measured none none).scan.get 0).cavern.map (·.1) = some 0 ∧
    ((measured none none).cavern 0).cfg.configured = true ∧ (scanTable.judge (measured none none).scan [fld 0 7 1]).isOk = true := by
  decide +kernel

theorem witness_OpenGateChecksInOrder :
    shut.gateOpen = false ∧ plant.gateOpen = true ∧
    ((mapped.duties.get 5).mapped = true ∧ (mapped.cfg (mapped.duties.get 5).train).configured = false) ∧
    (∀ t, (shut.cfg t).configured = true → (shut.controller t).role = .train) ∧
    (∀ i, (shut.scan.get i).inUse = false) := by decide +kernel

theorem witness_CloseGateAndRestart :
    plant.managerOf (hdr 0x102) = some { dst := 0x102, seq := 5, level := 1 } ∧
    plant.managerOf (hdr 0x101) = some { dst := 0x101, seq := 5, level := 0 } ∧
    (∀ t, plant.queue.holds.get t = none) := by decide +kernel

theorem witness_holdsCommands : plant.queue.holdsCommands ∧ plant.gateQuiet ∧ shut.gateQuiet := by
  have h : ∀ t, plant.queue.holds.get t = none := by decide +kernel
  have k : plant.queue.holdsCommands := fun t e m => by rw [h t] at m; cases m
  refine ⟨k, ⟨k, fun g => ?_⟩, ⟨k, fun _ => ⟨fun e m => ?_, ?_⟩⟩⟩
  · exact absurd g (by decide +kernel)
  · exact absurd m (by rw [show shut.queue.entries = [] from rfl]; exact List.not_mem_nil)
  · decide +kernel

theorem witness_cacheUnique : cacheUnique (mapped.lookup true 3).1.cache := by
  unfold cacheUnique
  decide +kernel

theorem witness_Invariants :
    plant.bounded = true ∧ plant.hardwired = true ∧ plant.directed = true ∧ synced.bounded = true := by decide +kernel

end Sys2Proof.Tests
end

section
/-! PROOF. Every buffer and list stays within its places (O55). -/

namespace Sys2Proof.Machine

theorem State.bounded_iff (s : State) :
    s.bounded = true ↔ s.link.bounded = true ∧ s.queue.bounded = true ∧ s.faults.bounded = true ∧
      s.reservations.length ≤ reservationDepth ∧ s.history.length ≤ historyDepth ∧ slotsBounded s.slots = true := by
  simp [State.bounded, and_assoc]

theorem Slot.restarted_commits (x : Slot) : x.restarted.commits = x.commits := by
  unfold Slot.restarted
  split <;> rfl

/-! ### The two resets -/

theorem slotsBounded_empty : slotsBounded (Vector.replicate 48 {}) = true := by
  rw [slotsBounded_iff]
  intro p
  simp [Vector.get]

theorem powerOn_bounded (s : State) (x : BitVec 4) : (s.powerOn x).bounded = true := by
  rw [State.bounded_iff]
  exact ⟨rfl, rfl, rfl, Nat.zero_le _, Nat.zero_le _, slotsBounded_empty⟩

theorem warmRestart_bounded (s : State) (h : s.bounded = true) : s.warmRestart.bounded = true := by
  rw [State.bounded_iff] at h ⊢
  obtain ⟨hlink, -, -, -, -, hslots⟩ := h
  refine ⟨hlink, rfl, rfl, Nat.zero_le _, Nat.zero_le _, ?_⟩
  rw [slotsBounded_iff] at hslots ⊢
  intro p
  simpa [State.warmRestart, Slot.restarted_commits] using hslots p

/-! ### Every change within the bounds -/

theorem boundedKeepsSchedule : KeepsSchedule fun s => s.bounded = true where
  link := fun s l hl h => by rw [State.bounded_iff] at h ⊢; exact ⟨hl h.1, h.2⟩
  faults := fun s x hx h => by
    rw [State.bounded_iff] at h ⊢
    obtain ⟨hlink, hqueue, hfaults, hrest⟩ := h
    exact ⟨hlink, hqueue, hx hfaults, hrest⟩
  tiers := fun _ _ _ h => h
  queue := fun s q he hp _ _ h => by
    rw [State.bounded_iff] at h ⊢
    obtain ⟨hlink, hqueue, hrest⟩ := h
    simp only [Queue.bounded, Bool.and_eq_true, decide_eq_true_eq] at hqueue
    exact ⟨hlink, by simp [Queue.bounded, he hqueue.1, hp hqueue.2], hrest⟩
  trains := fun _ _ h => h
  caverns := fun _ _ _ h => h
  reservations := fun s l hl h => by
    rw [State.bounded_iff] at h ⊢
    obtain ⟨hlink, hqueue, hfaults, hres, hrest⟩ := h
    exact ⟨hlink, hqueue, hfaults, hl hres, hrest⟩
  slots := fun s v hv h => by
    rw [State.bounded_iff] at h ⊢
    obtain ⟨hlink, hqueue, hfaults, hres, hhist, hslots⟩ := h
    exact ⟨hlink, hqueue, hfaults, hres, hhist, hv hslots⟩
  stopRequests := fun _ _ h => h
  cache := fun _ _ _ h => h
  lru := fun _ _ h => h
  free := fun _ _ h => h
  engine := fun _ _ h => h
  act := fun _ _ h => h
  shares := fun _ _ h => h
  history := fun s l hl h => by
    rw [State.bounded_iff] at h ⊢
    obtain ⟨hlink, hqueue, hfaults, hres, hhist, hslots⟩ := h
    exact ⟨hlink, hqueue, hfaults, hres, hl hhist, hslots⟩

theorem boundedKeepsAll : KeepsAll fun s => s.bounded = true where
  toKeepsSchedule := boundedKeepsSchedule
  stations := fun _ _ h => h
  roll := fun _ _ h => h
  stores := fun _ _ h => h
  layers := fun _ _ h => h
  points := fun _ _ h => h
  bus := fun _ _ h => h
  part := fun _ _ _ h => h
  openGate := fun _ h => h
  shutGate := boundedKeepsSchedule.shutGate fun _ _ h => h
  ptrip := fun _ _ h => h
  permissions := fun _ _ h => h
  positions := fun _ _ h => h
  duties := fun _ _ h => h
  bands := fun _ _ h => h
  scan := fun _ _ h => h
  routes := fun _ _ _ h => h
  masks := fun _ _ _ h => h
  pending := fun _ _ h => h
  powerOn := fun s x _ => powerOn_bounded s x
  warmRestart := warmRestart_bounded

/-- Settles O55: the bounds survive every change the laws of KeepsAll name, so every step keeps them. -/
theorem stepKeepsBounds : Obligations.StepKeepsBounds :=
  fun _ _ h e => boundedKeepsAll.step h e

end Sys2Proof.Machine
end

section
/-! PROOF. The bytes of a telegram: what is written is read back, and passes the form check (O6). -/

namespace Sys2Proof

/-! ### Fields -/

theorem half_of_bytes (h : HWord) : h.extractLsb' 8 8 ++ h.extractLsb' 0 8 = h := by
  rw [BitVec.extractLsb'_append_extractLsb'_eq_extractLsb' (by rfl)]
  simp

theorem word_of_halves (w : Word) : w.extractLsb' 16 16 ++ w.extractLsb' 0 16 = w := by
  rw [BitVec.extractLsb'_append_extractLsb'_eq_extractLsb' (by rfl)]
  simp

@[simp] theorem byteAt_cons_zero (b : Byte) (p : List Byte) : byteAt (b :: p) 0 = b := rfl

@[simp] theorem byteAt_cons_succ (b : Byte) (p : List Byte) (i : Nat) : byteAt (b :: p) (i + 1) = byteAt p i := rfl

/-! ### Items -/

theorem Item.length_toBytes (i : Item) : i.toBytes.length = 24 := rfl

theorem parseItem_toBytes (i : Item) (p : List Byte) : parseItem (i.toBytes ++ p) = i := by
  simp only [parseItem, Item.toBytes, wordBytes, halfBytes, wordAt, halfAt, List.cons_append, List.nil_append,
    byteAt_cons_zero, byteAt_cons_succ, half_of_bytes, word_of_halves]

theorem parseItems_toBytes (l : List Item) (p : List Byte) :
    parseItems l.length (l.flatMap Item.toBytes ++ p) = l := by
  induction l with
  | nil => rfl
  | cons i l ih =>
    have hdrop : (i.toBytes ++ (l.flatMap Item.toBytes ++ p)).drop 24 = l.flatMap Item.toBytes ++ p :=
      List.drop_left' i.length_toBytes
    rw [List.flatMap_cons, List.append_assoc, List.length_cons, parseItems, parseItem_toBytes, hdrop, ih]

theorem length_itemsBytes (l : List Item) : (l.flatMap Item.toBytes).length = 24 * l.length := by
  simp [List.length_flatMap, Item.length_toBytes, Nat.mul_comm]

/-! ### The header -/

theorem length_headerBytes (cls : Byte) (h : Header) (n : Nat) : (headerBytes cls h n).length = 12 := rfl

theorem toBytes_eq (t : Telegram) :
    t.toBytes = headerBytes t.cls t.hdr t.items.length ++ (t.items.flatMap Item.toBytes ++ t.pad) :=
  List.append_assoc _ _ _

theorem length_toBytes (t : Telegram) : t.toBytes.length = 12 + 24 * t.items.length + t.pad.length := by
  rw [toBytes_eq, List.length_append, List.length_append, length_headerBytes, length_itemsBytes]
  omega

theorem byteAt_toBytes_version (t : Telegram) : byteAt t.toBytes 0 = 1 := rfl

theorem byteAt_toBytes_cls (t : Telegram) : byteAt t.toBytes 1 = t.cls := rfl

theorem parseHeader_toBytes (t : Telegram) : parseHeader t.toBytes = t.hdr := by
  simp [parseHeader, toBytes_eq, headerBytes, halfBytes, halfAt, half_of_bytes]

theorem count_toBytes (t : Telegram) (h : t.items.length ≤ 16) : (byteAt t.toBytes 9).toNat = t.items.length := by
  have hb : byteAt t.toBytes 9 = BitVec.ofNat 8 t.items.length := rfl
  rw [hb, BitVec.toNat_ofNat, Nat.mod_eq_of_lt (by omega)]

theorem itemLength_toBytes (t : Telegram) (h : t.items.length ≤ 16) :
    (halfAt t.toBytes 10).toNat = 24 * t.items.length := by
  have hb : halfAt t.toBytes 10 = BitVec.ofNat 16 (24 * t.items.length) := half_of_bytes _
  rw [hb, BitVec.toNat_ofNat, Nat.mod_eq_of_lt (by omega)]

/-! ### The telegram -/

theorem parseTelegram_toBytes (t : Telegram) (h : t.items.length ≤ 16) : parseTelegram t.toBytes = t := by
  have hitems : t.toBytes.drop 12 = t.items.flatMap Item.toBytes ++ t.pad := by
    rw [toBytes_eq, List.drop_left' (length_headerBytes _ _ _)]
  have hpad : t.toBytes.drop (12 + 24 * t.items.length) = t.pad := by
    rw [← List.drop_drop, hitems, List.drop_left' (length_itemsBytes _)]
  simp only [parseTelegram, byteAt_toBytes_cls, parseHeader_toBytes, count_toBytes t h, hitems, hpad,
    parseItems_toBytes]

theorem formCheck_toBytes (t : Telegram) (h : t.items.length ≤ 16) (hlo : 1 ≤ t.cls.toNat) (hhi : t.cls.toNat ≤ 14)
    (hc : countSuits t.cls t.items.length = true) : formCheck t.toBytes = none := by
  have hlen := length_toBytes t
  have hlong : ¬ t.toBytes.length < 12 := by omega
  have hwhole : ¬ t.toBytes.length < 12 + 24 * t.items.length := by omega
  have hfew : ¬ 16 < t.items.length := by omega
  simp only [formCheck, count_toBytes t h, itemLength_toBytes t h, byteAt_toBytes_version, byteAt_toBytes_cls, hlong,
    hwhole, hfew, hlo, hhi, hc, ne_eq, not_true_eq_false, and_self, Bool.not_true, Bool.false_eq_true, if_false]

/-- Settles O6: the header and the items are read back field by field, and the seven conditions are clear. -/
theorem telegramRoundTrip : Obligations.TelegramRoundTrip :=
  fun t h => ⟨parseTelegram_toBytes t h, formCheck_toBytes t h⟩

end Sys2Proof
end

section
/-! PROOF. The link unit: frames on the two ports, the form check, steering, sources, management telegrams and polls
(O4, O5, O7, O8, O10, O27). -/

namespace Sys2Proof.Machine

/-! ### Frames handed to a port (R1) -/

theorem hand_of_takes (s : State) (p : Port) (f : Frame) (hup : (s.port p).up = true)
    (hroom : (s.port p).tx.length < 64) : s.hand p f = s.setPort p { s.port p with tx := (s.port p).tx ++ [f] } := by
  simp [State.hand, enqueue, txDepth, hup, hroom]

theorem setPort_port (s : State) (p : Port) : s.setPort p (s.port p) = s := by cases p <;> rfl

theorem hand_of_full (s : State) (p : Port) (f : Frame) (h : (s.port p).up = false ∨ 64 ≤ (s.port p).tx.length) :
    s.hand p f = s := by
  have hkeep : enqueue (s.port p) f = s.port p := by
    rcases h with h | h
    · simp [enqueue, h]
    · simp [enqueue, txDepth, Nat.not_lt.2 h]
  rw [State.hand, hkeep, setPort_port]

/-! ### Frames received (R1, R2) -/

theorem receiveFrame_foreign (s : State) (p : Port) (f : RawFrame) (h : f.type ≠ s.part.telegramType) :
    s.receiveFrame p f = s.passForeign p f := if_pos h

theorem receiveFrame_malformed (s : State) (p : Port) (f : RawFrame) (c : Nat) (h : f.type = s.part.telegramType)
    (hc : formCheck f.payload = some c) :
    s.receiveFrame p f = s.malformed c (malformedHeader c f.payload) := by
  simp [State.receiveFrame, h, hc]

theorem receiveFrame_formed (s : State) (p : Port) (f : RawFrame) (h : f.type = s.part.telegramType)
    (hc : formCheck f.payload = none) :
    s.receiveFrame p f = s.receiveTelegram p f.eth (parseTelegram f.payload) := by
  simp [State.receiveFrame, h, hc]

/-- Settles O4: each clause is one branch of the frame's way into the part, or of a transmit queue's operation. -/
theorem framesOnTheTwoPorts : Obligations.FramesOnTheTwoPorts := by
  refine ⟨fun _ _ _ => rfl, fun s p f ht hon => ?_, fun s p f ht hoff => ?_, fun s p f c ht hc => ?_,
    fun s p f ht hc => ?_, hand_of_takes, hand_of_full, fun x f l hup htx => by simp [PortState.transmit, hup, htx]⟩
  · show Host.Outcome.next (s.receiveFrame p f) = _
    rw [receiveFrame_foreign s p f ht, State.passForeign, if_pos hon]
  · show Host.Outcome.next (s.receiveFrame p f) = _
    rw [receiveFrame_foreign s p f ht, State.passForeign, hoff]
    rfl
  · exact congrArg Host.Outcome.next (receiveFrame_malformed s p f c ht hc)
  · exact congrArg Host.Outcome.next (receiveFrame_formed s p f ht hc)

/-! ### The form check (R2) -/

/-- A number within the 32-bit format travels as itself. -/
theorem nat_eq_ofNat (n : Nat) (h : n < 2 ^ 32) : nat n = BitVec.ofNat 32 n := by
  rw [nat, num, if_pos (by omega), BitVec.ofInt_natCast]

/-- The seven conditions of R2, in their order. -/
def formConditions (b : List Byte) : List Bool :=
  [ b.length < 12, byteAt b 0 != 1, !(1 ≤ (byteAt b 1).toNat && (byteAt b 1).toNat ≤ 14), 16 < (byteAt b 9).toNat,
    (halfAt b 10).toNat != 24 * (byteAt b 9).toNat, b.length < 12 + 24 * (byteAt b 9).toNat,
    !countSuits (byteAt b 1) (byteAt b 9).toNat ]

/-- The form check answers one more than the place of the first condition that holds. -/
theorem formCheck_eq_findIdx (b : List Byte) :
    formCheck b = ((formConditions b).findIdx? (· == true)).map (· + 1) := by
  unfold formCheck formConditions
  simp only [List.findIdx?_cons, List.findIdx?_nil, ne_eq, ← bne_iff_ne, beq_true, decide_eq_true_eq, Bool.and_eq_true,
    Bool.not_eq_true', ← Bool.not_eq_true, apply_ite (Option.map (· + 1)), Option.map_some, Option.map_none]

/-- Settles O5: the detail is the place of the condition, and the header is named from condition 3 on. -/
theorem formCheckNamesFirstCondition : Obligations.FormCheckNamesFirstCondition := by
  intro s p f ht
  refine ⟨fun k hk => ?_, fun hnone => ?_⟩
  · have hc : formCheck f.payload = some (k.val + 1) := by
      rw [formCheck_eq_findIdx]
      exact congrArg (Option.map (· + 1)) hk
    refine congrArg Host.Outcome.next ((receiveFrame_malformed s p f _ ht hc).trans ?_)
    unfold State.malformed malformedHeader
    by_cases hk1 : k.val ≤ 1
    · simp [hk1, nat_eq_ofNat _ (show k.val + 1 < 2 ^ 32 by omega)]
    · simp [hk1, nat_eq_ofNat _ (show k.val + 1 < 2 ^ 32 by omega), parseHeader]
  · have hc : formCheck f.payload = none := by
      rw [formCheck_eq_findIdx]
      exact congrArg (Option.map (· + 1)) hnone
    exact congrArg Host.Outcome.next (receiveFrame_formed s p f ht hc)

end Sys2Proof.Machine
end

section
/-! PROOF. Steering by class and destination, the sources, management telegrams and polls (O7, O8, O10, O27). -/

namespace Sys2Proof.Machine

/-! ### The three gates of a telegram: its form, its destination, its source -/

theorem itemsCheck_none {cls : Byte} {n : Nat} (hn : n ≤ 16) (hc : countSuits cls n = true) :
    itemsCheck cls n = none := by
  simp [itemsCheck, Nat.not_lt.2 hn, hc]

theorem formed_of_suits (s : State) {cls : Byte} (h : Header) {n : Nat} (next : State) (hn : n ≤ 16)
    (hc : countSuits cls n = true) : s.formed cls h n next = next := by
  rw [State.formed, itemsCheck_none hn hc]

theorem steered_accepted (s : State) (cls : Byte) (h : Header) (next : State) {b : Bool} (hb : b = true) :
    s.steered cls h b next = next := if_pos hb

theorem steered_dropped (s : State) (cls : Byte) (h : Header) (next : State) {b : Bool} (hb : b = false) :
    s.steered cls h b next = s.dropTelegram Cause.classNotAllowed cls h := by
  rw [hb]
  rfl

theorem sourced_unknown (s : State) (p : Port) (cls : Byte) (h : Header) (accepts : Station → Bool)
    (next : Source → State) (hf : s.findStation p h.src = none) :
    s.sourced p cls h accepts next = s.dropTelegram Cause.sourceUnknown cls h := by
  simp [State.sourced, State.checkSource, hf]

theorem sourced_barred (s : State) (p : Port) (cls : Byte) (h : Header) (accepts : Station → Bool)
    (next : Source → State) {k : StationId} (hf : s.findStation p h.src = some k)
    (ha : accepts (s.station k) = false) :
    s.sourced p cls h accepts next = s.dropTelegram Cause.classNotAllowed cls h := by
  simp [State.sourced, State.checkSource, hf, ha]

theorem sourced_accepted (s : State) (p : Port) (cls : Byte) (h : Header) (accepts : Station → Bool)
    (next : Source → State) {k : StationId} (hf : s.findStation p h.src = some k)
    (ha : accepts (s.station k) = true) :
    s.sourced p cls h accepts next = next { entry := k, role := (s.station k).role, level := (s.station k).level,
                                             address := h.src, seq := h.seq } := by
  simp [State.sourced, State.checkSource, hf, ha]

theorem isOwn_true {s : State} {h : Header} (e : h.dst = s.part.address) : s.isOwn h = true := by
  simp [State.isOwn, e]

theorem isOwn_false {s : State} {h : Header} (e : h.dst ≠ s.part.address) : s.isOwn h = false := by
  simp [State.isOwn, e]

theorem isOwnOrAll_true {s : State} {h : Header} (e : h.dst = s.part.address ∨ h.dst = 0xFFFF) :
    s.isOwnOrAll h = true := by
  simpa [State.isOwnOrAll, State.isOwn] using e

theorem isOwnOrAll_false {s : State} {h : Header} (e : h.dst ≠ s.part.address) (g : h.dst ≠ 0xFFFF) :
    s.isOwnOrAll h = false := by
  simpa [State.isOwnOrAll, State.isOwn, e] using g

/-! ### A telegram by its class (R3, R4) -/

/-- The classes that Port U drops whatever the destination. -/
theorem receive_u_barred (s : State) (eth : Eth) (t : Telegram) (hn : t.items.length ≤ 16)
    (hc : countSuits t.cls t.items.length = true)
    (h : t.cls = 0x04 ∨ t.cls = 0x09 ∨ t.cls = 0x02 ∨ t.cls = 0x08 ∨ t.cls = 0x0B ∨ t.cls = 0x0C ∨ t.cls = 0x0D ∨
      t.cls = 0x0E) : s.receiveTelegram .u eth t = s.dropTelegram Cause.classNotAllowed t.cls t.hdr := by
  have hbarred : s.receiveTelegram .u eth t = s.arriveBarred t.cls t.hdr t.items.length := by
    unfold State.receiveTelegram
    rcases h with h | h | h | h | h | h | h | h <;> rw [h] <;> rfl
  rw [hbarred, State.arriveBarred, formed_of_suits s _ _ hn hc]

/-- Port D takes the classes REPORT and ROLLCALL_REPLY only. -/
theorem receive_d_barred (s : State) (eth : Eth) (t : Telegram) (hn : t.items.length ≤ 16)
    (hc : countSuits t.cls t.items.length = true) (h4 : t.cls ≠ 0x04) (h9 : t.cls ≠ 0x09) :
    s.receiveTelegram .d eth t = s.dropTelegram Cause.classNotAllowed t.cls t.hdr := by
  have hbarred : s.receiveTelegram .d eth t = s.arriveBarred t.cls t.hdr t.items.length := by
    unfold State.receiveTelegram
    split
    case h_7 h => exact absurd (BitVec.eq_of_toNat_eq h) h4
    case h_8 h => exact absurd (BitVec.eq_of_toNat_eq h) h9
    case h_9 => rfl
    all_goals contradiction
  rw [hbarred, State.arriveBarred, formed_of_suits s _ _ hn hc]

theorem one_item {l : List Item} {cls : Byte} (h : cls = 0x06 ∨ cls = 0x07) (hc : countSuits cls l.length = true) :
    ∃ i, l = [i] := by
  rw [← List.length_eq_one_iff]
  rcases h with h | h <;> subst h <;> simpa [countSuits] using hc

/-- Settles O7: the class picks the arm, and the form and destination gates decide between taking and dropping. -/
theorem steeringOfTelegrams : Obligations.SteeringOfTelegrams := by
  refine ⟨fun s eth t hn hc => ?_, fun s eth t hn hc => ?_⟩
  · obtain ⟨cls, h, items, pad⟩ := t
    have gate {next : State} : s.formed cls h items.length next = next := formed_of_suits s h next hn hc
    refine ⟨?_, ?_, ?_, ?_, ?_, ?_, ?_, fun hcls => congrArg Host.Outcome.next (receive_u_barred s eth _ hn hc hcls)⟩
    · rintro rfl -; rfl
    · rintro rfl -; rfl
    · rintro rfl -
      obtain ⟨i, rfl⟩ := one_item (.inl rfl) hc
      exact ⟨i, rfl, rfl⟩
    · rintro rfl -
      obtain ⟨i, rfl⟩ := one_item (.inr rfl) hc
      exact ⟨i, rfl, rfl⟩
    · rintro rfl; rfl
    · rintro (rfl | rfl | rfl) hown <;>
        exact congrArg Host.Outcome.next (gate.trans (steered_dropped _ _ _ _ (isOwn_false hown)))
    · rintro (rfl | rfl) hown hall <;>
        exact congrArg Host.Outcome.next (gate.trans (steered_dropped _ _ _ _ (isOwnOrAll_false hown hall)))
  · obtain ⟨cls, h, items, pad⟩ := t
    refine ⟨?_, ?_, ?_, fun h4 h9 _ _ => congrArg Host.Outcome.next (receive_d_barred s eth _ hn hc h4 h9)⟩
    · rintro rfl; rfl
    · rintro rfl -; rfl
    · rintro rfl hown
      exact congrArg Host.Outcome.next
        ((formed_of_suits s h _ hn hc).trans (steered_dropped _ _ _ _ (isOwn_false hown)))

/-! ### Sources (R5, R6) -/

theorem findStation_some {s : State} {p : Port} {a : HWord} {k : StationId} (h : s.findStation p a = some k) :
    (s.station k).inUse = true ∧ (s.station k).port = p ∧ (s.station k).address = a := by
  simpa [and_assoc] using List.find?_some h

theorem findStation_none {s : State} {p : Port} {a : HWord} (h : s.findStation p a = none) (k : StationId)
    (hu : (s.station k).inUse = true) (hp : (s.station k).port = p) : (s.station k).address ≠ a := by
  have hk := List.find?_eq_none.1 h k (mem_fins k)
  simpa [hu, hp] using hk

theorem commissioning_iff (s : State) : s.commissioning = true ↔
    ∀ i, (s.station i).inUse = true → (s.station i).port = .u → (s.station i).manage = false := by
  simp [State.commissioning, mem_fins]

/-! ### Management commands (R3, R5, R6) -/

/-- Every management row is a MANAGE of 1 to 16 items with the request its row names. -/
theorem exec_request {c : Instr} {h : Header} {q : ManageReq} (s : State) (hq : requestOfCommand c = some (h, q))
    (hw : c.wf = true) : ∃ n, 1 ≤ n ∧ n ≤ 16 ∧ exec c s = .next (s.arriveManage h n q) := by
  have fields {fs : List Field} (hf : (h.wf && fieldsWf fs) = true) : 1 ≤ 1 + fs.length ∧ 1 + fs.length ≤ 16 := by
    simp [fieldsWf] at hf
    omega
  cases c <;> simp only [requestOfCommand, Option.some.injEq, Prod.mk.injEq, reduceCtorEq] at hq <;>
    obtain ⟨rfl, rfl⟩ := hq
  all_goals first
    | exact ⟨1, le_refl _, by omega, rfl⟩
    | exact ⟨_, (fields hw).1, (fields hw).2, rfl⟩

theorem countSuits_manage {n : Nat} (h : 1 ≤ n) : countSuits cManage n = true := by
  simp [countSuits, h]

theorem arriveManage_steered (s : State) (h : Header) {n : Nat} (q : ManageReq) (h1 : 1 ≤ n) (hn : n ≤ 16) :
    s.arriveManage h n q = s.steered cManage h (s.isOwn h)
      (if s.commissioning then s.takeManage { dst := h.src, seq := h.seq, level := 0 } q
       else s.sourced .u cManage h (fun e => e.manage) fun src =>
         s.takeManage { dst := h.src, seq := h.seq, level := src.level,
                        desk := if src.role = .desk then some src.entry else none } q) :=
  formed_of_suits s h _ hn (countSuits_manage h1)

theorem arriveManage_foreign (s : State) (h : Header) {n : Nat} (q : ManageReq) (h1 : 1 ≤ n) (hn : n ≤ 16)
    (hown : h.dst ≠ s.part.address) : s.arriveManage h n q = s.dropTelegram Cause.classNotAllowed cManage h := by
  rw [arriveManage_steered s h q h1 hn, steered_dropped _ _ _ _ (isOwn_false hown)]

theorem arriveManage_unknown (s : State) (h : Header) {n : Nat} (q : ManageReq) (h1 : 1 ≤ n) (hn : n ≤ 16)
    (hown : h.dst = s.part.address) (hc : s.commissioning = false) (hf : s.findStation .u h.src = none) :
    s.arriveManage h n q = s.dropTelegram Cause.sourceUnknown cManage h := by
  rw [arriveManage_steered s h q h1 hn, steered_accepted _ _ _ _ (isOwn_true hown), hc]
  exact sourced_unknown _ _ _ _ _ _ hf

theorem arriveManage_barred (s : State) (h : Header) {n : Nat} (q : ManageReq) (h1 : 1 ≤ n) (hn : n ≤ 16)
    (hown : h.dst = s.part.address) (hc : s.commissioning = false) {k : StationId}
    (hf : s.findStation .u h.src = some k) (hm : (s.station k).manage = false) :
    s.arriveManage h n q = s.dropTelegram Cause.classNotAllowed cManage h := by
  rw [arriveManage_steered s h q h1 hn, steered_accepted _ _ _ _ (isOwn_true hown), hc]
  exact sourced_barred _ _ _ _ _ _ hf hm

theorem managerOf_commissioning {s : State} {h : Header} (hown : h.dst = s.part.address) (hc : s.commissioning = true) :
    s.managerOf h = some { dst := h.src, seq := h.seq, level := 0 } := by
  simp [State.managerOf, hown, hc]

theorem managerOf_station {s : State} {h : Header} (hown : h.dst = s.part.address) (hc : s.commissioning = false)
    {k : StationId} (hf : s.findStation .u h.src = some k) (hm : (s.station k).manage = true) :
    s.managerOf h = some { dst := h.src, seq := h.seq, level := (s.station k).level,
                           desk := if (s.station k).role = .desk then some k else none } := by
  simp [State.managerOf, State.sourceOf, hown, hc, hf, hm]

/-- A MANAGE of a manager is taken from that manager. -/
theorem arriveManage_taken (s : State) (h : Header) {n : Nat} (q : ManageReq) (h1 : 1 ≤ n) (hn : n ≤ 16) {m : Manager}
    (hm : s.managerOf h = some m) : s.arriveManage h n q = s.takeManage m q := by
  rw [arriveManage_steered s h q h1 hn]
  unfold State.managerOf State.sourceOf at hm
  split at hm
  · cases hm
  next hown =>
    rw [steered_accepted _ _ _ _ (isOwn_true (not_not.1 hown))]
    split at hm
    next hc =>
      cases hm
      exact if_pos hc
    next hc =>
      rw [if_neg hc]
      split at hm
      · cases hm
      next k hf =>
        split at hm
        next ha =>
          cases hm
          exact sourced_accepted _ _ _ _ _ _ hf ha
        · cases hm

/-- The item count of a MANAGE that passes the form check does not matter. -/
theorem arriveManage_count (s : State) (h : Header) {n k : Nat} (q : ManageReq) (h1 : 1 ≤ n) (hn : n ≤ 16) (k1 : 1 ≤ k)
    (hk : k ≤ 16) : s.arriveManage h n q = s.arriveManage h k q := by
  rw [arriveManage_steered s h q h1 hn, arriveManage_steered s h q k1 hk]

/-- Settles O8: the lookup finds what it says, and each gate drops with its own cause. -/
theorem sourcesAreChecked : Obligations.SourcesAreChecked := by
  refine ⟨fun s h i items eth pad hn => ?_, fun c h q s hq hw => ?_⟩
  · refine ⟨fun p k => findStation_some, fun p => findStation_none, fun hf => ⟨fun hown => ⟨?_, ?_⟩, fun hdst => ⟨?_, ?_⟩, ?_⟩,
      fun hf => ?_, fun k hf => ⟨fun hown hs hp hd => ?_, fun hown hd => ?_, fun hdst hg => ?_, fun hdst hc => ?_⟩⟩ <;>
      refine congrArg Host.Outcome.next ((formed_of_suits s h _ (by first | exact hn | simp) rfl).trans ?_)
    · exact (steered_accepted _ _ _ _ (isOwn_true hown)).trans (sourced_unknown _ _ _ _ _ _ hf)
    · exact (steered_accepted _ _ _ _ (isOwn_true hown)).trans (sourced_unknown _ _ _ _ _ _ hf)
    · exact (steered_accepted _ _ _ _ (isOwnOrAll_true hdst)).trans (sourced_unknown _ _ _ _ _ _ hf)
    · exact (steered_accepted _ _ _ _ (isOwnOrAll_true hdst)).trans (sourced_unknown _ _ _ _ _ _ hf)
    · exact sourced_unknown _ _ _ _ _ _ hf
    · exact sourced_unknown _ _ _ _ _ _ hf
    · exact (steered_accepted _ _ _ _ (isOwn_true hown)).trans
        (sourced_barred _ _ _ _ _ _ hf (by simp [acceptsDispatch, hs, hp, hd]))
    · exact (steered_accepted _ _ _ _ (isOwn_true hown)).trans (sourced_barred _ _ _ _ _ _ hf (by simp [hd]))
    · exact (steered_accepted _ _ _ _ (isOwnOrAll_true hdst)).trans (sourced_barred _ _ _ _ _ _ hf (by simp [hg]))
    · exact (steered_accepted _ _ _ _ (isOwnOrAll_true hdst)).trans (sourced_barred _ _ _ _ _ _ hf (by simp [hc]))
  · obtain ⟨n, h1, hn, hexec⟩ := exec_request s hq hw
    intro noManager dropped
    have hcomm : s.commissioning = true ↔ noManager := commissioning_iff s
    have hnot (hno : ¬ noManager) : s.commissioning = false := by
      rwa [← hcomm, Bool.not_eq_true] at hno
    rw [hexec]
    refine ⟨fun hown => ?_, fun hown hno => managerOf_commissioning hown (hcomm.2 hno), fun hown hno hf => ?_,
      fun k hown hno hf => ⟨fun hm => ?_, managerOf_station hown (hnot hno) hf⟩⟩
    · rw [arriveManage_foreign s h q h1 hn hown]; rfl
    · rw [arriveManage_unknown s h q h1 hn hown (hnot hno) hf]; rfl
    · rw [arriveManage_barred s h q h1 hn hown (hnot hno) hf hm]; rfl

/-! ### What a MANAGE spells (section 11.1) -/

theorem length_fieldsOf (l : List Item) : (fieldsOf l).length ≤ l.length := List.length_filterMap_le _ _

/-- A kind outside 0x50 to 0x5A spells no request. -/
theorem readRequest_undefined (i : Item) (rest : List Item) (h : i.kind.toNat < 0x50 ∨ 0x5A < i.kind.toNat) :
    readRequest i rest = .bad := by
  unfold readRequest
  split <;> first | omega | rfl

/-- Settles O10: the request is read off the item, and a MANAGE of any count from 1 to 16 is taken alike. -/
theorem manageTelegramIsItsRequest : Obligations.ManageTelegramIsItsRequest := by
  intro s eth h i rest pad hr here fs
  have hlen : fs.length ≤ 15 := le_trans (length_fieldsOf rest) hr
  have spelt {q : ManageReq} {k : Nat} (hq : readRequest i rest = q) (k1 : 1 ≤ k) (hk : k ≤ 16) :
      here = .next (s.arriveManage h k q) := by
    show Host.Outcome.next (s.arriveManage h (rest.length + 1) (readRequest i rest)) = _
    rw [hq, arriveManage_count s h q (by omega) (by omega) k1 hk]
  have one {q : ManageReq} (hq : readRequest i rest = q) : here = .next (s.arriveManage h 1 q) :=
    spelt hq (le_refl 1) (by omega)
  have many {q : ManageReq} (hq : readRequest i rest = q) : here = .next (s.arriveManage h (1 + fs.length) q) :=
    spelt hq (by omega) (by omega)
  refine ⟨fun hk => one ?_, fun hk => one ?_, fun hk => ?_, fun hk => ?_, fun hk => one ?_, fun hk => one ?_,
    fun hk => one ?_, fun hk => ?_, fun hk => ⟨fun ha => one ?_, fun ha m hm hl => ?_⟩, fun hk => one ?_, fun hk => one ?_,
    fun hk m hm => ?_⟩
  · simp [readRequest, hk]
  · simp [readRequest, hk]
  · refine ⟨?_, ?_, ?_, ?_, ?_, ?_, ?_, ?_, ?_, ?_, ?_, ?_⟩ <;> intro ha <;> refine many ?_ <;>
      simp [readRequest, hk, ha, readTable, readIndex] <;> rfl
  · refine ⟨?_, ?_, ?_, ?_⟩ <;> intro ha <;> refine one ?_ <;> simp [readRequest, hk, ha]
  · simp [readRequest, hk]
  · simp [readRequest, hk]
  · simp [readRequest, hk]
  · exact ⟨fun ha => one (by simp [readRequest, hk, ha]), fun ha => many (by simp [readRequest, hk, ha]; rfl)⟩
  · simp [readRequest, hk, ha]
  · refine ⟨Config.movedBytes s.free, ?_⟩
    have hq : readRequest i rest = .recoverAbort none := by simp [readRequest, hk, ha]
    have hlevel : ¬ 1 < m.level := by omega
    have hm' : State.managerOf { s with free := s.free + 1 } h = some m := hm
    rw [one hq, arriveManage_taken s h _ (le_refl 1) (by omega) hm]
    show _ = Host.Outcome.next (State.arriveManage { s with free := s.free + 1 } h 1 _)
    rw [arriveManage_taken _ h _ (le_refl 1) (by omega) hm']
    simp [State.takeManage, ManageReq.maxLevel, hlevel, State.manage, State.takeFree]
  · simp [readRequest, hk]
  · simp [readRequest, hk]
  · rw [one (readRequest_undefined i rest hk), arriveManage_taken s h _ (le_refl 1) (by omega) hm]
    rfl

/-! ### Polls (R8, R85) -/

theorem ahead_of_new (q : Queue) (t : TrainId) (he : ∀ e ∈ q.entriesOf t, e.stamp < q.stamp)
    (hh : ∀ e, q.holds.get t = some e → e.stamp < q.stamp) :
    q.ahead t q.stamp = (q.entriesOf t).length + (if (q.holds.get t).isSome then 1 else 0) := by
  have hall : (q.entriesOf t).filter (fun e => e.stamp < q.stamp) = q.entriesOf t := by
    simpa [List.filter_eq_self] using he
  rw [Queue.ahead, hall]
  cases hq : q.holds.get t with
  | none => rfl
  | some e => simp [hh e hq]

/-- Settles O27: the poll passes its gates, and its destination's train decides what becomes of it. -/
theorem pollsAreForwardedHeldOrRefused : Obligations.PollsAreForwardedHeldOrRefused := by
  intro eth h items pad s k hn hk frame here
  have routed : here = .next (s.routePoll frame h) := by
    refine congrArg Host.Outcome.next ((formed_of_suits s h _ hn rfl).trans ?_)
    rw [sourced_accepted _ _ _ _ _ _ hk rfl]
    rfl
  rw [routed]
  refine ⟨fun i t rest hi ht => ?_, fun i hi ht => ?_, fun hi hall => ?_, fun hi hall => ?_⟩
  · have taken : s.routePoll frame h = s.takePoll t frame h.src h.seq := by simp [State.routePoll, hi, ht]
    intro idle
    have hidle : ((s.queue.entriesOf t).isEmpty && (s.queue.holds.get t).isNone) = true ↔ idle := by
      simp [idle]
    rw [taken, State.takePoll]
    refine ⟨fun hid => ?_, fun hid hroom => ?_, ahead_of_new s.queue t, fun hid hfull => ?_⟩
    · rw [if_pos (hidle.2 hid)]
    · rw [if_neg (mt hidle.1 hid), if_pos (show _ < pollDepth from hroom)]
      rfl
    · rw [if_neg (mt hidle.1 hid), if_neg (Nat.not_lt.2 (show pollDepth ≤ _ from hfull))]
      rfl
  · simp [State.routePoll, hi, ht]
  · rw [State.routePoll, hi]
    exact congrArg Host.Outcome.next (if_pos hall)
  · have hne : ¬ h.dst = 0xFFFF := hall
    rw [State.routePoll, hi]
    exact congrArg Host.Outcome.next (if_neg hne)

end Sys2Proof.Machine
end

section
/-! PROOF. Lists of indices, and the writes of STATIONS (O48). -/

namespace Sys2Proof.Machine

/-! ### The list of every index, lowest first -/

theorem fins_eq_finRange (n : Nat) : fins n = List.finRange n := by
  induction n with
  | zero => rfl
  | succ n ih => rw [fins, ih, List.finRange_succ]

theorem fins_pairwise (n : Nat) : (fins n).Pairwise (· < ·) := by
  rw [fins_eq_finRange]
  exact List.pairwise_lt_finRange n

/-- In an ascending list, the entries before a member are the smaller ones. -/
theorem split_of_ascending {n : Nat} {l : List (Fin n)} (hl : l.Pairwise (· < ·)) {k : Fin n} (hk : k ∈ l) :
    ∃ as bs, l = as ++ k :: bs ∧ ∀ a ∈ as, a < k := by
  obtain ⟨as, bs, rfl⟩ := List.append_of_mem hk
  exact ⟨as, bs, rfl, fun a ha => (List.pairwise_append.1 hl).2.2 a ha k List.mem_cons_self⟩

/-- A search over every index finds the least one. -/
theorem find_fins_of_least {n : Nat} {p : Fin n → Bool} {k : Fin n} (h : leastIndex (fun i => p i = true) k) :
    (fins n).find? p = some k := by
  obtain ⟨as, bs, hl, hlt⟩ := split_of_ascending (fins_pairwise n) (mem_fins k)
  rw [List.find?_eq_some_iff_append]
  refine ⟨h.1, as, bs, hl, fun a ha => ?_⟩
  simpa using h.2 a (hlt a ha)

theorem find_fins_none {n : Nat} {p : Fin n → Bool} (h : ∀ i, ¬ p i = true) : (fins n).find? p = none :=
  List.find?_eq_none.2 fun i _ => h i

/-! ### Judging a write of STATIONS (R10) -/

theorem duplicateStation_iff (w : Vector Station 32) (own : HWord) : duplicateStation w own = true ↔
    (∃ i, (w.get i).inUse = true ∧ (w.get i).address = own) ∨
      ∃ i j, i ≠ j ∧ (w.get i).inUse = true ∧ (w.get j).inUse = true ∧ (w.get i).address = (w.get j).address := by
  simp only [duplicateStation, List.any_eq_true, mem_fins, true_and, Bool.and_eq_true, Bool.or_eq_true, beq_iff_eq,
    bne_iff_ne]
  constructor
  · rintro ⟨i, hi, hown | ⟨j, ⟨hne, hj⟩, hij⟩⟩
    · exact .inl ⟨i, hi, hown⟩
    · exact .inr ⟨i, j, hne.symm, hi, hj, hij.symm⟩
  · rintro (⟨i, hi, hown⟩ | ⟨i, j, hne, hi, hj, hij⟩)
    · exact ⟨i, hi, .inl hown⟩
    · exact ⟨i, hi, .inr ⟨j, ⟨hne.symm, hj⟩, hij.symm⟩⟩

theorem badVia_iff (w : Vector Station 32) (i : StationId) : badVia w i = true ↔
    (w.get i).inUse = true ∧ (w.get i).port = .d ∧ ∃ j, (w.get i).via = some j ∧
      ((w.get j).inUse = false ∨ (w.get j).port = .u ∨ (w.get j).role ≠ .coupler ∨ j = i ∨ i ∈ viaChain w i) := by
  have hport (j : StationId) : (w.get j).port ≠ .d ↔ (w.get j).port = .u := by cases (w.get j).port <;> simp
  unfold badVia
  dsimp only
  cases hv : (w.get i).via with
  | none => simp
  | some j =>
    simp only [Bool.and_eq_true, beq_iff_eq, Bool.or_eq_true, Bool.not_eq_true', Bool.and_eq_false_iff,
      beq_eq_false_iff_ne, List.contains_iff_mem, Option.some.injEq, exists_eq_left', hport, and_assoc]
    tauto

/-! ### What an accepted write unenrols (R11) -/

/-- An entry that a write unenrols. -/
def Station.unenrolled (e : Station) : Station := { e with enrolment := .unenrolled, misses := 0 }

/-- The table with the entries of a list unenrolled. -/
def unenrolTable (v : Vector Station 32) (l : List StationId) : Vector Station 32 :=
  l.foldl (fun v i => modAt v i Station.unenrolled) v

theorem unenrolTable_get (l : List StationId) (v : Vector Station 32) (j : StationId) :
    (unenrolTable v l).get j = if j ∈ l then (v.get j).unenrolled else v.get j := by
  induction l generalizing v with
  | nil => rfl
  | cons i l ih =>
    have hcons : unenrolTable v (i :: l) = unenrolTable (modAt v i Station.unenrolled) l := rfl
    rw [hcons, ih, modAt_get]
    by_cases hji : j = i
    · subst hji
      simp [Station.unenrolled]
    · simp [hji]

theorem foldl_unenrol (l : List StationId) (s : State) :
    l.foldl (fun s i => s.modStation i fun e => { e with enrolment := .unenrolled, misses := 0 }) s =
      { s with stations := unenrolTable s.stations l } := by
  induction l generalizing s with
  | nil => rfl
  | cons i l ih => exact ih _

theorem unenrol_idle (s : State) (l : List StationId) (h : s.roll.call = none) :
    s.unenrol l = { s with stations := unenrolTable s.stations l } := by
  simp only [State.unenrol, foldl_unenrol, h]

theorem unenrol_call (s : State) (l : List StationId) {i : StationId} {q : HWord} (h : s.roll.call = some (i, q)) :
    s.unenrol l = if i ∈ l then State.endCall { s with stations := unenrolTable s.stations l } i
                  else { s with stations := unenrolTable s.stations l } := by
  simp only [State.unenrol, foldl_unenrol, h, List.contains_iff_mem]

theorem mem_writtenEntries {n : Nat} (fs : List Field) (i : Fin n) :
    i ∈ writtenEntries n fs ↔ ∃ f ∈ fs, f.index.toNat = i.val := by
  simp [writtenEntries, mem_fins]

theorem mem_writtenFields {n : Nat} (fs : List Field) (i : Fin n) (k : Nat) :
    k ∈ writtenFields fs i ↔ ∃ f ∈ fs, f.index.toNat = i.val ∧ f.number.toNat = k := by
  simp [writtenFields, and_assoc]

theorem enrolmentField_iff (w : Word) : enrolmentField w.toNat = true ↔ w ≠ 4 ∧ w ≠ 5 := by
  simp only [enrolmentField, Bool.and_eq_true, bne_iff_ne, ne_eq, ← BitVec.toNat_inj]
  rfl

/-- R11: the entries a write unenrols, in terms of its items. -/
theorem mem_unenrolledBy_write (w : Vector Station 32) (fs : List Field) (j : StationId) :
    j ∈ unenrolledBy w ((writtenEntries 32 fs).filter fun i => (writtenFields fs i).any enrolmentField) ↔
      ∃ f ∈ fs, f.number ≠ 4 ∧ f.number ≠ 5 ∧
        ∃ i : StationId, f.index.toNat = i.val ∧ (i = j ∨ i ∈ viaChain w j) := by
  simp only [unenrolledBy, List.mem_filter, mem_fins, true_and, List.any_eq_true, mem_writtenEntries,
    mem_writtenFields, Bool.or_eq_true, beq_iff_eq, List.contains_iff_mem]
  constructor
  · rintro ⟨i, ⟨-, k, ⟨f, hf, hi, rfl⟩, hk⟩, hij⟩
    rw [enrolmentField_iff] at hk
    exact ⟨f, hf, hk.1, hk.2, i, hi, hij⟩
  · rintro ⟨f, hf, h4, h5, i, hi, hij⟩
    exact ⟨i, ⟨⟨f, hf, hi⟩, _, ⟨f, hf, hi, rfl⟩, (enrolmentField_iff _).2 ⟨h4, h5⟩⟩, hij⟩

/-! ### The write decided -/

theorem exec_writeStations (h : Header) (fs : List Field) (s : State) (m : Manager) (hm : s.managerOf h = some m)
    (hl : m.level = 0) (hfs : fs.length ≤ 15) :
    exec (.writeStations h fs) s = .next (s.finishWrite m (s.writeStations fs)) := by
  refine congrArg Host.Outcome.next ((arriveManage_taken s h _ (by omega) (by omega) hm).trans ?_)
  simp [State.takeManage, ManageReq.maxLevel, hl, State.manage, State.writeTable]

/-- Settles O48: the whole-table refusals in their order, then the table with the touched entries unenrolled. -/
theorem stationWritesUnenrol : Obligations.StationWritesUnenrol := by
  intro h fs s m w l hm hl hfs hj here twice touched dangling
  have htwice : duplicateStation w s.part.address = true ↔ twice := duplicateStation_iff _ _
  have hdangling (i : StationId) : badVia w i = true ↔ dangling i := badVia_iff w i
  have hexec : here = .next (s.finishWrite m (s.writeStations fs)) := exec_writeStations h fs s m hm hl hfs
  have refused {r : MRefusal} (hr : stationsWhole s.part.address w = some r) : here = .next (s.refuseManage m r) := by
    rw [hexec]
    simp only [State.writeStations, judged, hj, hr, State.finishWrite]
  refine ⟨fun ht => refused ?_, fun k ht hk => refused ?_, fun ht hd => ?_⟩
  · rw [stationsWhole, if_pos (htwice.2 ht)]
    rfl
  · have hleast : leastIndex (fun i => badVia w i = true) k := by simpa [leastIndex, hdangling] using hk
    rw [stationsWhole, if_neg (mt htwice.1 ht), find_fins_of_least hleast]
    rfl
  · have hwhole : stationsWhole s.part.address w = none := by
      rw [stationsWhole, if_neg (mt htwice.1 ht), find_fins_none fun i hi => hd i ((hdangling i).1 hi)]
      rfl
    let gone := unenrolledBy w ((writtenEntries 32 fs).filter fun i => (writtenFields fs i).any enrolmentField)
    have hgone (j : StationId) : j ∈ gone ↔ touched j := mem_unenrolledBy_write w fs j
    have accepted : here = .next (State.replyWrite (State.unenrol { s with stations := w } gone) m l) := by
      rw [hexec]
      simp only [State.writeStations, judged, hj, hwhole, State.finishWrite]
      rfl
    refine ⟨unenrolTable w gone, fun j => ⟨fun htj => ?_, fun htj => ?_⟩, fun hc => ?_, fun i q hc =>
      ⟨fun hti => ?_, fun hti => ?_⟩⟩
    · rw [unenrolTable_get, if_pos ((hgone j).2 htj)]
      rfl
    · rw [unenrolTable_get, if_neg (mt (hgone j).1 htj)]
    · rw [accepted, unenrol_idle { s with stations := w } gone hc]
    · rw [accepted, unenrol_call { s with stations := w } gone hc, if_neg (mt (hgone i).1 hti)]
    · rw [accepted, unenrol_call { s with stations := w } gone hc, if_pos ((hgone i).2 hti)]

end Sys2Proof.Machine
end

section
/-! PROOF. What the operations shared by several blocks leave unchanged, field by field, and what they write: faults,
frames sent, the drive queue at the end of an event. -/

namespace Sys2Proof.Machine

/-! ### A raised fault (R169, R170) -/

section
variable (s : State) (f : FaultInfo)

theorem notify_faults (k : TierId) (r : FaultRecord) : (s.notify k r).faults = s.faults := by
  unfold State.notify
  dsimp only
  split
  · rfl
  · split
    · rfl
    · split
      · rfl
      · rw [emit_frame]
        rfl

@[simp] theorem raise_faults : (s.raise f).faults = s.faults.add (faultRecord s f) := notify_faults _ _ _

@[simp] theorem raise_stations : (s.raise f).stations = s.stations := by rw [raise_frame]
@[simp] theorem raise_trains : (s.raise f).trains = s.trains := by rw [raise_frame]
@[simp] theorem raise_queue : (s.raise f).queue = s.queue := by rw [raise_frame]
@[simp] theorem raise_roll : (s.raise f).roll = s.roll := by rw [raise_frame]
@[simp] theorem raise_caverns : (s.raise f).caverns = s.caverns := by rw [raise_frame]
@[simp] theorem raise_reservations : (s.raise f).reservations = s.reservations := by rw [raise_frame]
@[simp] theorem raise_part : (s.raise f).part = s.part := by rw [raise_frame]
@[simp] theorem raise_gateOpen : (s.raise f).gateOpen = s.gateOpen := by rw [raise_frame]
@[simp] theorem raise_ptrip : (s.raise f).ptrip = s.ptrip := by rw [raise_frame]
@[simp] theorem raise_stores : (s.raise f).stores = s.stores := by rw [raise_frame]
@[simp] theorem raise_run (t : TrainId) : (s.raise f).run t = s.run t := by simp [State.run, State.train]
@[simp] theorem raise_cfg (t : TrainId) : (s.raise f).cfg t = s.cfg t := by simp [State.cfg, State.train]
@[simp] theorem raise_station (i : StationId) : (s.raise f).station i = s.station i := by simp [State.station]
@[simp] theorem raise_cavern (c : CavernId) : (s.raise f).cavern c = s.cavern c := by simp [State.cavern]

end

@[simp] theorem add_counter (l : FaultLog) (r : FaultRecord) : (l.add r).counter = l.counter + 1 := by
  unfold FaultLog.add
  split <;> rfl

@[simp] theorem add_getLast (l : FaultLog) (r : FaultRecord) : (l.add r).ring.getLast? = some r := by
  unfold FaultLog.add
  split <;> simp

/-! ### A telegram sent (R9) -/

section
variable (s : State) (p : Port) (cls : Byte) (dst : HWord) (items : List Item)

@[simp] theorem emit_roll : (s.emit p cls dst items).roll = s.roll := by rw [emit_frame]

end

/-! ### The end of an event (R77, R82, R88) -/

section
variable (s : State)

@[simp] theorem settle_stations : s.settle.stations = s.stations := by rw [settle_frame]
@[simp] theorem settle_trains : s.settle.trains = s.trains := by rw [settle_frame]
@[simp] theorem settle_faults : s.settle.faults = s.faults := by rw [settle_frame]
@[simp] theorem settle_caverns : s.settle.caverns = s.caverns := by rw [settle_frame]
@[simp] theorem settle_reservations : s.settle.reservations = s.reservations := by rw [settle_frame]
@[simp] theorem settle_part : s.settle.part = s.part := by rw [settle_frame]
@[simp] theorem settle_roll : s.settle.roll = s.roll := by rw [settle_frame]
@[simp] theorem settle_gateOpen : s.settle.gateOpen = s.gateOpen := by rw [settle_frame]
@[simp] theorem settle_run (t : TrainId) : s.settle.run t = s.run t := by simp [State.run, State.train]
@[simp] theorem settle_cfg (t : TrainId) : s.settle.cfg t = s.cfg t := by simp [State.cfg, State.train]
@[simp] theorem settle_station (i : StationId) : s.settle.station i = s.station i := by simp [State.station]
@[simp] theorem settle_cavern (c : CavernId) : s.settle.cavern c = s.cavern c := by simp [State.cavern]

@[simp] theorem modQueue_run (f : Queue → Queue) (t : TrainId) : (s.modQueue f).run t = s.run t := rfl
@[simp] theorem modQueue_cfg (f : Queue → Queue) (t : TrainId) : (s.modQueue f).cfg t = s.cfg t := rfl
@[simp] theorem modQueue_station (f : Queue → Queue) (i : StationId) : (s.modQueue f).station i = s.station i := rfl

@[simp] theorem modStation_run (i : StationId) (f : Station → Station) (t : TrainId) :
    (s.modStation i f).run t = s.run t := rfl
@[simp] theorem modStation_cfg (i : StationId) (f : Station → Station) (t : TrainId) :
    (s.modStation i f).cfg t = s.cfg t := rfl

theorem station_modStation (i j : StationId) (f : Station → Station) :
    (s.modStation i f).station j = if j = i then f (s.station i) else s.station j := modAt_get _ _ _ _

@[simp] theorem station_modStation_same (i : StationId) (f : Station → Station) :
    (s.modStation i f).station i = f (s.station i) := modAt_get_same _ _ _

@[simp] theorem hand_queue (p : Port) (f : Frame) : (s.hand p f).queue = s.queue := by rw [hand_frame]

theorem handPolls_queue (ps : List HeldPoll) : (s.handPolls ps).queue = s.queue :=
  foldl_keeps (P := fun u : State => u.queue = s.queue) (f := fun u (p : HeldPoll) => u.hand .d p.frame)
    (fun u p h => (hand_queue u .d p.frame).trans h) ps s rfl

@[simp] theorem sendDrive_queue (t : TrainId) (k : Byte) (e : Entry) :
    (s.sendDrive t k e).queue = { s.queue with pacing := upd s.queue.pacing t (some (s.cfg t).pacingGap) } := by
  unfold State.sendDrive State.startPacing
  rw [emit_frame]
  rfl

end

/-- A property of the queue that every part of the settling keeps holds at the end of an event. -/
structure SettleKeeps (Q : Queue → Prop) : Prop where
  polls  : ∀ q ps, Q q → Q { q with polls := ps }
  refill : ∀ q, Q q → Q q.refill
  erase  : ∀ q e, Q q → Q { q with entries := q.entries.erase e }
  pacing : ∀ q v, Q q → Q { q with pacing := v }

section
variable {Q : Queue → Prop}

theorem SettleKeeps.releasePolls (K : SettleKeeps Q) {s : State} (h : Q s.queue) : Q s.releasePolls.queue := by
  unfold State.releasePolls
  rw [handPolls_queue]
  exact K.polls _ _ h

theorem SettleKeeps.departOne (K : SettleKeeps Q) {s u : State} (h : Q s.queue) (e : s.departOne = some u) :
    Q u.queue := by
  unfold State.departOne at e
  split at e
  · cases e
  · cases e
    rw [sendDrive_queue]
    exact K.pacing _ _ (K.erase _ _ h)

theorem SettleKeeps.drain (K : SettleKeeps Q) (n : Nat) {s : State} (h : Q s.queue) : Q (s.drain n).queue := by
  induction n generalizing s with
  | zero => exact h
  | succ n ih =>
    have hr : Q (s.modQueue Queue.refill).queue := by
      rw [State.modQueue_queue]
      exact K.refill _ h
    unfold State.drain
    dsimp only
    split
    · exact hr
    next u hu => exact ih (K.departOne hr hu)

theorem SettleKeeps.settle (K : SettleKeeps Q) {s : State} (h : Q s.queue) : Q s.settle.queue := by
  unfold State.settle
  exact K.releasePolls (K.drain 7 (K.releasePolls h))

end

/-! ### A queue without anything of a train -/

/-- Nothing of train `t` waits, and no other train's hold could bring anything of it back (R75, R82). -/
structure Queue.clearOf (q : Queue) (t : TrainId) : Prop where
  entries  : q.entriesOf t = []
  hold     : q.holds.get t = none
  pending  : q.pendings.get t = none
  ownHolds : ∀ u e, q.holds.get u = some e → e.train = u

theorem entriesOf_eq_nil {q : Queue} {t : TrainId} : q.entriesOf t = [] ↔ ∀ e ∈ q.entries, e.train ≠ t := by
  simp [Queue.entriesOf, List.filter_eq_nil_iff]

theorem upd_none_some {n : Nat} {α : Type} {v : Vector (Option α) n} {i j : Fin n} {x : α}
    (h : (upd v i none).get j = some x) : v.get j = some x := by
  rw [upd_get] at h
  split at h
  · cases h
  · exact h

theorem upd_none_none {n : Nat} {α : Type} {v : Vector (Option α) n} {j : Fin n} (i : Fin n) (h : v.get j = none) :
    (upd v i none).get j = none := by
  rw [upd_get, h, ite_self]

theorem clearOf_refillHold {q : Queue} {t : TrainId} (u : TrainId) (h : q.clearOf t) : (q.refillHold u).clearOf t := by
  obtain ⟨hentries, hhold, hpending, hown⟩ := h
  unfold Queue.refillHold
  split
  · next e he =>
    split
    · have hne : e.train ≠ t := by
        rintro rfl
        rw [← hown u e he, hhold] at he
        cases he
      refine ⟨?_, upd_none_none u hhold, hpending, fun v x hx => hown v x (upd_none_some hx)⟩
      rw [entriesOf_eq_nil] at hentries ⊢
      simpa [or_imp, forall_and] using ⟨hentries, hne⟩
    · exact ⟨hentries, hhold, hpending, hown⟩
  · exact ⟨hentries, hhold, hpending, hown⟩

theorem clearOf_refillPending {q : Queue} {t : TrainId} (u : TrainId) (h : q.clearOf t) :
    (q.refillPending u).clearOf t := by
  obtain ⟨hentries, hhold, hpending, hown⟩ := h
  unfold Queue.refillPending
  split
  · next p hp =>
    split
    · have hne : u ≠ t := by
        rintro rfl
        rw [hpending] at hp
        cases hp
      refine ⟨?_, hhold, upd_none_none u hpending, hown⟩
      rw [entriesOf_eq_nil] at hentries ⊢
      simpa [or_imp, forall_and] using ⟨hentries, hne⟩
    · exact ⟨hentries, hhold, hpending, hown⟩
  · exact ⟨hentries, hhold, hpending, hown⟩

theorem clearOf_settleKeeps (t : TrainId) : SettleKeeps fun q => q.clearOf t where
  polls _ _ h := ⟨h.entries, h.hold, h.pending, h.ownHolds⟩
  refill _ h :=
    foldl_keeps (P := fun q : Queue => q.clearOf t) (f := Queue.refillPending) (fun _ u => clearOf_refillPending u) _ _
      (foldl_keeps (P := fun q : Queue => q.clearOf t) (f := Queue.refillHold) (fun _ u => clearOf_refillHold u) _ _ h)
  erase q e h := by
    refine ⟨?_, h.hold, h.pending, h.ownHolds⟩
    have hentries := h.entries
    rw [entriesOf_eq_nil] at hentries ⊢
    exact fun x hx => hentries x (List.mem_of_mem_erase hx)
  pacing _ _ h := ⟨h.entries, h.hold, h.pending, h.ownHolds⟩

/-! ### Trains taken out of the queue (R82, R83) -/

section
variable (s : State)

@[simp] theorem dropTrain_run (t u : TrainId) : (s.dropTrain t).run u = s.run u := rfl
@[simp] theorem dropTrain_station (t : TrainId) (i : StationId) : (s.dropTrain t).station i = s.station i := rfl

theorem dropTrain_clearOf (t : TrainId) (h : ∀ u e, s.queue.holds.get u = some e → e.train = u) :
    (s.dropTrain t).queue.clearOf t := by
  refine ⟨?_, ?_, ?_, fun u e he => h u e (upd_none_some he)⟩
  · simp [Queue.entriesOf, State.dropTrain, List.filter_filter]
  · exact upd_get_same _ _ _
  · exact upd_get_same _ _ _

theorem dropTrain_keeps_clearOf {t : TrainId} (u : TrainId) (h : s.queue.clearOf t) :
    (s.dropTrain u).queue.clearOf t := by
  refine ⟨?_, upd_none_none u h.hold, upd_none_none u h.pending, fun v e he => h.ownHolds v e (upd_none_some he)⟩
  have hentries := h.entries
  rw [entriesOf_eq_nil] at hentries ⊢
  exact fun e he => hentries e (List.mem_of_mem_filter he)

theorem toldLost_frame (i : StationId) : s.toldLost i = { s with link := (s.toldLost i).link, queue := (s.toldLost i).queue } :=
  (driveFrame s).toldLost rfl i

@[simp] theorem toldLost_stations (i : StationId) : (s.toldLost i).stations = s.stations := by rw [toldLost_frame]
@[simp] theorem toldLost_faults (i : StationId) : (s.toldLost i).faults = s.faults := by rw [toldLost_frame]
@[simp] theorem toldLost_roll (i : StationId) : (s.toldLost i).roll = s.roll := by rw [toldLost_frame]
@[simp] theorem toldLost_trains (i : StationId) : (s.toldLost i).trains = s.trains := by rw [toldLost_frame]
@[simp] theorem toldLost_station (i j : StationId) : (s.toldLost i).station j = s.station j := by
  simp [State.station]
@[simp] theorem toldLost_run (i : StationId) (t : TrainId) : (s.toldLost i).run t = s.run t := by
  simp [State.run, State.train]

end

theorem holds_own {q : Queue} (h : q.holdsCommands) (u : TrainId) (e : Entry) (he : q.holds.get u = some e) :
    e.train = u := (h u e he).1

/-- A fold of removals clears the queue of every train of its list. -/
theorem foldl_dropTrain_clearOf {l : List TrainId} {t : TrainId} (ht : t ∈ l) (s : State)
    (h : ∀ u e, s.queue.holds.get u = some e → e.train = u) : (l.foldl State.dropTrain s).queue.clearOf t := by
  induction l generalizing s with
  | nil => cases ht
  | cons u l ih =>
    rcases List.mem_cons.1 ht with rfl | ht
    · exact foldl_keeps (P := fun s : State => s.queue.clearOf t) (fun s u => dropTrain_keeps_clearOf s u) l _
        (dropTrain_clearOf s t h)
    · exact ih ht _ fun v e he => h v e (upd_none_some he)

end Sys2Proof.Machine
end

section
/-! PROOF. The roll call: its timers, and the seeking of the next call (O14, O15). -/

namespace Sys2Proof.Machine

/-! ### A station lost or rejected (R14, R16, R17, R19) -/

section
variable (s : State) (i j : StationId)

theorem lose_of_enrolled (h : (s.station i).enrolment = .enrolled) :
    s.lose i = ((s.modStation i fun e => { e with enrolment := .lost }).toldLost i).raise
      (stationFault Cause.stationLost (s.station i).address none) := if_pos h

theorem station_lose : (s.lose i).station j =
    if j = i ∧ (s.station i).enrolment = .enrolled then { s.station i with enrolment := .lost } else s.station j := by
  by_cases h : (s.station i).enrolment = .enrolled
  · rw [lose_of_enrolled s i h]
    simp [station_modStation, h]
  · simp [State.lose, h]

theorem station_reject : (s.reject i).station j =
    if j = i then { s.station i with enrolment := .rejected } else s.station j := by
  unfold State.reject
  dsimp only
  split
  · rw [toldLost_station, station_modStation]
  · rw [station_modStation]

@[simp] theorem reject_faults : (s.reject i).faults = s.faults := by
  unfold State.reject
  dsimp only
  split
  · rw [toldLost_faults, State.modStation_faults]
  · rfl

@[simp] theorem reject_roll : (s.reject i).roll = s.roll := by
  unfold State.reject
  dsimp only
  split
  · rw [toldLost_roll, State.modStation_roll]
  · rfl

@[simp] theorem reject_trains : (s.reject i).trains = s.trains := by
  unfold State.reject
  dsimp only
  split
  · rw [toldLost_trains, State.modStation_trains]
  · rfl

end

/-! ### The timers (R12, R14) -/

theorem expirePeriod_of_running {s : State} {n : Nat} (h : s.roll.period = some n) :
    s.expirePeriod =
      if s.roll.inRound then { s with roll := { s.roll with period := some (s.part.rollPeriod * 1000) } }
      else State.seek
        { s with roll := { s.roll with period := some (s.part.rollPeriod * 1000), inRound := true, cursor := 0 } } := by
  unfold State.expirePeriod
  rw [h]
  rfl

theorem expireReply_of_call {s : State} {n : Nat} {i : StationId} {q : HWord} (hr : s.roll.reply = some n)
    (hc : s.roll.call = some (i, q)) :
    s.expireReply =
      let m := missed s.part.missLimit (s.station i).misses
      let counted := s.modStation i fun e => { e with misses := m }
      (if (s.station i).enrolment = .enrolled ∧ s.part.missLimit ≤ m then (counted.lose i).loseBehind i
       else counted).endCall i := by
  unfold State.expireReply
  rw [hr, hc]

/-- R14, R83: what becomes of the queue entries of a lost station's trains. -/
theorem lose_clearOf {s : State} {i : StationId} (h : (s.station i).enrolment = .enrolled)
    (hq : s.queue.holdsCommands) {u : TrainId} (hu : u ∈ s.trainsBehind i) : (s.lose i).queue.clearOf u := by
  rw [lose_of_enrolled s i h, raise_queue]
  exact foldl_dropTrain_clearOf hu _ (holds_own hq)

/-- Settles O14: each expiry is one branch, and what a lost station's trains lose is what `dropTrain` takes. -/
theorem rollCallTimersExpire : Obligations.RollCallTimersExpire := by
  refine ⟨fun s n hp => ⟨fun hin => ?_, fun hin => ?_⟩, ?_⟩
  · refine congrArg Host.Outcome.next ((expirePeriod_of_running hp).trans ?_)
    rw [hin]
    rfl
  · refine congrArg Host.Outcome.next ((expirePeriod_of_running hp).trans ?_)
    rw [hin]
    rfl
  intro s n i q hr hc hq m counted
  have hexec : exec .replyTimerExpiry s = .next
      ((if (s.station i).enrolment = .enrolled ∧ s.part.missLimit ≤ m then (counted.lose i).loseBehind i
        else counted).endCall i) := congrArg Host.Outcome.next (expireReply_of_call hr hc)
  have hcounted : counted.station i = { s.station i with misses := m } := station_modStation_same s i _
  refine ⟨fun hstay => ?_, fun hen hm => ?_⟩
  · rw [hexec, if_neg]
    rintro ⟨hen, hm⟩
    exact hstay.elim (fun h => h hen) (Nat.not_lt.2 hm)
  · have hen' : (counted.station i).enrolment = .enrolled := by rw [hcounted]; exact hen
    have hlost : (counted.lose i).station i = { s.station i with enrolment := .lost, misses := m } := by
      rw [station_lose, if_pos ⟨rfl, hen'⟩, hcounted]
    refine ⟨by rw [hexec, if_pos ⟨hen, hm⟩], by rw [hlost], by rw [hlost], ?_, fun u hu => ?_⟩
    · rw [lose_of_enrolled counted i hen', raise_faults, add_getLast, hcounted]
      rfl
    · have hclear : (counted.lose i).queue.clearOf u := lose_clearOf hen' hq hu
      refine ⟨hclear.entries, hclear.hold, hclear.pending, ?_⟩
      rw [lose_of_enrolled counted i hen', raise_run, toldLost_run]
      rfl

/-! ### Seeking (R13) -/

/-- Entries that are not callable are passed without a trace. -/
theorem seekFrom_append (s : State) (as bs : List StationId) (h : ∀ a ∈ as, (s.station a).callable = false) :
    s.seekFrom (as ++ bs) = s.seekFrom bs := by
  induction as with
  | nil => rfl
  | cons a as ih =>
    have ha : (s.station a).callable = false := h a List.mem_cons_self
    rw [List.cons_append, State.seekFrom, ha]
    exact ih fun x hx => h x (List.mem_cons_of_mem _ hx)

/-- The entries at or above a cursor, lowest first. -/
def fromCursor (c : Nat) : List StationId := (fins 32).filter fun i => c ≤ i.val

theorem mem_fromCursor {c : Nat} {i : StationId} : i ∈ fromCursor c ↔ c ≤ i.val := by
  simp [fromCursor, mem_fins]

theorem fromCursor_ascending (c : Nat) : (fromCursor c).Pairwise (· < ·) := (fins_pairwise 32).filter _

/-- What stands at or above a cursor is what stands before an entry, the entry, and what stands above it. -/
theorem fromCursor_split {c : Nat} {i : StationId} (h : c ≤ i.val) :
    ∃ as, fromCursor c = as ++ i :: fromCursor (i.val + 1) ∧ ∀ a ∈ as, a < i := by
  obtain ⟨as, bs, hl, hlt⟩ := split_of_ascending (fromCursor_ascending c) (mem_fromCursor.2 h)
  refine ⟨as, ?_, hlt⟩
  have hgt : ∀ b ∈ bs, i < b := by
    have hp := fromCursor_ascending c
    rw [hl] at hp
    exact (List.pairwise_cons.1 (List.pairwise_append.1 hp).2.1).1
  have habove : (fromCursor c).filter (fun j => i.val + 1 ≤ j.val) = fromCursor (i.val + 1) := by
    rw [fromCursor, fromCursor, List.filter_filter]
    refine List.filter_congr fun j _ => ?_
    simp only [Bool.and_eq_left_iff_imp, decide_eq_true_eq]
    omega
  have hbefore : as.filter (fun j => i.val + 1 ≤ j.val) = [] := by
    rw [List.filter_eq_nil_iff]
    intro a ha
    have hai : a.val < i.val := hlt a ha
    simp only [decide_eq_true_eq]
    omega
  have hafter : bs.filter (fun j => i.val + 1 ≤ j.val) = bs := by
    rw [List.filter_eq_self]
    intro b hb
    have hib : i.val < b.val := hgt b hb
    simp only [decide_eq_true_eq]
    omega
  rw [hl, List.filter_append, hbefore, List.filter_cons_of_neg (by simp), hafter] at habove
  rw [hl, ← habove, List.nil_append]

theorem callable_iff (e : Station) :
    e.callable = true ↔ e.inUse = true ∧ e.port = .d ∧ e.enrolment ≠ .rejected := by
  simp [Station.callable, and_assoc]

/-- An entry the seeking takes: at or above the cursor and callable. -/
def State.openEntry (s : State) (i : StationId) : Prop :=
  s.roll.cursor ≤ i.val ∧ (s.station i).inUse = true ∧ (s.station i).port = .d ∧ (s.station i).enrolment ≠ .rejected

theorem openEntry_iff (s : State) (i : StationId) :
    s.openEntry i ↔ s.roll.cursor ≤ i.val ∧ (s.station i).callable = true := by
  rw [callable_iff, State.openEntry]

theorem seek_none (s : State) (h : ∀ i, ¬ s.openEntry i) :
    s.seek = { s with roll := { s.roll with inRound := false } } := by
  have hskip : s.seekFrom (fromCursor s.roll.cursor ++ []) = s.seekFrom [] := by
    refine seekFrom_append s _ _ fun a ha => ?_
    have := h a
    rw [openEntry_iff] at this
    simpa [mem_fromCursor.1 ha] using this
  rwa [List.append_nil] at hskip

/-- R13: the seeking begins at the least entry it can take. -/
theorem seek_least (s : State) {i : StationId} (h : leastIndex s.openEntry i) :
    s.seek = s.seekFrom (i :: fromCursor (i.val + 1)) ∧ (s.station i).callable = true := by
  obtain ⟨hi, hleast⟩ := h
  rw [openEntry_iff] at hi
  obtain ⟨as, hl, hlt⟩ := fromCursor_split hi.1
  have hskip : ∀ a ∈ as, (s.station a).callable = false := by
    intro a ha
    have hc : s.roll.cursor ≤ a.val := mem_fromCursor.1 (hl ▸ List.mem_append_left _ ha)
    have hnot := hleast a (hlt a ha)
    rw [openEntry_iff] at hnot
    simpa [hc] using hnot
  have hseek : s.seek = s.seekFrom (fromCursor s.roll.cursor) := rfl
  exact ⟨by rw [hseek, hl, seekFrom_append s _ _ hskip], hi.2⟩

section
variable (s : State) (i : StationId) (rest : List StationId) (hc : (s.station i).callable = true)
include hc

theorem seekFrom_reject (h : s.turn i = .reject) : s.seekFrom (i :: rest) =
    (((s.reject i).raise (stationFault Cause.topologyExceeded (s.station i).address (some (nat (s.depth i))))).passOver
      i).seekFrom rest := by
  simp [State.seekFrom, hc, h]

theorem seekFrom_skip (h : s.turn i = .skip) : s.seekFrom (i :: rest) = (s.passOver i).seekFrom rest := by
  simp [State.seekFrom, hc, h]

theorem seekFrom_call (h : s.turn i = .call) : s.seekFrom (i :: rest) = s.callStation i := by
  simp [State.seekFrom, hc, h]

end

/-- Settles O15: the least open entry's turn decides, and passing over it leaves the seeking at the next one. -/
theorem seekingTheNextCall : Obligations.SeekingTheNextCall := by
  intro s open_
  refine ⟨seek_none s, fun i hi hd => ?_, fun i j hi hd hv hj => ?_, fun i hi hd hv => ?_⟩
  · let u := ((s.reject i).raise
      (stationFault Cause.topologyExceeded (s.station i).address (some (nat (s.depth i))))).passOver i
    have hroll : u.roll = { s.roll with cursor := i.val + 1 } := by simp [u, State.passOver]
    have hturn : s.turn i = .reject := if_pos hd
    refine ⟨u, ?_, ?_, hroll, ?_, ?_⟩
    · obtain ⟨hseek, hcall⟩ := seek_least s hi
      rw [hseek, seekFrom_reject s i _ hcall hturn]
      show u.seekFrom (fromCursor (i.val + 1)) = u.seekFrom (fromCursor u.roll.cursor)
      rw [hroll]
    · show ((State.raise _ _).station i).enrolment = .rejected
      rw [raise_station, station_reject, if_pos rfl]
    · show (State.raise _ _).faults.counter = _
      rw [raise_faults, add_counter, reject_faults]
    · show (State.raise _ _).faults.ring.getLast?.map _ = _
      rw [raise_faults, add_getLast]
      rfl
  · have hturn : s.turn i = .skip := by simp [State.turn, Nat.not_lt.2 hd, hv, hj]
    obtain ⟨hseek, hcall⟩ := seek_least s hi
    rw [hseek, seekFrom_skip s i _ hcall hturn]
    rfl
  · have hturn : s.turn i = .call := by
      unfold State.turn
      rw [if_neg (Nat.not_lt.2 hd)]
      split
      · rfl
      · next j hj => rw [if_pos (hv j hj)]
    obtain ⟨hseek, hcall⟩ := seek_least s hi
    rw [hseek, seekFrom_call s i _ hcall hturn]
    simp only [State.callStation, emit_roll]

end Sys2Proof.Machine
end

section
/-! PROOF. What the sequencer's operations write in a train record, and what they leave: entry to a state, trips, stops,
claims, grants. -/

namespace Sys2Proof.Machine

/-! ### A table with one train's running condition changed -/

/-- A train table with the running condition of train `t` changed by `F`. -/
def trainsMod (v : Vector Train 6) (t : TrainId) (F : TrainRun → TrainRun) : Vector Train 6 :=
  modAt v t fun x => { x with run := F x.run }

theorem vector_ext_get {α : Type} {n : Nat} {v w : Vector α n} (h : ∀ i, v.get i = w.get i) : v = w :=
  Vector.ext fun i hi => h ⟨i, hi⟩

@[simp] theorem trainsMod_trainsMod (v : Vector Train 6) (t : TrainId) (F G : TrainRun → TrainRun) :
    trainsMod (trainsMod v t F) t G = trainsMod v t fun r => G (F r) := by
  refine vector_ext_get fun u => ?_
  simp only [trainsMod, modAt_get]
  by_cases h : u = t <;> simp [h]

@[simp] theorem trainsMod_id (v : Vector Train 6) (t : TrainId) : trainsMod v t (fun r => r) = v := by
  refine vector_ext_get fun u => ?_
  simp only [trainsMod, modAt_get]
  by_cases h : u = t <;> simp [h]

theorem trainsMod_congr {v : Vector Train 6} {t : TrainId} {F G : TrainRun → TrainRun}
    (h : F (v.get t).run = G (v.get t).run) : trainsMod v t F = trainsMod v t G := by
  simp only [trainsMod, modAt, h]

section
variable {s u : State} {t : TrainId} {F : TrainRun → TrainRun} (h : u.trains = trainsMod s.trains t F)
include h

theorem run_of_trainsMod : u.run t = F (s.run t) := by
  simp [State.run, State.train, h, trainsMod]

theorem othersKept_of_trainsMod : othersKept s u t := by
  refine ⟨fun v => ?_, fun v hv => ?_⟩
  · simp only [State.cfg, State.train, h, trainsMod, modAt_get]
    split
    next e => rw [e]
    next => rfl
  · simp [State.run, State.train, h, trainsMod, modAt_get, hv]

theorem cfg_of_trainsMod (v : TrainId) : u.cfg v = s.cfg v := (othersKept_of_trainsMod h).1 v

end

theorem run_of_trains {s u : State} (h : u.trains = s.trains) (t : TrainId) : u.run t = s.run t := by
  simp [State.run, State.train, h]

theorem cfg_of_trains {s u : State} (h : u.trains = s.trains) (t : TrainId) : u.cfg t = s.cfg t := by
  simp [State.cfg, State.train, h]

theorem cavern_of_caverns {s u : State} (h : u.caverns = s.caverns) (c : CavernId) : u.cavern c = s.cavern c := by
  simp [State.cavern, h]

theorem modRun_frame (s : State) (t : TrainId) (f : TrainRun → TrainRun) :
    s.modRun t f = { s with trains := trainsMod s.trains t f } := rfl

@[simp] theorem modRun_trains (s : State) (t : TrainId) (f : TrainRun → TrainRun) :
    (s.modRun t f).trains = trainsMod s.trains t f := rfl

/-! ### Entry to a state (R51) -/

/-- The running condition of a train that enters a state. -/
def TrainRun.entered (r : TrainRun) (new : TrainState) : TrainRun :=
  let r1 := if r.state = .running ∧ new ≠ .running then { r with power := 0, reactive := 0, reheat := 0 } else r
  { r1 with state := new, mode := if new.noRunMode then none else r.mode }

/-- A cavern table with a train taken from the holders of a cavern (R104). -/
def unclaimed (v : Vector Cavern 2) (c : CavernId) (t : TrainId) : Vector Cavern 2 :=
  if (v.get c).run.holders.getLsbD t.val then modAt v c fun x => { x with run := x.run.drop t } else v

/-- Reservations released at an entry. -/
def State.leaveHeat (s : State) (t : TrainId) (old new : TrainState) : State :=
  if old.holdsHeat && !new.holdsHeat then s.releaseHeat t else s

/-- The claim given up at an entry. -/
def State.leaveClaim (s : State) (t : TrainId) (old new : TrainState) : State :=
  if old.holdsClaim && !new.holdsClaim then s.unclaim t else s

/-- Quantities and set values given up at an entry. -/
def State.leaveRunning (s : State) (t : TrainId) (old new : TrainState) : State :=
  if old = .running ∧ new ≠ .running then
    (s.dropQuantities t).modRun t fun r => { r with power := 0, reactive := 0, reheat := 0 }
  else s

/-- The active slot marked at the entry of a configured train to UNKNOWN. -/
def State.markPartial (s : State) (new : TrainState) (configured : Bool) : State :=
  if new = .unknown ∧ configured then s.modActive fun x => { x with flags := { x.flags with partialData := true } } else s

section
variable (s : State) (t : TrainId) (old new : TrainState)

theorem enter_stages : s.enter t new =
    ((((s.leaveHeat t (s.run t).state new).leaveClaim t (s.run t).state new).leaveRunning t (s.run t).state new).modRun t
      fun r => { r with state := new, mode := if new.noRunMode then none else r.mode }).markPartial new
        (s.cfg t).configured := rfl

theorem unclaim_frame : s.unclaim t = { s with caverns := unclaimed s.caverns (s.cfg t).cavern t } := by
  unfold State.unclaim unclaimed
  dsimp only
  by_cases h : (s.caverns.get (s.cfg t).cavern).run.holders.getLsbD t.val = true
  · rw [if_pos h]
    exact if_pos h
  · rw [if_neg h]
    exact if_neg h

theorem modActive_frame (f : Slot → Slot) : s.modActive f = { s with slots := (s.modActive f).slots } := by
  unfold State.modActive
  split <;> rfl

theorem leaveHeat_frame : s.leaveHeat t old new =
    { s with reservations := if old.holdsHeat && !new.holdsHeat then s.reservations.filter fun r => !(r.train == t)
                             else s.reservations } := by
  unfold State.leaveHeat
  split <;> rfl

theorem leaveClaim_frame : s.leaveClaim t old new =
    { s with caverns := if old.holdsClaim && !new.holdsClaim then unclaimed s.caverns (s.cfg t).cavern t
                else s.caverns } := by
  unfold State.leaveClaim
  split
  · exact unclaim_frame s t
  · rfl

theorem leaveRunning_frame : s.leaveRunning t old new =
    { s with
      queue := if old = .running ∧ new ≠ .running then (s.dropQuantities t).queue else s.queue
      trains := trainsMod s.trains t fun r =>
        if old = .running ∧ new ≠ .running then { r with power := 0, reactive := 0, reheat := 0 } else r } := by
  unfold State.leaveRunning
  split
  · rfl
  · rw [trainsMod_id]

theorem markPartial_frame (c : Bool) : s.markPartial new c = { s with slots := (s.markPartial new c).slots } := by
  unfold State.markPartial
  split
  · exact modActive_frame s _
  · rfl

/-- What an entry to a state changes. -/
theorem enter_frame : s.enter t new =
    { s with
      reservations :=
        if (s.run t).state.holdsHeat && !new.holdsHeat then s.reservations.filter fun r => !(r.train == t)
        else s.reservations
      caverns := if (s.run t).state.holdsClaim && !new.holdsClaim then unclaimed s.caverns (s.cfg t).cavern t
                else s.caverns
      queue := if (s.run t).state = .running ∧ new ≠ .running then (s.dropQuantities t).queue else s.queue
      trains := trainsMod s.trains t fun r => r.entered new
      slots := (s.enter t new).slots } := by
  have hstages := enter_stages s t new
  generalize (s.enter t new) = u at hstages ⊢
  rw [leaveHeat_frame, leaveClaim_frame, leaveRunning_frame, modRun_frame, markPartial_frame] at hstages
  subst hstages
  dsimp only
  rw [trainsMod_trainsMod]
  congr 1
  refine trainsMod_congr ?_
  show _ = (s.run t).entered new
  unfold TrainRun.entered
  dsimp only
  split <;> rfl

@[simp] theorem enter_trains : (s.enter t new).trains = trainsMod s.trains t fun r => r.entered new := by
  rw [enter_frame]
@[simp] theorem enter_faults : (s.enter t new).faults = s.faults := by rw [enter_frame]
@[simp] theorem enter_stations : (s.enter t new).stations = s.stations := by rw [enter_frame]
@[simp] theorem enter_part : (s.enter t new).part = s.part := by rw [enter_frame]
@[simp] theorem enter_gateOpen : (s.enter t new).gateOpen = s.gateOpen := by rw [enter_frame]
theorem enter_reservations : (s.enter t new).reservations =
    if (s.run t).state.holdsHeat && !new.holdsHeat then s.reservations.filter fun r => !(r.train == t)
    else s.reservations := by rw [enter_frame]
theorem enter_caverns : (s.enter t new).caverns =
    if (s.run t).state.holdsClaim && !new.holdsClaim then unclaimed s.caverns (s.cfg t).cavern t else s.caverns := by
  rw [enter_frame]
theorem enter_queue : (s.enter t new).queue =
    if (s.run t).state = .running ∧ new ≠ .running then (s.dropQuantities t).queue else s.queue := by rw [enter_frame]

end

theorem not_mem_released (l : List Reservation) (t : TrainId) :
    ∀ r ∈ l.filter (fun r => !(r.train == t)), r.train ≠ t := by
  simp

theorem unclaimed_holders (v : Vector Cavern 2) (c : CavernId) (t : TrainId) :
    ((unclaimed v c t).get c).run.holders.getLsbD t.val = false := by
  unfold unclaimed
  split
  · rw [modAt_get_same]
    simp [CavernRun.drop, dropBit]
  · next h => simpa using h

/-! ### The queue's own operations leave everything else (R75, R80, R82) -/

section
variable (s : State) (t : TrainId)

section
variable (o : Origin) (a b : Option HWord) (c : HWord)
theorem sendTrip_frame : s.sendTrip t o a b c =
    { s with link := (s.sendTrip t o a b c).link, queue := (s.sendTrip t o a b c).queue } := sendDrive_frame s t _ _
@[simp] theorem sendTrip_trains : (s.sendTrip t o a b c).trains = s.trains := by rw [sendTrip_frame]
@[simp] theorem sendTrip_faults : (s.sendTrip t o a b c).faults = s.faults := by rw [sendTrip_frame]
@[simp] theorem sendTrip_queue : (s.sendTrip t o a b c).queue =
    { s.queue with pacing := upd s.queue.pacing t (some (s.cfg t).pacingGap) } := sendDrive_queue s t _ _
end

section
variable (k : DriveKind) (v : Int) (ref : Option ItemRef) (hk : k.isQuantity = false)
include hk
theorem placeCommand_trains : (s.placeCommand t k v ref).1.trains = s.trains := by rw [placeCommand_frame s t k v ref hk]
theorem placeCommand_faults : (s.placeCommand t k v ref).1.faults = s.faults := by rw [placeCommand_frame s t k v ref hk]
theorem placeCommand_caverns : (s.placeCommand t k v ref).1.caverns = s.caverns := by
  rw [placeCommand_frame s t k v ref hk]
theorem placeCommand_reservations : (s.placeCommand t k v ref).1.reservations = s.reservations := by
  rw [placeCommand_frame s t k v ref hk]
end

@[simp] theorem dropTrain_trains : (s.dropTrain t).trains = s.trains := rfl
@[simp] theorem dropTrain_stations : (s.dropTrain t).stations = s.stations := rfl
@[simp] theorem dropTrain_faults : (s.dropTrain t).faults = s.faults := rfl
@[simp] theorem startTimer_frame (k : TrainTimer) (n : Nat) : s.startTimer t k n =
    { s with trains := trainsMod s.trains t fun r => { r with timer := some (k, seconds n) } } := rfl
@[simp] theorem cancelTimer_frame : s.cancelTimer t =
    { s with trains := trainsMod s.trains t fun r => { r with timer := none } } := rfl

end

theorem dropQuantities_clearOf {q : State} {t : TrainId} (u : TrainId) (h : q.queue.clearOf t) :
    (q.dropQuantities u).queue.clearOf t := by
  refine ⟨?_, h.hold, upd_none_none u h.pending, h.ownHolds⟩
  have hentries := h.entries
  rw [entriesOf_eq_nil] at hentries ⊢
  exact fun e he => hentries e (List.mem_of_mem_filter he)

theorem enter_clearOf {s : State} {t : TrainId} (u : TrainId) (new : TrainState) (h : s.queue.clearOf t) :
    (s.enter u new).queue.clearOf t := by
  rw [enter_queue]
  split
  · exact dropQuantities_clearOf u h
  · exact h

/-! ### Trips and entry to UNKNOWN (R61, R68) -/

/-- The running condition of a train taken down. -/
def TrainRun.takenDown (r : TrainRun) : TrainRun := { r.entered .tripped with timer := none, reset := false }

/-- The running condition of a train that becomes UNKNOWN. -/
def TrainRun.lostSight (r : TrainRun) : TrainRun := { r.entered .unknown with timer := none, reset := false }

section
variable (s : State) (t : TrainId)

@[simp] theorem takeDown_trains : (s.takeDown t).trains = trainsMod s.trains t TrainRun.takenDown := by
  simp [State.takeDown]
  rfl

@[simp] theorem takeDown_faults : (s.takeDown t).faults = s.faults := by simp [State.takeDown]

theorem takeDown_reservations : (s.takeDown t).reservations =
    if (s.run t).state.holdsHeat then s.reservations.filter fun r => !(r.train == t) else s.reservations := by
  have hstays : TrainState.tripped.holdsHeat = false := rfl
  simp only [State.takeDown, State.modRun_reservations, cancelTimer_frame, enter_reservations, hstays, Bool.not_false,
    Bool.and_true, dropTrain_run]
  rfl

theorem takeDown_clearOf (h : ∀ u e, s.queue.holds.get u = some e → e.train = u) : (s.takeDown t).queue.clearOf t := by
  have hentered := enter_clearOf t .tripped (dropTrain_clearOf s t h)
  exact hentered

@[simp] theorem toUnknown_trains : (s.toUnknown t).trains = trainsMod s.trains t TrainRun.lostSight := by
  simp [State.toUnknown]
  rfl

@[simp] theorem toUnknown_faults : (s.toUnknown t).faults = s.faults := by simp [State.toUnknown]

@[simp] theorem toUnknown_stations : (s.toUnknown t).stations = s.stations := by simp [State.toUnknown]

theorem toUnknown_clearOf (h : ∀ u e, s.queue.holds.get u = some e → e.train = u) : (s.toUnknown t).queue.clearOf t :=
  enter_clearOf t .unknown (dropTrain_clearOf s t h)

theorem toUnknown_keeps_clearOf (u : TrainId) (h : s.queue.clearOf t) : (s.toUnknown u).queue.clearOf t :=
  enter_clearOf u .unknown (dropTrain_keeps_clearOf s u h)

end

end Sys2Proof.Machine
end

section
/-! PROOF. Roll-call replies: discarded, judged, and enrolling their station (O16). -/

namespace Sys2Proof.Machine

/-! ### Chains that an enrolment does not change -/

/-- Two station tables with the same entries in use, on the same ports, behind the same couplers. -/
def sameChains (v w : Vector Station 32) : Prop :=
  ∀ j, (v.get j).inUse = (w.get j).inUse ∧ (v.get j).port = (w.get j).port ∧ (v.get j).via = (w.get j).via

theorem chainOf_congr {v w : Vector Station 32} (h : sameChains v w) (n : Nat) (i : StationId) :
    chainOf v n i = chainOf w n i := by
  induction n generalizing i with
  | zero => rfl
  | succ n ih =>
    unfold chainOf
    rw [(h i).2.2]
    split
    · rfl
    · rw [ih]

theorem behind_congr {v w : Vector Station 32} (h : sameChains v w) (i : StationId) : behind v i = behind w i := by
  refine List.filter_congr fun j _ => ?_
  obtain ⟨hu, hp, -⟩ := h j
  rw [hu, hp, viaChain, viaChain, chainOf_congr h]

theorem mem_behind (v : Vector Station 32) (i j : StationId) :
    j ∈ behind v i ↔ (v.get j).inUse = true ∧ (v.get j).port = .d ∧ i ∈ viaChain v j := by
  simp [behind, mem_fins, and_assoc]

/-! ### Several stations lost or rejected -/

theorem foldl_lose_station (l : List StationId) (s : State) (j : StationId) :
    (l.foldl State.lose s).station j =
      if j ∈ l ∧ (s.station j).enrolment = .enrolled then { s.station j with enrolment := .lost } else s.station j := by
  induction l generalizing s with
  | nil => simp
  | cons i l ih =>
    rw [List.foldl_cons, ih, station_lose]
    by_cases hji : j = i
    · subst hji
      by_cases he : (s.station j).enrolment = .enrolled <;> simp [he]
    · simp [hji]

theorem foldl_reject_station (l : List StationId) (s : State) (j : StationId) :
    (l.foldl State.reject s).station j =
      if j ∈ l then { s.station j with enrolment := .rejected } else s.station j := by
  induction l generalizing s with
  | nil => simp
  | cons i l ih =>
    rw [List.foldl_cons, ih, station_reject]
    by_cases hji : j = i
    · subst hji
      simp
    · simp [hji]

theorem rejectWithBehind_station (s : State) (i j : StationId) :
    (s.rejectWithBehind i).station j =
      if j = i ∨ j ∈ behind s.stations i then { s.station j with enrolment := .rejected } else s.station j := by
  unfold State.rejectWithBehind
  rw [foldl_reject_station, station_reject]
  by_cases hji : j = i
  · subst hji
    by_cases hb : j ∈ behind s.stations j <;> simp [hb]
  · simp [hji]

theorem rejectWithBehind_faults (s : State) (i : StationId) : (s.rejectWithBehind i).faults = s.faults :=
  foldl_keeps (P := fun u : State => u.faults = s.faults) (f := State.reject)
    (fun u j h => (reject_faults u j).trans h) _ _ (reject_faults s i)

theorem rejectWithBehind_trains (s : State) (i : StationId) : (s.rejectWithBehind i).trains = s.trains :=
  foldl_keeps (P := fun u : State => u.trains = s.trains) (f := State.reject)
    (fun u j h => (reject_trains u j).trans h) _ _ (reject_trains s i)

/-! ### A failed identity (R16) -/

section
variable (s : State) (i : StationId) (d : Word)

/-- What a failed identity does before the stations behind a coupler follow. -/
def State.identityFault : State :=
  ((s.reject i).modStation i fun e => { e with misses := 0 }).raise
    (stationFault Cause.identityMismatch (s.station i).address (some d))

theorem identityFault_station (j : StationId) : (s.identityFault i d).station j =
    if j = i then { s.station i with enrolment := .rejected, misses := 0 } else s.station j := by
  unfold State.identityFault
  rw [raise_station, station_modStation]
  by_cases hji : j = i <;> simp [hji, station_reject]

theorem failIdentity_of_coupler (h : (s.station i).role = .coupler) :
    s.failIdentity i d = (s.identityFault i d).loseBehind i := if_pos h

theorem failIdentity_of_other (h : (s.station i).role ≠ .coupler) : s.failIdentity i d = s.identityFault i d := if_neg h

theorem identityFault_sameChains : sameChains (s.identityFault i d).stations s.stations := by
  intro j
  have hj := identityFault_station s i d j
  simp only [State.station] at hj
  rw [hj]
  by_cases hji : j = i <;> simp [hji]

theorem failIdentity_station (j : StationId) : (s.failIdentity i d).station j =
    if j = i then { s.station i with enrolment := .rejected, misses := 0 }
    else if (s.station i).role = .coupler ∧ j ∈ behind s.stations i ∧ (s.station j).enrolment = .enrolled then
      { s.station j with enrolment := .lost }
    else s.station j := by
  by_cases hr : (s.station i).role = .coupler
  · rw [failIdentity_of_coupler s i d hr, State.loseBehind, settle_station, foldl_lose_station,
      behind_congr (identityFault_sameChains s i d), identityFault_station]
    by_cases hji : j = i <;> simp [hji, hr]
  · rw [failIdentity_of_other s i d hr, identityFault_station]
    by_cases hji : j = i <;> simp [hji, hr]

end

/-! ### Enrolling a station (R18) -/

theorem foldl_toUnknown_faults (l : List TrainId) (s : State) : (l.foldl State.toUnknown s).faults = s.faults :=
  foldl_keeps (P := fun u : State => u.faults = s.faults) (f := State.toUnknown)
    (fun u t h => (toUnknown_faults u t).trans h) l s rfl

theorem foldl_toUnknown_stations (l : List TrainId) (s : State) : (l.foldl State.toUnknown s).stations = s.stations :=
  foldl_keeps (P := fun u : State => u.stations = s.stations) (f := State.toUnknown)
    (fun u t h => (toUnknown_stations u t).trans h) l s rfl

theorem toUnknown_run (s : State) (t u : TrainId) :
    (s.toUnknown t).run u = if u = t then (s.run t).lostSight else s.run u := by
  have htrains := toUnknown_trains s t
  by_cases h : u = t
  · subst h
    rw [if_pos rfl, run_of_trainsMod htrains]
  · rw [if_neg h, (othersKept_of_trainsMod htrains).2 u h]

theorem foldl_toUnknown_other {l : List TrainId} {t : TrainId} (ht : t ∉ l) (s : State) :
    (l.foldl State.toUnknown s).run t = s.run t := by
  induction l generalizing s with
  | nil => rfl
  | cons u l ih =>
    rw [List.mem_cons, not_or] at ht
    rw [List.foldl_cons, ih ht.2, toUnknown_run, if_neg ht.1]

/-- A train out of sight: UNKNOWN, its timer stopped, nothing of it in the queue. -/
def State.outOfSight (s : State) (t : TrainId) : Prop :=
  (s.run t).state = .unknown ∧ (s.run t).timer = none ∧ s.queue.clearOf t

theorem toUnknown_outOfSight (s : State) (t : TrainId) (h : ∀ u e, s.queue.holds.get u = some e → e.train = u) :
    (s.toUnknown t).outOfSight t := by
  have hrun := toUnknown_run s t t
  rw [if_pos rfl] at hrun
  exact ⟨by rw [hrun]; rfl, by rw [hrun]; rfl, toUnknown_clearOf s t h⟩

theorem toUnknown_keeps_outOfSight (s : State) (t u : TrainId) (h : s.outOfSight t) : (s.toUnknown u).outOfSight t := by
  obtain ⟨hstate, htimer, hclear⟩ := h
  have hrun := toUnknown_run s u t
  by_cases htu : t = u
  · rw [if_pos htu] at hrun
    exact ⟨by rw [hrun]; rfl, by rw [hrun]; rfl, toUnknown_keeps_clearOf s t u hclear⟩
  · rw [if_neg htu] at hrun
    exact ⟨by rw [hrun]; exact hstate, by rw [hrun]; exact htimer, toUnknown_keeps_clearOf s t u hclear⟩

theorem toUnknown_ownHolds (s : State) (t : TrainId) (h : ∀ u e, s.queue.holds.get u = some e → e.train = u) :
    ∀ u e, (s.toUnknown t).queue.holds.get u = some e → e.train = u := (toUnknown_clearOf s t h).ownHolds

theorem foldl_toUnknown_outOfSight {l : List TrainId} {t : TrainId} (ht : t ∈ l) (s : State)
    (h : ∀ u e, s.queue.holds.get u = some e → e.train = u) : (l.foldl State.toUnknown s).outOfSight t := by
  induction l generalizing s with
  | nil => cases ht
  | cons u l ih =>
    rcases List.mem_cons.1 ht with rfl | ht
    · exact foldl_keeps (P := fun s : State => s.outOfSight t) (f := State.toUnknown)
        (fun s u => toUnknown_keeps_outOfSight s t u) l _ (toUnknown_outOfSight s t h)
    · exact ih ht _ (toUnknown_ownHolds s u h)

section
variable (s : State) (i : StationId)

theorem enrol_of_rejected (h : (s.station i).enrolment = .rejected) : s.enrol i = s := by
  simp [State.enrol, h]

theorem enrol_of_enrolled (h : (s.station i).enrolment = .enrolled) :
    s.enrol i = s.modStation i fun e => { e with misses := 0 } := by
  simp [State.enrol, h]

theorem enrol_full (h : (s.station i).enrolment = .unenrolled ∨ (s.station i).enrolment = .lost)
    (hn : 31 ≤ s.enrolledCount) :
    s.enrol i = (s.modStation i fun e => { e with misses := 0 }).raise
      (stationFault Cause.topologyExceeded (s.station i).address (some 31)) := by
  rcases h with h | h <;> simp [State.enrol, h, hn]

theorem enrol_new (h : (s.station i).enrolment = .unenrolled ∨ (s.station i).enrolment = .lost)
    (hn : s.enrolledCount < 31) :
    s.enrol i = ((s.modStation i fun e => { e with misses := 0 }).modStation i fun e =>
      { e with enrolment := .enrolled }).toldEnrolled i := by
  rcases h with h | h <;> simp [State.enrol, h, Nat.not_le.2 hn]

/-- While a place is free, an enrolment raises nothing and leaves the other stations. -/
theorem enrol_faults (hn : s.enrolledCount < 31) : (s.enrol i).faults = s.faults := by
  cases h : (s.station i).enrolment with
  | rejected => rw [enrol_of_rejected s i h]
  | enrolled => rw [enrol_of_enrolled s i h]; rfl
  | unenrolled => rw [enrol_new s i (.inl h) hn]; exact foldl_toUnknown_faults _ _
  | lost => rw [enrol_new s i (.inr h) hn]; exact foldl_toUnknown_faults _ _

theorem enrol_new_station (h : (s.station i).enrolment = .unenrolled ∨ (s.station i).enrolment = .lost)
    (hn : s.enrolledCount < 31) (j : StationId) : (s.enrol i).station j =
      if j = i then { s.station i with enrolment := .enrolled, misses := 0 } else s.station j := by
  rw [enrol_new s i h hn, State.toldEnrolled, State.station, foldl_toUnknown_stations]
  show ((s.modStation i _).modStation i _).station j = _
  simp only [station_modStation]
  by_cases hji : j = i <;> simp [hji]

theorem enrol_other (hn : s.enrolledCount < 31) {j : StationId} (hji : j ≠ i) : (s.enrol i).station j = s.station j := by
  cases h : (s.station i).enrolment with
  | rejected => rw [enrol_of_rejected s i h]
  | enrolled => rw [enrol_of_enrolled s i h, station_modStation, if_neg hji]
  | unenrolled => rw [enrol_new_station s i (.inl h) hn, if_neg hji]
  | lost => rw [enrol_new_station s i (.inr h) hn, if_neg hji]

theorem enrol_new_outOfSight (h : (s.station i).enrolment = .unenrolled ∨ (s.station i).enrolment = .lost)
    (hn : s.enrolledCount < 31) (hq : s.queue.holdsCommands) {t : TrainId} (ht : t ∈ s.trainsBehind i) :
    (s.enrol i).outOfSight t := by
  rw [enrol_new s i h hn]
  exact foldl_toUnknown_outOfSight (l := s.trainsBehind i) ht _ (holds_own hq)

theorem enrol_new_run (h : (s.station i).enrolment = .unenrolled ∨ (s.station i).enrolment = .lost)
    (hn : s.enrolledCount < 31) {t : TrainId} (ht : t ∉ s.trainsBehind i) : (s.enrol i).run t = s.run t := by
  rw [enrol_new s i h hn]
  exact foldl_toUnknown_other (l := s.trainsBehind i) ht _

end

theorem settle_outOfSight {s : State} {t : TrainId} (h : s.outOfSight t) : s.settle.outOfSight t := by
  obtain ⟨hstate, htimer, hclear⟩ := h
  exact ⟨by rw [settle_run]; exact hstate, by rw [settle_run]; exact htimer, (clearOf_settleKeeps t).settle hclear⟩

end Sys2Proof.Machine
end

section
/-! PROOF. The three judgements of a roll-call reply, and O16. -/

namespace Sys2Proof.Machine

/-- What the station unit's operations leave besides the stations and the roll call. -/
theorem stationsTablesFrame (s : State) :
    KeepsStations fun u => tablesKept { s with stations := u.stations, roll := u.roll } u where
  link := fun _ _ _ h => h
  faults := fun _ _ _ h => h
  tiers := fun _ _ _ h => h
  queue := fun _ _ _ _ _ _ h => h
  trains := fun _ _ h => h
  caverns := fun _ _ _ h => h
  reservations := fun _ _ _ h => h
  slots := fun _ _ _ h => h
  stopRequests := fun _ _ h => h
  stations := fun _ _ ⟨hpart, hperm, hpos, hduty, hband, hscan, hpoint, hbus, hroute, _, hrest⟩ =>
    ⟨hpart, hperm, hpos, hduty, hband, hscan, hpoint, hbus, hroute, rfl, hrest⟩
  roll := fun _ _ ⟨hpart, hperm, hpos, hduty, hband, hscan, hpoint, hbus, hroute, hstation, _, hrest⟩ =>
    ⟨hpart, hperm, hpos, hduty, hband, hscan, hpoint, hbus, hroute, hstation, rfl, hrest⟩

/-! ### The judgements (R16 to R18) -/

section
variable (s : State) (i : StationId) (x : Item) (rest : List Item)

theorem identified_iff (e : Station) : e.identified x = true ↔ x.kind = 0x41 ∧ x.auxA = e.idHigh ∧ x.auxB = e.idLow := by
  simp [Station.identified, and_assoc]

theorem topologyFails_iff (d n : Nat) : topologyFails d x n = true ↔
    x.value ≠ nat d ∨ 15 < x.auxC.toNat ∨ x.auxC.toNat ≠ n ∨ (0 < n ∧ 3 ≤ d) := by
  simp [topologyFails, or_assoc]

theorem judgements_unidentified (h : (s.station i).identified x = false) :
    s.judgements i (x :: rest) = s.failIdentity i (if x.kind = 0x41 then x.auxB else 0) := by
  simp [State.judgements, h]

theorem judgements_other (h : (s.station i).identified x = true) (hr : (s.station i).role ≠ .coupler) :
    s.judgements i (x :: rest) = s.enrol i := by
  simp [State.judgements, h, hr]

theorem judgements_misplaced (h : (s.station i).identified x = true) (hr : (s.station i).role = .coupler)
    (ht : topologyFails (s.depth i) x (behindItems (x :: rest)).length = true) :
    s.judgements i (x :: rest) =
      (s.rejectWithBehind i).raise (stationFault Cause.topologyExceeded (s.station i).address (some x.auxC)) := by
  simp [State.judgements, h, hr, ht]

theorem judgements_coupler (h : (s.station i).identified x = true) (hr : (s.station i).role = .coupler)
    (ht : topologyFails (s.depth i) x (behindItems (x :: rest)).length = false) :
    s.judgements i (x :: rest) = ((behindItems (x :: rest)).foldl (State.takeBehind i) s).enrol i := by
  simp [State.judgements, h, hr, ht]

end

/-! ### BEHIND items (R17) -/

section
variable (s : State) (i j : StationId) (y : Item)

theorem takeBehind_inOrder (hf : s.findStation .d y.refId = some j) (hv : (s.station j).via = some i) :
    State.takeBehind i s y = s := by
  simp [State.takeBehind, hf, hv]

theorem takeBehind_unknown (hf : s.findStation .d y.refId = none) :
    State.takeBehind i s y = s.raise (stationFault Cause.unexpectedStation y.refId none) := by
  simp [State.takeBehind, hf]

theorem takeBehind_elsewhere (hf : s.findStation .d y.refId = some j) (hv : (s.station j).via ≠ some i) :
    State.takeBehind i s y =
      (s.rejectWithBehind j).raise (stationFault Cause.unexpectedStation y.refId none) := by
  simp [State.takeBehind, hf, hv]

theorem foldl_takeBehind_inOrder {l : List Item}
    (h : ∀ y ∈ l, ∃ j, s.findStation .d y.refId = some j ∧ (s.station j).via = some i) :
    l.foldl (State.takeBehind i) s = s := by
  induction l with
  | nil => rfl
  | cons y l ih =>
    obtain ⟨j, hf, hv⟩ := h y List.mem_cons_self
    rw [List.foldl_cons, takeBehind_inOrder s i j y hf hv]
    exact ih fun z hz => h z (List.mem_cons_of_mem _ hz)

end

/-- No more stations are ENROLLED where every ENROLLED one was so before. -/
theorem enrolledCount_le {u s : State}
    (h : ∀ k, (u.station k).enrolment = .enrolled → (s.station k).enrolment = .enrolled) :
    u.enrolledCount ≤ s.enrolledCount :=
  (List.monotone_filter_right _ fun k hk => by simpa using h k (by simpa using hk)).length_le

theorem rejectWithBehind_enrolledCount (s : State) (j : StationId) :
    (s.rejectWithBehind j).enrolledCount ≤ s.enrolledCount := by
  refine enrolledCount_le fun k hk => ?_
  rw [rejectWithBehind_station] at hk
  split at hk
  · cases hk
  · exact hk

theorem enrol_keeps_rejected {s : State} {i k : StationId} (hn : s.enrolledCount < 31)
    (hk : (s.station k).enrolment = .rejected) : (s.enrol i).station k = s.station k := by
  by_cases hki : k = i
  · subst hki
    rw [enrol_of_rejected s k hk]
  · exact enrol_other s i hn hki

/-! ### What each judgement leaves -/

/-- A reply that passes all three judgements (R16, R17). -/
def State.passes (s : State) (i : StationId) (x : Item) (rest : List Item) : Prop :=
  (s.station i).role = .train ∨ ((s.station i).role = .coupler ∧
    topologyFails (s.depth i) x (behindItems (x :: rest)).length = false ∧
    ∀ y ∈ behindItems (x :: rest), ∃ j, s.findStation .d y.refId = some j ∧ (s.station j).via = some i)

section
variable (s : State) (i : StationId) (x : Item) (rest : List Item)

theorem judgements_passed (h : (s.station i).identified x = true) (hp : s.passes i x rest) :
    s.judgements i (x :: rest) = s.enrol i := by
  rcases hp with hr | ⟨hr, ht, hl⟩
  · exact judgements_other s i x rest h (by rw [hr]; decide)
  · rw [judgements_coupler s i x rest h hr ht, foldl_takeBehind_inOrder s i hl]

theorem judgements_oneBehind (h : (s.station i).identified x = true) (hr : (s.station i).role = .coupler)
    (ht : topologyFails (s.depth i) x (behindItems (x :: rest)).length = false) {y : Item}
    (hy : behindItems (x :: rest) = [y]) :
    s.judgements i (x :: rest) = (State.takeBehind i s y).enrol i := by
  rw [judgements_coupler s i x rest h hr ht, hy, List.foldl_cons, List.foldl_nil]

/-- The state an unknown address among the BEHIND items leaves. -/
theorem takeBehind_unknown_enrolledCount {y : Item} (hf : s.findStation .d y.refId = none) :
    (State.takeBehind i s y).enrolledCount ≤ s.enrolledCount := by
  rw [takeBehind_unknown s i y hf]
  refine enrolledCount_le fun k hk => ?_
  rwa [raise_station] at hk

variable {j : StationId} {y : Item} (hf : s.findStation .d y.refId = some j) (hv : (s.station j).via ≠ some i)
include hf hv

theorem takeBehind_elsewhere_enrolledCount : (State.takeBehind i s y).enrolledCount ≤ s.enrolledCount := by
  rw [takeBehind_elsewhere s i j y hf hv]
  refine (enrolledCount_le fun k hk => ?_).trans (rejectWithBehind_enrolledCount s j)
  rwa [raise_station] at hk

theorem takeBehind_elsewhere_station (k : StationId) : (State.takeBehind i s y).station k =
    if k = j ∨ k ∈ behind s.stations j then { s.station k with enrolment := .rejected } else s.station k := by
  rw [takeBehind_elsewhere s i j y hf hv, raise_station, rejectWithBehind_station]

/-- Entries rejected for another via stay rejected when the coupler itself is enrolled (log entry 18). -/
theorem elsewhere_rejected (hn : s.enrolledCount < 31) {k : StationId} (hk : k = j ∨ k ∈ behind s.stations j) :
    (((State.takeBehind i s y).enrol i).station k).enrolment = .rejected := by
  have hrej : ((State.takeBehind i s y).station k).enrolment = .rejected := by
    rw [takeBehind_elsewhere_station s i hf hv, if_pos hk]
  rw [enrol_keeps_rejected (lt_of_le_of_lt (takeBehind_elsewhere_enrolledCount s i hf hv) hn) hrej, hrej]

theorem elsewhere_others (hn : s.enrolledCount < 31) {k : StationId} (hki : k ≠ i)
    (hk : ¬ (k = j ∨ k ∈ behind s.stations j)) : ((State.takeBehind i s y).enrol i).station k = s.station k := by
  rw [enrol_other _ i (lt_of_le_of_lt (takeBehind_elsewhere_enrolledCount s i hf hv) hn) hki,
    takeBehind_elsewhere_station s i hf hv, if_neg hk]

end

/-! ### A reply taken (R15) -/

theorem exec_rollcallReply (s : State) (h : Header) (items : List Item) (hown : h.dst = s.part.address)
    (h1 : 1 ≤ items.length) (h16 : items.length ≤ 16) :
    exec (.rollcallReply h items) s = .next (s.takeRollcallReply h items) := by
  have hsuits : countSuits cRollcallReply items.length = true := by simp [countSuits, h1]
  exact congrArg Host.Outcome.next
    ((formed_of_suits s h _ h16 hsuits).trans (steered_accepted _ _ _ _ (isOwn_true hown)))

/-- The state a matching reply is judged in: its reply timer stopped. -/
def State.heard (s : State) : State := { s with roll := { s.roll with reply := none } }

theorem takeRollcallReply_matched {s : State} {h : Header} {items : List Item} {i : StationId}
    (hc : s.roll.call = some (i, h.seq)) (hs : h.src = (s.station i).address) :
    s.takeRollcallReply h items = (s.heard.judgeReply i items).endCall i := by
  simp [State.takeRollcallReply, hc, hs, State.heard]

theorem takeRollcallReply_unmatched {s : State} {h : Header} {items : List Item}
    (hn : ∀ i q, s.roll.call = some (i, q) → h.src ≠ (s.station i).address ∨ h.seq ≠ q) :
    s.takeRollcallReply h items = s := by
  unfold State.takeRollcallReply
  split
  · next i q hc =>
    refine if_neg ?_
    rintro ⟨hs, hq⟩
    exact (hn i q hc).elim (fun g => g hs) (fun g => g hq)
  · rfl

/-- Settles O16: the reply's item picks the judgement, each judgement's own lemma says what it leaves, and the settling at
the end of the event touches neither stations nor faults. -/
theorem rollCallRepliesEnrol : Obligations.RollCallRepliesEnrol := by
  intro h items s hown h1 h16 hholds
  rw [exec_rollcallReply s h items hown h1 h16]
  refine ⟨fun hn => congrArg Host.Outcome.next (takeRollcallReply_unmatched hn), ?_⟩
  intro i x rest hc hs hitems was known behind listed misplaced othersStand judgedTo lastFault enrolledAs passes
  subst hitems
  have judged {Q : State → Prop} {v : State} (hv : s.heard.judgements i (x :: rest) = v) (hQ : Q v.settle) : judgedTo Q :=
    ⟨_, congrArg Host.Outcome.next (takeRollcallReply_matched hc hs),
      (stationsTablesFrame s).judgeReply (s := s.heard) (tablesKept_refl _) i (x :: rest), by
        rw [State.judgeReply, hv]
        exact hQ⟩
  have hknown : (s.heard.station i).identified x = true ↔ known := identified_iff x _
  have hmisplaced : topologyFails (s.heard.depth i) x listed.length = true ↔ misplaced := topologyFails_iff x _ _
  have hbehind (j k : StationId) : j ∈ Machine.behind s.stations k ↔ behind j k := mem_behind s.stations k j
  have placed (hm : ¬ misplaced) : topologyFails (s.heard.depth i) x listed.length = false := by
    rwa [← hmisplaced, Bool.not_eq_true] at hm
  have hlast {u : State} (w : State) {c : Cause} {a : HWord} {d : Option Word}
      (hu : u.faults = (w.raise (stationFault c a d)).faults) : lastFault u c a d := by
    show u.faults.ring.getLast?.map _ = _
    rw [hu, raise_faults, add_getLast]
    rfl
  have enrols (hk : known) (hp : passes) : s.heard.judgements i (x :: rest) = s.heard.enrol i :=
    judgements_passed _ i x rest (hknown.2 hk) (hp.imp id fun ⟨hr, hm, hl⟩ => ⟨hr, placed hm, hl⟩)
  have asEnrolled {v : State} {e : Enrolment}
      (hv : ∀ j, v.station j = if j = i then { s.station i with enrolment := e, misses := 0 } else s.station j) :
      enrolledAs v.settle e := by
    refine ⟨?_, ?_, fun j hji => ?_⟩
    · rw [settle_station, hv, if_pos rfl]
    · rw [settle_station, hv, if_pos rfl]
    · rw [settle_station, hv, if_neg hji]
  refine ⟨fun hk hp hw hn => ?_, fun hk hp hw hn => ?_, fun hk hp hw => ?_, fun hk => ?_, fun hk hr hm => ?_,
    fun y hk hr hm hy hn => ⟨fun hf => ?_, fun j hf hv => ?_⟩⟩
  · have hq : s.heard.queue.holdsCommands := hholds
    refine judged (enrols hk hp) ⟨asEnrolled (enrol_new_station s.heard i hw hn), ?_, fun t ht => ?_, fun t ht => ?_⟩
    · rw [settle_faults, enrol_faults s.heard i hn]
      rfl
    · obtain ⟨hstate, htimer, hclear⟩ := settle_outOfSight (enrol_new_outOfSight s.heard i hw hn hq ht)
      exact ⟨hstate, htimer, hclear.entries⟩
    · rw [settle_run, enrol_new_run s.heard i hw hn ht]
      rfl
  · have hfull := enrol_full s.heard i hw hn
    refine judged ((enrols hk hp).trans hfull) ⟨asEnrolled fun j => ?_, fun t => ?_, hlast _ (settle_faults _)⟩
    · rw [raise_station]
      exact station_modStation _ i j _
    · rw [settle_run, raise_run]
      rfl
  · have hkept := enrol_of_enrolled s.heard i hw
    refine judged ((enrols hk hp).trans hkept) ⟨asEnrolled fun j => ?_, fun t => ?_, ?_⟩
    · rw [← show was = .enrolled from hw]
      exact station_modStation _ i j _
    · rw [settle_run]
      rfl
    · rw [settle_faults]
      rfl
  · have hunknown : (s.heard.station i).identified x = false := by rwa [← hknown, Bool.not_eq_true] at hk
    have hstation := failIdentity_station s.heard i (if x.kind = 0x41 then x.auxB else 0)
    have other (hr : (s.station i).role = .train) : (s.heard.station i).role ≠ .coupler := by
      rw [show (s.heard.station i).role = .train from hr]
      decide
    refine judged (judgements_unidentified _ i x rest hunknown) ⟨?_, ?_, fun hr => ⟨fun j hji => ?_,
      hlast _ ((settle_faults _).trans (congrArg State.faults (failIdentity_of_other _ _ _ (other hr))))⟩,
      fun hr j hji => ⟨fun hb he => ?_, fun hb => ?_⟩⟩
    · rw [settle_station, hstation, if_pos rfl]
    · rw [settle_station, hstation, if_pos rfl]
    · rw [settle_station, hstation, if_neg hji, if_neg]
      · rfl
      · exact fun g => other hr g.1
    · rw [settle_station, hstation, if_neg hji]
      exact if_pos ⟨hr, (hbehind j i).2 hb, he⟩
    · rw [settle_station, hstation, if_neg hji]
      refine if_neg ?_
      rintro ⟨-, hb', he⟩
      exact hb.elim (fun g => g ((hbehind j i).1 hb')) (fun g => g he)
  · refine judged (judgements_misplaced _ i x rest (hknown.2 hk) hr (hmisplaced.2 hm)) ⟨?_,
      fun j hji => ⟨fun hb => ?_, fun hb => ?_⟩, hlast _ (settle_faults _)⟩
    · rw [settle_station, raise_station, rejectWithBehind_station, if_pos (.inl rfl)]
    · rw [settle_station, raise_station, rejectWithBehind_station, if_pos (.inr ((hbehind j i).2 hb))]
    · rw [settle_station, raise_station, rejectWithBehind_station, if_neg]
      · rfl
      · exact fun g => g.elim hji fun g => hb ((hbehind j i).1 g)
  · have hcount := lt_of_le_of_lt (takeBehind_unknown_enrolledCount s.heard i hf) hn
    refine judged (judgements_oneBehind _ i x rest (hknown.2 hk) hr (placed hm) hy) ⟨fun j hji => ?_,
      hlast _ ((settle_faults _).trans ((enrol_faults _ i hcount).trans
        (congrArg State.faults (takeBehind_unknown _ i y hf))))⟩
    · rw [settle_station, enrol_other _ i hcount hji, takeBehind_unknown s.heard i y hf, raise_station]
      rfl
  · have hcount := lt_of_le_of_lt (takeBehind_elsewhere_enrolledCount s.heard i hf hv) hn
    refine judged (judgements_oneBehind _ i x rest (hknown.2 hk) hr (placed hm) hy) ⟨?_, fun k hb => ?_,
      fun k hki hkj hb => ?_, hlast _ ((settle_faults _).trans ((enrol_faults _ i hcount).trans
        (congrArg State.faults (takeBehind_elsewhere _ i j y hf hv))))⟩
    · rw [settle_station]
      exact elsewhere_rejected s.heard i hf hv hn (.inl rfl)
    · rw [settle_station]
      exact elsewhere_rejected s.heard i hf hv hn (.inr ((hbehind k j).2 hb))
    · rw [settle_station]
      exact elsewhere_others s.heard i hf hv hn hki fun g => g.elim hkj fun g => hb ((hbehind k j).1 g)
end Sys2Proof.Machine
end

section
/-! PROOF. What a report's operations do to a train record, and what they leave: recording, stops, rests, trips, claims,
grants, offers, consumption. -/

namespace Sys2Proof.Machine

/-! ### Which states hold a claim and a reservation (R51) -/

@[simp] theorem holdsHeat_stopping : TrainState.stopping.holdsHeat = false := rfl
@[simp] theorem holdsHeat_tripped : TrainState.tripped.holdsHeat = false := rfl
@[simp] theorem holdsHeat_locked : TrainState.locked.holdsHeat = false := rfl
@[simp] theorem holdsHeat_standstill : TrainState.standstill.holdsHeat = false := rfl
@[simp] theorem holdsClaim_stopping : TrainState.stopping.holdsClaim = true := rfl
@[simp] theorem holdsClaim_running : TrainState.running.holdsClaim = true := rfl
@[simp] theorem holdsClaim_tripped : TrainState.tripped.holdsClaim = false := rfl
@[simp] theorem holdsClaim_locked : TrainState.locked.holdsClaim = false := rfl
@[simp] theorem holdsClaim_standstill : TrainState.standstill.holdsClaim = false := rfl

/-! ### Fields of a running condition after an entry -/

section
variable (r : TrainRun) (new : TrainState)

theorem entered_cases : ∃ p q h, r.entered new =
    { r with state := new, mode := if new.noRunMode then none else r.mode, power := p, reactive := q, reheat := h } := by
  unfold TrainRun.entered
  dsimp only
  split
  · exact ⟨0, 0, 0, rfl⟩
  · exact ⟨r.power, r.reactive, r.reheat, rfl⟩

@[simp] theorem entered_state : (r.entered new).state = new := rfl
@[simp] theorem entered_mode : (r.entered new).mode = if new.noRunMode then none else r.mode := rfl
@[simp] theorem entered_engaged : (r.entered new).engaged = r.engaged := by
  obtain ⟨_, _, _, e⟩ := entered_cases r new; rw [e]
@[simp] theorem entered_timer : (r.entered new).timer = r.timer := by
  obtain ⟨_, _, _, e⟩ := entered_cases r new; rw [e]
@[simp] theorem entered_failures : (r.entered new).failures = r.failures := by
  obtain ⟨_, _, _, e⟩ := entered_cases r new; rw [e]
@[simp] theorem entered_lock : (r.entered new).lock = r.lock := by
  obtain ⟨_, _, _, e⟩ := entered_cases r new; rw [e]
@[simp] theorem entered_reset : (r.entered new).reset = r.reset := by
  obtain ⟨_, _, _, e⟩ := entered_cases r new; rw [e]
@[simp] theorem entered_lastCause : (r.entered new).lastCause = r.lastCause := by
  obtain ⟨_, _, _, e⟩ := entered_cases r new; rw [e]
@[simp] theorem entered_report : (r.entered new).report = r.report := by
  obtain ⟨_, _, _, e⟩ := entered_cases r new; rw [e]
@[simp] theorem entered_age : (r.entered new).age = r.age := by
  obtain ⟨_, _, _, e⟩ := entered_cases r new; rw [e]

/-- Set values fall to 0 where a train leaves RUNNING (R51). -/
theorem entered_setValues (h : r.state = .running) (hn : new ≠ .running) :
    (r.entered new).power = 0 ∧ (r.entered new).reactive = 0 ∧ (r.entered new).reheat = 0 := by
  simp [TrainRun.entered, h, hn]

theorem entered_power (h : ¬ (r.state = .running ∧ new ≠ .running)) : (r.entered new).power = r.power := by
  simp [TrainRun.entered, h]

end

/-! ### The engaged mode and the last report (R66) -/

/-- The engaged mode taken from a MODE that may be absent; only a REVERSIBLE train takes one. -/
def TrainRun.engagedAs (r : TrainRun) (k : TrainKind) (m : Option Mode) : TrainRun :=
  { r with engaged := if k = .reversible then m.getD r.engaged else r.engaged }

/-- A running condition with a report recorded. -/
def TrainRun.recorded (r : TrainRun) (k : TrainKind) (rep : LastReport) : TrainRun :=
  { r with
    report := r.report.laidOver rep
    age := some 0
    engaged := if (r.state = .standstill ∨ r.state = .locked ∨ r.state = .tripped) ∧ k = .reversible then
        rep.mode.getD r.engaged
      else r.engaged }

section
variable (s : State) (t : TrainId)

theorem setEngaged_frame (m : Mode) : s.setEngaged t m =
    { s with trains := trainsMod s.trains t fun r => r.engagedAs (s.cfg t).kind (some m) } := by
  unfold State.setEngaged TrainRun.engagedAs
  split
  · rfl
  · exact (congrArg (fun v => { s with trains := v }) (trainsMod_id s.trains t)).symm

theorem engagedFrom_frame (rep : LastReport) : s.engagedFrom t rep =
    { s with trains := trainsMod s.trains t fun r => r.engagedAs (s.cfg t).kind rep.mode } := by
  unfold State.engagedFrom
  cases hm : rep.mode with
  | some m => exact setEngaged_frame s t m
  | none =>
    simp only [TrainRun.engagedAs, Option.getD_none, ite_self]
    exact (congrArg (fun v => { s with trains := v }) (trainsMod_id s.trains t)).symm

theorem recordReport_frame (rep : LastReport) : s.recordReport t rep =
    { s with trains := trainsMod s.trains t fun r => r.recorded (s.cfg t).kind rep } := by
  have hcfg : (s.modRun t fun r => { r with report := r.report.laidOver rep, age := some 0 }).cfg t = s.cfg t :=
    s.cfg_modRun t t _
  unfold State.recordReport
  dsimp only
  split
  · next h =>
    rw [engagedFrom_frame, hcfg, modRun_frame]
    dsimp only
    rw [trainsMod_trainsMod]
    refine congrArg (fun v => { s with trains := v }) (trainsMod_congr ?_)
    show _ = (s.run t).recorded _ rep
    simp only [TrainRun.recorded, h, true_and]
    rfl
  · next h =>
    rw [modRun_frame]
    refine congrArg (fun v => { s with trains := v }) (trainsMod_congr ?_)
    show _ = (s.run t).recorded _ rep
    simp only [TrainRun.recorded, h, false_and, if_false]
    rfl

section
variable (rep : LastReport)
@[simp] theorem recordReport_trains :
    (s.recordReport t rep).trains = trainsMod s.trains t fun r => r.recorded (s.cfg t).kind rep := by
  rw [recordReport_frame]
@[simp] theorem recordReport_run : (s.recordReport t rep).run t = (s.run t).recorded (s.cfg t).kind rep :=
  run_of_trainsMod (recordReport_trains s t rep)
@[simp] theorem recordReport_cfg (u : TrainId) : (s.recordReport t rep).cfg u = s.cfg u :=
  cfg_of_trainsMod (recordReport_trains s t rep) u
@[simp] theorem recordReport_queue : (s.recordReport t rep).queue = s.queue := by rw [recordReport_frame]
@[simp] theorem recordReport_caverns : (s.recordReport t rep).caverns = s.caverns := by rw [recordReport_frame]
@[simp] theorem recordReport_reservations : (s.recordReport t rep).reservations = s.reservations := by
  rw [recordReport_frame]
@[simp] theorem recordReport_part : (s.recordReport t rep).part = s.part := by rw [recordReport_frame]
@[simp] theorem recordReport_gateOpen : (s.recordReport t rep).gateOpen = s.gateOpen := by rw [recordReport_frame]
@[simp] theorem recordReport_ptrip : (s.recordReport t rep).ptrip = s.ptrip := by rw [recordReport_frame]

@[simp] theorem engagedFrom_trains : (s.engagedFrom t rep).trains =
    trainsMod s.trains t fun r => r.engagedAs (s.cfg t).kind rep.mode := by rw [engagedFrom_frame]
@[simp] theorem engagedFrom_run : (s.engagedFrom t rep).run t = (s.run t).engagedAs (s.cfg t).kind rep.mode :=
  run_of_trainsMod (engagedFrom_trains s t rep)
@[simp] theorem engagedFrom_cfg (u : TrainId) : (s.engagedFrom t rep).cfg u = s.cfg u :=
  cfg_of_trainsMod (engagedFrom_trains s t rep) u
@[simp] theorem engagedFrom_part : (s.engagedFrom t rep).part = s.part := by rw [engagedFrom_frame]
@[simp] theorem engagedFrom_queue : (s.engagedFrom t rep).queue = s.queue := by rw [engagedFrom_frame]

variable (m : Mode)
@[simp] theorem setEngaged_trains : (s.setEngaged t m).trains =
    trainsMod s.trains t fun r => r.engagedAs (s.cfg t).kind (some m) := by rw [setEngaged_frame]
@[simp] theorem setEngaged_cfg (u : TrainId) : (s.setEngaged t m).cfg u = s.cfg u :=
  cfg_of_trainsMod (setEngaged_trains s t m) u
end

/-! ### Faults of the sequencer (R49) -/

section
variable (f : FaultInfo)
@[simp] theorem seqRaise_trains : (s.seqRaise t f).trains =
    trainsMod s.trains t fun r => { r with lastCause := some f.cause } := by
  rw [State.seqRaise, raise_trains, modRun_trains]
@[simp] theorem seqRaise_caverns : (s.seqRaise t f).caverns = s.caverns := by simp [State.seqRaise]
@[simp] theorem seqRaise_reservations : (s.seqRaise t f).reservations = s.reservations := by simp [State.seqRaise]
@[simp] theorem seqRaise_queue : (s.seqRaise t f).queue = s.queue := by simp [State.seqRaise]
@[simp] theorem seqRaise_part : (s.seqRaise t f).part = s.part := by simp [State.seqRaise]
@[simp] theorem seqRaise_ptrip : (s.seqRaise t f).ptrip = s.ptrip := by simp [State.seqRaise]
@[simp] theorem seqRaise_cfg (u : TrainId) : (s.seqRaise t f).cfg u = s.cfg u :=
  cfg_of_trainsMod (seqRaise_trains s t f) u
theorem seqRaise_faults : ∃ r, (s.seqRaise t f).faults = s.faults.add r ∧ r.cause = f.cause ∧ r.train = some t :=
  ⟨faultRecord _ _, raise_faults _ _, rfl, rfl⟩
end

/-! ### Stops (R58) -/

section
variable (ref : Option ItemRef)

/-- The running condition of a train that begins to stop. -/
def TrainRun.stopped (r : TrainRun) (timeout : Nat) : TrainRun :=
  { r.entered .stopping with timer := some (.stop, seconds timeout) }

@[simp] theorem beginStop_trains : (s.beginStop t ref).1.trains =
    trainsMod s.trains t fun r => r.stopped (s.cfg t).stopTimeout := by
  unfold State.beginStop
  dsimp only
  rw [settle_trains, placeCommand_trains _ _ _ _ _ rfl, startTimer_frame]
  dsimp only
  rw [enter_trains, trainsMod_trainsMod]
  rfl

@[simp] theorem beginStop_faults : (s.beginStop t ref).1.faults = s.faults := by
  unfold State.beginStop
  dsimp only
  rw [settle_faults, placeCommand_faults _ _ _ _ _ rfl, startTimer_frame]
  exact enter_faults s t .stopping

@[simp] theorem beginStop_caverns : (s.beginStop t ref).1.caverns = s.caverns := by
  unfold State.beginStop
  dsimp only
  rw [settle_caverns, placeCommand_caverns _ _ _ _ _ rfl, startTimer_frame]
  dsimp only
  rw [enter_caverns, if_neg (by simp)]

theorem beginStop_reservations : (s.beginStop t ref).1.reservations =
    if (s.run t).state.holdsHeat then s.reservations.filter fun r => !(r.train == t) else s.reservations := by
  unfold State.beginStop
  dsimp only
  rw [settle_reservations, placeCommand_reservations _ _ _ _ _ rfl, startTimer_frame]
  dsimp only
  rw [enter_reservations]
  simp
end

/-! ### Rests (R60) -/

/-- The running condition of a train that comes to rest. -/
def TrainRun.rested (r : TrainRun) (limit : Nat) : TrainRun :=
  if limit ≤ r.failures then { r.entered .locked with lock := true, lastCause := some Cause.trainLocked }
  else if r.lock then r.entered .locked
  else r.entered .standstill

@[simp] theorem enterRest_trains : (s.enterRest t).trains =
    trainsMod s.trains t fun r => r.rested s.part.failureLimit := by
  unfold State.enterRest
  dsimp only
  split
  · next h =>
    rw [seqRaise_trains, modRun_trains, enter_trains, trainsMod_trainsMod, trainsMod_trainsMod]
    exact trainsMod_congr (if_pos h).symm
  · next h =>
    split
    · next hl =>
      rw [enter_trains]
      exact trainsMod_congr ((if_neg h).trans (if_pos hl)).symm
    · next hl =>
      rw [enter_trains]
      exact trainsMod_congr ((if_neg h).trans (if_neg hl)).symm

theorem enterRest_reservations : (s.enterRest t).reservations =
    if (s.run t).state.holdsHeat then s.reservations.filter fun r => !(r.train == t) else s.reservations := by
  unfold State.enterRest
  dsimp only
  split
  · simp [enter_reservations]
  · split <;> simp [enter_reservations]

theorem enterRest_caverns : (s.enterRest t).caverns =
    if (s.run t).state.holdsClaim then unclaimed s.caverns (s.cfg t).cavern t else s.caverns := by
  unfold State.enterRest
  dsimp only
  split
  · simp [enter_caverns]
  · split <;> simp [enter_caverns]

/-! ### Trips (R61) -/

section
variable (rep : LastReport) (f : FaultInfo)

@[simp] theorem tripByReport_trains : (s.tripByReport t rep).trains =
    trainsMod s.trains t fun r => { r.takenDown with lastCause := some Cause.trip } := by
  rw [State.tripByReport, seqRaise_trains, settle_trains, takeDown_trains, trainsMod_trainsMod]
  rfl

@[simp] theorem tripBySequencer_trains : (s.tripBySequencer t f).trains =
    trainsMod s.trains t fun r => { r.takenDown with lastCause := some f.cause } := by
  rw [State.tripBySequencer, seqRaise_trains, takeDown_trains, sendTrip_trains, trainsMod_trainsMod]

theorem tripByReport_reservations : (s.tripByReport t rep).reservations =
    if (s.run t).state.holdsHeat then s.reservations.filter fun r => !(r.train == t) else s.reservations := by
  rw [State.tripByReport, seqRaise_reservations, settle_reservations, takeDown_reservations]

theorem tripByReport_clearOf (h : s.queue.holdsCommands) : (s.tripByReport t rep).queue.clearOf t := by
  rw [State.tripByReport, seqRaise_queue]
  exact (clearOf_settleKeeps t).settle (takeDown_clearOf s t (holds_own h))

theorem tripBySequencer_clearOf (h : s.queue.holdsCommands) : (s.tripBySequencer t f).queue.clearOf t := by
  rw [State.tripBySequencer, seqRaise_queue]
  refine takeDown_clearOf _ t ?_
  rw [sendTrip_queue]
  exact holds_own h

theorem tripBySequencer_faults : ∃ r, (s.tripBySequencer t f).faults = s.faults.add r := by
  obtain ⟨r, hr, -⟩ := seqRaise_faults ((s.sendTrip t .sequencer none none 0).takeDown t) t f
  rw [takeDown_faults, sendTrip_faults] at hr
  exact ⟨r, hr⟩
end

end

end Sys2Proof.Machine
end

section
/-! PROOF. Claims, grants, offers and consumption: what they write, what they leave; the trains a report leaves alone. -/

namespace Sys2Proof.Machine

/-! ### Consumption (R115) -/

section
variable (s : State) (t : TrainId) (rep : LastReport)

/-- What consumption can change. -/
theorem consume_frame : s.consume t rep =
    { s with reservations := (s.consume t rep).reservations, stopRequests := (s.consume t rep).stopRequests } := by
  unfold State.consume
  split
  · split
    · rfl
    · dsimp only
      split
      · unfold State.exhausted
        dsimp only
        split <;> rfl
      · rfl
  · rfl

@[simp] theorem consume_trains : (s.consume t rep).trains = s.trains := by rw [consume_frame]
@[simp] theorem consume_caverns : (s.consume t rep).caverns = s.caverns := by rw [consume_frame]
@[simp] theorem consume_queue : (s.consume t rep).queue = s.queue := by rw [consume_frame]
@[simp] theorem consume_faults : (s.consume t rep).faults = s.faults := by rw [consume_frame]
@[simp] theorem consume_run (u : TrainId) : (s.consume t rep).run u = s.run u := run_of_trains (consume_trains s t rep) u
@[simp] theorem consume_cavern (c : CavernId) : (s.consume t rep).cavern c = s.cavern c :=
  cavern_of_caverns (consume_caverns s t rep) c

/-- Only a RUNNING train consumes. -/
theorem consume_of_not_running (h : (s.run t).state ≠ .running) : s.consume t rep = s := by
  unfold State.consume
  split
  · exact if_pos h
  · rfl

end

/-! ### Direction claims (R103) -/

/-- A cavern's running condition with a claim of train `t` granted. -/
def CavernRun.granted (r : CavernRun) (t : TrainId) (m : RunMode) : CavernRun :=
  { r with direction := some m, holders := addBit (if r.direction = none then 0 else r.holders) t.val }

/-- A cavern table with a claim of train `t` granted. -/
def claimed (v : Vector Cavern 2) (c : CavernId) (t : TrainId) (m : RunMode) : Vector Cavern 2 :=
  modAt v c fun x => { x with run := x.run.granted t m }

theorem claimed_direction (v : Vector Cavern 2) (c : CavernId) (t : TrainId) (m : RunMode) :
    ((claimed v c t m).get c).run.direction = some m := by
  simp [claimed, CavernRun.granted]

theorem claimed_holders (v : Vector Cavern 2) (c : CavernId) (t : TrainId) (m : RunMode) :
    ((claimed v c t m).get c).run.holders.getLsbD t.val = true := by
  simp [claimed, CavernRun.granted, addBit]

theorem modCavern_congr (s : State) (c : CavernId) {f g : CavernRun → CavernRun}
    (h : f (s.cavern c).run = g (s.cavern c).run) : s.modCavern c f = s.modCavern c g := by
  have hrecord : ({ s.caverns.get c with run := f (s.caverns.get c).run } : Cavern) =
      { s.caverns.get c with run := g (s.caverns.get c).run } :=
    congrArg (fun r => ({ s.caverns.get c with run := r } : Cavern)) h
  exact congrArg (fun x => ({ s with caverns := upd s.caverns c x } : State)) hrecord

section
variable (s : State) (t : TrainId) (m : RunMode)

theorem claim_refused {d : RunMode} (h : (s.cavern (s.cfg t).cavern).run.direction = some d) (hd : d ≠ m) :
    s.claim t m = none := by
  simp [State.claim, h, hd]

theorem stop_or_not_frame (u : State) (b : Prop) [Decidable b] (c : Cause) :
    ∃ l, (if b then u.requestStop t c else u) = { u with stopRequests := l } := by
  split
  · exact ⟨_, rfl⟩
  · exact ⟨_, rfl⟩

theorem claim_granted (h : (s.cavern (s.cfg t).cavern).run.direction = none ∨
      (s.cavern (s.cfg t).cavern).run.direction = some m) :
    ∃ l, s.claim t m = some { s with caverns := claimed s.caverns (s.cfg t).cavern t m, stopRequests := l } := by
  rcases h with h | h
  · obtain ⟨l, hl⟩ := stop_or_not_frame t (s.modCavern (s.cfg t).cavern fun r => r.granted t m)
      ((s.cavern (s.cfg t).cavern).run.blindTimer = .expired) Cause.blindStop
    refine ⟨l, ?_⟩
    have hgrant : s.modCavern (s.cfg t).cavern (fun r => { r with direction := some m, holders := addBit 0 t.val }) =
        s.modCavern (s.cfg t).cavern fun r => r.granted t m := modCavern_congr s _ (by simp [CavernRun.granted, h])
    simp only [State.claim, h]
    rw [hgrant, hl]
    rfl
  · obtain ⟨l, hl⟩ := stop_or_not_frame t (s.modCavern (s.cfg t).cavern fun r => r.granted t m)
      ((s.cavern (s.cfg t).cavern).run.blindTimer = .expired) Cause.blindStop
    refine ⟨l, ?_⟩
    have hgrant : s.modCavern (s.cfg t).cavern (fun r => { r with holders := addBit r.holders t.val }) =
        s.modCavern (s.cfg t).cavern fun r => r.granted t m := modCavern_congr s _ (by simp [CavernRun.granted, h])
    simp only [State.claim, h, if_true]
    rw [hgrant, hl]
    rfl

end

/-! ### Grants (R112) -/

section
variable {s u : State} {a : HeatAsk}

theorem grantHeat_frame (h : s.grantHeat a = .ok u) : ∃ l, u = { s with reservations := l } := by
  unfold State.grantHeat at h
  dsimp only at h
  split at h
  · cases h; exact ⟨_, rfl⟩
  split at h
  · cases h
  split at h
  · cases h
  split at h
  · cases h
  split at h
  · cases h; exact ⟨_, rfl⟩
  split at h
  · cases h; exact ⟨_, rfl⟩
  · cases h

theorem grantHeat_of_ratio_zero (h : (s.cfg a.train).heatRatio a.mode = 0) : s.grantHeat a = .ok s := if_pos h

end

/-! ### An offer of the sequencer (R71, R76) -/

section
variable (s : State) (o : Offer)

theorem placeOffer_gateClosed (h : s.gateOpen = false) : (s.placeOffer o).1 = s := by
  unfold State.placeOffer
  rw [h]
  split <;> rfl

theorem placeOffer_trains (hr : (s.run o.train).state = .running) (hg : s.gateOpen = true) (ho : o.origin ≠ .admitted) :
    (s.placeOffer o).1.trains = trainsMod s.trains o.train fun r => r.place o.kind o.value := by
  unfold State.placeOffer
  rw [if_neg (not_not_intro hr), hg, if_neg (by simp)]
  dsimp only
  rw [if_neg ho]
  split
  · rfl
  · split <;> rfl

end

/-! ### One train acted on -/

/-- From `s` to `u` only train `t`'s running condition may change, and its last report stands. -/
structure ActsOn (s u : State) (t : TrainId) : Prop where
  others : othersKept s u t
  report : (u.run t).report = (s.run t).report
  age    : (u.run t).age = (s.run t).age

section
variable {s u w : State} {t : TrainId}

theorem ActsOn.trans (h : ActsOn s u t) (k : ActsOn u w t) : ActsOn s w t where
  others := ⟨fun v => (k.others.1 v).trans (h.others.1 v), fun v hv => (k.others.2 v hv).trans (h.others.2 v hv)⟩
  report := k.report.trans h.report
  age := k.age.trans h.age

theorem ActsOn.of_trains (h : u.trains = s.trains) : ActsOn s u t where
  others := ⟨cfg_of_trains h, fun v _ => run_of_trains h v⟩
  report := congrArg TrainRun.report (run_of_trains h t)
  age := congrArg TrainRun.age (run_of_trains h t)

theorem ActsOn.refl : ActsOn s s t := .of_trains rfl

theorem ActsOn.of_trainsMod {F : TrainRun → TrainRun} (h : u.trains = trainsMod s.trains t F)
    (hF : ∀ r, (F r).report = r.report ∧ (F r).age = r.age) : ActsOn s u t where
  others := othersKept_of_trainsMod h
  report := (congrArg TrainRun.report (run_of_trainsMod h)).trans (hF _).1
  age := (congrArg TrainRun.age (run_of_trainsMod h)).trans (hF _).2

end

section
variable (s : State) (t : TrainId)

theorem actsOn_modRun {F : TrainRun → TrainRun} (hF : ∀ r, (F r).report = r.report ∧ (F r).age = r.age) :
    ActsOn s (s.modRun t F) t := .of_trainsMod rfl hF

theorem actsOn_cancelTimer : ActsOn s (s.cancelTimer t) t :=
  actsOn_modRun s t (F := fun r => { r with timer := none }) fun _ => ⟨rfl, rfl⟩

theorem actsOn_enter (new : TrainState) : ActsOn s (s.enter t new) t :=
  .of_trainsMod (enter_trains s t new) fun r => ⟨by simp, by simp⟩

theorem actsOn_settle : ActsOn s s.settle t := .of_trains (settle_trains s)

theorem actsOn_setEngaged (m : Mode) : ActsOn s (s.setEngaged t m) t :=
  .of_trainsMod (setEngaged_trains s t m) fun _ => ⟨rfl, rfl⟩

theorem actsOn_engagedFrom (rep : LastReport) : ActsOn s (s.engagedFrom t rep) t :=
  .of_trainsMod (engagedFrom_trains s t rep) fun _ => ⟨rfl, rfl⟩

theorem actsOn_seqRaise (f : FaultInfo) : ActsOn s (s.seqRaise t f) t :=
  .of_trainsMod (seqRaise_trains s t f) fun _ => ⟨rfl, rfl⟩

theorem actsOn_placeCommand (k : DriveKind) (v : Int) (ref : Option ItemRef) (hk : k.isQuantity = false) :
    ActsOn s (s.placeCommand t k v ref).1 t := .of_trains (placeCommand_trains s t k v ref hk)

theorem actsOn_beginStop (ref : Option ItemRef) : ActsOn s (s.beginStop t ref).1 t :=
  .of_trainsMod (beginStop_trains s t ref) fun r => ⟨by simp [TrainRun.stopped], by simp [TrainRun.stopped]⟩

theorem rested_report (r : TrainRun) (n : Nat) : (r.rested n).report = r.report ∧ (r.rested n).age = r.age := by
  unfold TrainRun.rested
  split
  · simp
  · split <;> simp

theorem actsOn_enterRest : ActsOn s (s.enterRest t) t :=
  .of_trainsMod (enterRest_trains s t) fun r => rested_report r _

theorem actsOn_takeDown : ActsOn s (s.takeDown t) t :=
  .of_trainsMod (takeDown_trains s t) fun r => ⟨by simp [TrainRun.takenDown], by simp [TrainRun.takenDown]⟩

theorem actsOn_tripByReport (rep : LastReport) : ActsOn s (s.tripByReport t rep) t :=
  .of_trainsMod (tripByReport_trains s t rep) fun r => ⟨by simp [TrainRun.takenDown], by simp [TrainRun.takenDown]⟩

theorem actsOn_tripBySequencer (f : FaultInfo) : ActsOn s (s.tripBySequencer t f) t :=
  .of_trainsMod (tripBySequencer_trains s t f) fun r => ⟨by simp [TrainRun.takenDown], by simp [TrainRun.takenDown]⟩

theorem place_report (r : TrainRun) (k : DriveKind) (v : Int) :
    (r.place k v).report = r.report ∧ (r.place k v).age = r.age := by
  cases k <;> exact ⟨rfl, rfl⟩

theorem actsOn_offer (o : Offer) (ht : o.train = t) (ho : o.origin ≠ .admitted)
    (hr : (s.run o.train).state = .running) : ActsOn s (s.offer o).1 t := by
  subst ht
  have placed : ActsOn s (s.placeOffer o).1 o.train := by
    cases hg : s.gateOpen with
    | false => exact .of_trains (congrArg State.trains (placeOffer_gateClosed s o hg))
    | true => exact .of_trainsMod (placeOffer_trains s o hr hg ho) fun r => place_report r _ _
  unfold State.offer
  dsimp only
  exact placed.trans (actsOn_settle (s.placeOffer o).1 o.train)

end

end Sys2Proof.Machine
end

section
/-! PROOF. What a report makes of a train in each state, R55 to R67. -/

namespace Sys2Proof.Machine

/-! ### RUNNING reached (R56) -/

/-- The running condition of a train that reaches RUNNING, before its initial POWER. -/
def TrainRun.reached (r : TrainRun) : TrainRun := { r.entered .running with timer := none, failures := 0 }

/-- The initial POWER offered for a train that reaches RUNNING. -/
def TrainCfg.initialPower (c : TrainCfg) (m : Mode) : Nat := min c.minStable (c.rated m)

section
variable (s : State) (t : TrainId)

/-- RUNNING entered, before the offer. -/
def State.atRunning (s : State) (t : TrainId) : State :=
  ((s.enter t .running).cancelTimer t).modRun t fun r => { r with failures := 0 }

/-- The offer of the initial POWER. -/
def State.initialOffer (s : State) (t : TrainId) : Offer :=
  { train := t, kind := .power, value := ((s.cfg t).initialPower (s.run t).mode : Nat), origin := .sequencer }

theorem reachRunning_stages : s.reachRunning t = ((s.atRunning t).offer (s.initialOffer t)).1 := rfl

theorem offer_trains_settled (u : State) (o : Offer) : (u.offer o).1.trains = (u.placeOffer o).1.trains := by
  unfold State.offer
  dsimp only
  exact settle_trains _

theorem atRunning_trains : (s.atRunning t).trains = trainsMod s.trains t TrainRun.reached := by
  unfold State.atRunning
  rw [modRun_trains, cancelTimer_frame]
  dsimp only
  rw [enter_trains, trainsMod_trainsMod, trainsMod_trainsMod]
  rfl

theorem atRunning_run : (s.atRunning t).run t = (s.run t).reached := run_of_trainsMod (atRunning_trains s t)

theorem atRunning_gateOpen : (s.atRunning t).gateOpen = s.gateOpen := by
  simp [State.atRunning]

theorem reachRunning_gateOpen (hg : s.gateOpen = true) : (s.reachRunning t).run t =
    { (s.run t).reached with power := (s.cfg t).initialPower (s.run t).mode } := by
  have hplaced : ((s.atRunning t).placeOffer (s.initialOffer t)).1.trains =
      trainsMod (s.atRunning t).trains t fun r => r.place .power ((s.cfg t).initialPower (s.run t).mode : Nat) :=
    placeOffer_trains (s.atRunning t) (s.initialOffer t) (congrArg TrainRun.state (atRunning_run s t))
      ((atRunning_gateOpen s t).trans hg) (by simp [State.initialOffer])
  rw [reachRunning_stages, run_of_trainsMod ((offer_trains_settled _ _).trans hplaced), atRunning_run]
  rfl

theorem reachRunning_gateClosed (hg : s.gateOpen = false) : (s.reachRunning t).run t = (s.run t).reached := by
  rw [reachRunning_stages, run_of_trains (offer_trains_settled _ _),
    placeOffer_gateClosed _ _ ((atRunning_gateOpen s t).trans hg), atRunning_run]

theorem actsOn_reachRunning : ActsOn s (s.reachRunning t) t := by
  rw [reachRunning_stages]
  exact (ActsOn.of_trainsMod (atRunning_trains s t) fun r => ⟨by simp [TrainRun.reached], by simp [TrainRun.reached]⟩).trans
    (actsOn_offer (s.atRunning t) t (s.initialOffer t) rfl (by simp [State.initialOffer])
      (congrArg TrainRun.state (atRunning_run s t)))

end

/-! ### Resynchronisation acts on one train (R69) -/

section
variable (s : State) (t : TrainId) (rep : LastReport)

theorem actsOn_resyncRunning (m : RunMode) : ActsOn s (s.resyncRunning t m rep) t := by
  have hentered := (actsOn_enter s t .running).trans (actsOn_modRun (s.enter t .running) t
    (F := fun r => { r with power := resyncPower rep ((s.cfg t).rated (some m)),
                            reactive := resyncReactive rep (s.cfg t).reactiveLimit, reheat := 0 }) fun _ => ⟨rfl, rfl⟩)
  unfold State.resyncRunning
  dsimp only
  split
  · next u hu =>
    obtain ⟨l, rfl⟩ := grantHeat_frame hu
    exact hentered.trans (.of_trains rfl)
  · exact (hentered.trans (actsOn_beginStop _ t none)).trans (actsOn_seqRaise _ t _)

theorem actsOn_claim {u : State} {m : RunMode} (h : s.claim t m = some u) : ActsOn s u t := by
  by_cases hd : (s.cavern (s.cfg t).cavern).run.direction = none ∨ (s.cavern (s.cfg t).cavern).run.direction = some m
  · obtain ⟨l, hl⟩ := claim_granted s t m hd
    cases h.symm.trans hl
    exact .of_trains rfl
  · obtain ⟨hnone, hother⟩ := not_or.1 hd
    obtain ⟨d, hd⟩ := Option.ne_none_iff_exists'.1 hnone
    rw [claim_refused s t m hd fun e => hother (hd.trans (congrArg some e))] at h
    cases h

/-- The mode of a resynchronisation taken by the train. -/
def State.modeTaken (s : State) (t : TrainId) (used : Mode) : State :=
  (s.modRun t fun r => { r with mode := used }).setEngaged t used

/-- A resynchronisation that ends in a trip. -/
def State.resyncTrip (s : State) (t : TrainId) (used : Mode) (c : Cause) : State :=
  ((s.modeTaken t used).tripBySequencer t ((s.modeTaken t used).tripInfo t noItem c)).settle

theorem actsOn_modeTaken (used : Mode) : ActsOn s (s.modeTaken t used) t :=
  (actsOn_modRun s t (F := fun r => { r with mode := used }) fun _ => ⟨rfl, rfl⟩).trans (actsOn_setEngaged _ t used)

theorem actsOn_resyncTrip (used : Mode) (c : Cause) : ActsOn s (s.resyncTrip t used c) t :=
  ((actsOn_modeTaken s t used).trans (actsOn_tripBySequencer _ t _)).trans (actsOn_settle _ t)

section
variable (running : Bool)

theorem resyncMoving_noMode (h : s.resyncMode t rep = none) :
    s.resyncMoving t rep running = s.resyncTrip t none Cause.resyncConflict := by
  simp [State.resyncMoving, h, State.resyncTrip, State.modeTaken]

theorem resyncMoving_tripLine {m : RunMode} (h : s.resyncMode t rep = some m) (hp : s.ptrip = true) :
    s.resyncMoving t rep running = s.resyncTrip t (some m) Cause.tripLineActive := by
  simp [State.resyncMoving, h, hp, State.resyncTrip, State.modeTaken]

theorem resyncMoving_refused {m : RunMode} (h : s.resyncMode t rep = some m) (hp : s.ptrip = false)
    (hc : (s.modeTaken t (some m)).claim t m = none) :
    s.resyncMoving t rep running = s.resyncTrip t (some m) Cause.resyncConflict := by
  unfold State.modeTaken at hc
  simp [State.resyncMoving, h, hp, hc, State.resyncTrip, State.modeTaken]

theorem resyncMoving_claimed {m : RunMode} {u : State} (h : s.resyncMode t rep = some m) (hp : s.ptrip = false)
    (hc : (s.modeTaken t (some m)).claim t m = some u) :
    s.resyncMoving t rep running = if running then u.resyncRunning t m rep else (u.beginStop t none).1 := by
  unfold State.modeTaken at hc
  simp [State.resyncMoving, h, hp, hc]

theorem actsOn_resyncMoving : ActsOn s (s.resyncMoving t rep running) t := by
  cases hm : s.resyncMode t rep with
  | none => rw [resyncMoving_noMode s t rep running hm]; exact actsOn_resyncTrip s t _ _
  | some m =>
    cases hp : s.ptrip with
    | true => rw [resyncMoving_tripLine s t rep running hm hp]; exact actsOn_resyncTrip s t _ _
    | false =>
      cases hc : (s.modeTaken t (some m)).claim t m with
      | none => rw [resyncMoving_refused s t rep running hm hp hc]; exact actsOn_resyncTrip s t _ _
      | some u =>
        have hclaimed := (actsOn_modeTaken s t (some m)).trans (actsOn_claim _ t hc)
        rw [resyncMoving_claimed s t rep running hm hp hc]
        split
        · exact hclaimed.trans (actsOn_resyncRunning u t rep m)
        · exact hclaimed.trans (actsOn_beginStop u t none)

end

theorem actsOn_resync : ActsOn s (s.resync t rep) t := by
  unfold State.resync
  split
  · exact .refl
  · exact (actsOn_engagedFrom s t rep).trans (actsOn_enterRest _ t)
  · exact ((actsOn_engagedFrom s t rep).trans (actsOn_takeDown _ t)).trans (actsOn_settle _ t)
  all_goals exact actsOn_resyncMoving s t rep _

end

/-! ### A report acts on one train (R67) -/

section
variable (s : State) (t : TrainId) (rep : LastReport)

/-- A report in ENGAGING that shows the mode engaged. -/
def State.engagedStart (s : State) (t : TrainId) (m : RunMode) : State :=
  ((((s.setEngaged t (some m)).enter t .starting).startTimer t .start (s.cfg t).startTimeout).placeCommand t
    .start m.value none).1.settle

theorem engagedStart_trains (m : RunMode) : (s.engagedStart t m).trains = trainsMod s.trains t fun r =>
    { (r.engagedAs (s.cfg t).kind (some (some m))).entered .starting with
      timer := some (.start, seconds (s.cfg t).startTimeout) } := by
  unfold State.engagedStart
  rw [settle_trains, placeCommand_trains _ _ _ _ _ rfl, startTimer_frame]
  dsimp only
  rw [enter_trains, setEngaged_trains, trainsMod_trainsMod, trainsMod_trainsMod]

theorem actsOn_engagedStart (m : RunMode) : ActsOn s (s.engagedStart t m) t :=
  .of_trainsMod (engagedStart_trains s t m) fun r => ⟨by simp [TrainRun.engagedAs], by simp [TrainRun.engagedAs]⟩

theorem reportEngaging_waits (hr : rep.runState = none ∨ rep.runState = some .standstill ∨ rep.runState = some .engaging) :
    s.reportEngaging t rep = s ∨ ∃ m, (s.run t).mode = some m ∧ rep.mode = some (some m) ∧
      s.reportEngaging t rep = s.engagedStart t m := by
  cases hm : (s.run t).mode with
  | none => rcases hr with hr | hr | hr <;> exact .inl (by simp [State.reportEngaging, hr, hm])
  | some m =>
    by_cases h : rep.mode = some (some m)
    · refine .inr ⟨m, rfl, h, ?_⟩
      rcases hr with hr | hr | hr <;> simp [State.reportEngaging, hr, hm, h, State.engagedStart]
    · rcases hr with hr | hr | hr <;> exact .inl (by simp [State.reportEngaging, hr, hm, h])

theorem reportEngaging_moved
    (hr : rep.runState = some .starting ∨ rep.runState = some .synchronised ∨ rep.runState = some .stopping) :
    s.reportEngaging t rep = ((s.engagedFrom t rep).beginStop t none).1.unexpected t := by
  rcases hr with hr | hr | hr <;> simp [State.reportEngaging, hr]

theorem reportEngaging_tripped (hr : rep.runState = some .tripped) :
    s.reportEngaging t rep = (s.engagedFrom t rep).tripByReport t rep := by
  simp [State.reportEngaging, hr]

/-- The run states of a report, as R55 groups them. -/
theorem runState_cases (o : Option ReportedState) : (o = none ∨ o = some .standstill ∨ o = some .engaging) ∨
    (o = some .starting ∨ o = some .synchronised ∨ o = some .stopping) ∨ o = some .tripped := by
  rcases o with _ | _ | _ | _ | _ | _ | _ <;> simp

theorem actsOn_reportEngaging : ActsOn s (s.reportEngaging t rep) t := by
  rcases runState_cases rep.runState with hr | hr | hr
  · rcases reportEngaging_waits s t rep hr with h | ⟨m, -, -, h⟩
    · rw [h]; exact .refl
    · rw [h]; exact actsOn_engagedStart s t m
  · rw [reportEngaging_moved s t rep hr]
    exact ((actsOn_engagedFrom s t rep).trans (actsOn_beginStop _ t none)).trans (actsOn_seqRaise _ t _)
  · rw [reportEngaging_tripped s t rep hr]
    exact (actsOn_engagedFrom s t rep).trans (actsOn_tripByReport _ t rep)

theorem actsOn_reportStarting : ActsOn s (s.reportStarting t rep) t := by
  unfold State.reportStarting
  split
  · exact actsOn_reachRunning s t
  · exact (actsOn_beginStop s t none).trans (actsOn_seqRaise _ t _)
  · exact actsOn_tripByReport s t rep
  all_goals exact .refl

/-- STOPPING entered from RUNNING on a report, without a command (R67). -/
theorem foundStopping_trains :
    ((s.enter t .stopping).startTimer t .stop (s.cfg t).stopTimeout).settle.trains =
      trainsMod s.trains t fun r => r.stopped (s.cfg t).stopTimeout := by
  rw [settle_trains, startTimer_frame]
  dsimp only
  rw [enter_trains, trainsMod_trainsMod]
  rfl

theorem actsOn_reportRunning : ActsOn s (s.reportRunning t rep) t := by
  unfold State.reportRunning
  split
  · exact ((actsOn_enterRest s t).trans (actsOn_settle _ t)).trans (actsOn_seqRaise _ t _)
  · exact (ActsOn.of_trainsMod (foundStopping_trains s t) fun r =>
      ⟨by simp [TrainRun.stopped], by simp [TrainRun.stopped]⟩).trans (actsOn_seqRaise _ t _)
  · exact actsOn_tripByReport s t rep
  all_goals exact .refl

theorem actsOn_reportStopping : ActsOn s (s.reportStopping t rep) t := by
  unfold State.reportStopping
  split
  · exact ((actsOn_cancelTimer s t).trans (actsOn_engagedFrom _ t rep)).trans (actsOn_enterRest _ t)
  · exact (actsOn_engagedFrom s t rep).trans (actsOn_tripByReport _ t rep)
  all_goals exact .refl

theorem actsOn_reportTripped : ActsOn s (s.reportTripped t rep) t := by
  unfold State.reportTripped
  split
  · exact (actsOn_modRun s t (F := fun r => { r with reset := false }) fun _ => ⟨rfl, rfl⟩).trans (actsOn_enterRest _ t)
  · exact .refl

theorem actsOn_reportStandstill : ActsOn s (s.reportStandstill t rep) t := by
  unfold State.reportStandstill
  split
  · exact .refl
  · exact .refl
  · exact actsOn_tripByReport s t rep
  all_goals exact (actsOn_seqRaise s t _).trans (actsOn_resync _ t rep)

theorem actsOn_reportLocked : ActsOn s (s.reportLocked t rep) t := by
  unfold State.reportLocked
  split
  · exact .refl
  · exact .refl
  · exact actsOn_tripByReport s t rep
  all_goals exact (actsOn_tripBySequencer s t _).trans (actsOn_settle _ t)

theorem actsOn_actOnReport : ActsOn s (s.actOnReport t rep) t := by
  unfold State.actOnReport
  split
  · exact actsOn_resync s t rep
  · exact actsOn_reportStandstill s t rep
  · exact actsOn_reportEngaging s t rep
  · exact actsOn_reportStarting s t rep
  · exact actsOn_reportRunning s t rep
  · exact actsOn_reportStopping s t rep
  · exact actsOn_reportTripped s t rep
  · exact actsOn_reportLocked s t rep

/-- A report read for a train leaves the others, and is the train's last report (R66). -/
theorem readReport_acts : othersKept s (s.readReport rep t) t ∧ ((s.readReport rep t).run t).age = some 0 ∧
    ((s.readReport rep t).run t).report = (s.run t).report.laidOver rep := by
  have hacts := (actsOn_actOnReport (s.recordReport t rep) t rep).trans
    (w := s.readReport rep t) (.of_trains (consume_trains _ t rep))
  refine ⟨?_, ?_, ?_⟩
  · have hrecord : othersKept s (s.recordReport t rep) t := othersKept_of_trainsMod (recordReport_trains s t rep)
    exact ⟨fun v => (hacts.others.1 v).trans (hrecord.1 v), fun v hv => (hacts.others.2 v hv).trans (hrecord.2 v hv)⟩
  · rw [hacts.age, recordReport_run]; rfl
  · rw [hacts.report, recordReport_run]; rfl

end

end Sys2Proof.Machine
end

section
/-! PROOF. The reports that do not resynchronise, clause by clause of O28. -/

namespace Sys2Proof.Machine

/-! ### Running conditions at rest -/

section
variable (r : TrainRun) (n : Nat)

theorem rested_cases : (r.failures < n ∧ r.lock = false ∧ r.rested n = r.entered .standstill) ∨
    ((n ≤ r.failures ∨ r.lock = true) ∧ ∃ c, r.rested n = { r.entered .locked with lock := true, lastCause := c }) := by
  unfold TrainRun.rested
  by_cases hn : n ≤ r.failures
  · rw [if_pos hn]
    exact .inr ⟨.inl hn, _, rfl⟩
  · rw [if_neg hn]
    by_cases hl : r.lock = true
    · rw [if_pos hl]
      refine .inr ⟨.inr hl, r.lastCause, ?_⟩
      obtain ⟨_, _, _, e⟩ := entered_cases r .locked
      rw [e, ← hl]
    · rw [if_neg hl]
      exact .inl ⟨Nat.lt_of_not_le hn, by simpa using hl, rfl⟩

theorem rested_standstill (hn : r.failures < n) (hl : r.lock = false) : (r.rested n).state = .standstill := by
  rcases rested_cases r n with ⟨-, -, e⟩ | ⟨h, -⟩
  · rw [e]; rfl
  · rcases h with h | h
    · omega
    · rw [hl] at h; cases h

theorem rested_locked (h : n ≤ r.failures ∨ r.lock = true) : (r.rested n).state = .locked ∧ (r.rested n).lock = true := by
  rcases rested_cases r n with ⟨hn, hl, -⟩ | ⟨-, c, e⟩
  · rcases h with h | h
    · omega
    · rw [hl] at h; cases h
  · rw [e]; exact ⟨rfl, rfl⟩

@[simp] theorem rested_mode : (r.rested n).mode = none := by
  rcases rested_cases r n with ⟨-, -, e⟩ | ⟨-, _, e⟩ <;> rw [e] <;> rfl
@[simp] theorem rested_engaged : (r.rested n).engaged = r.engaged := by
  rcases rested_cases r n with ⟨-, -, e⟩ | ⟨-, _, e⟩ <;> simp [e]
@[simp] theorem rested_timer : (r.rested n).timer = r.timer := by
  rcases rested_cases r n with ⟨-, -, e⟩ | ⟨-, _, e⟩ <;> simp [e]
@[simp] theorem rested_reset : (r.rested n).reset = r.reset := by
  rcases rested_cases r n with ⟨-, -, e⟩ | ⟨-, _, e⟩ <;> simp [e]
@[simp] theorem rested_failures : (r.rested n).failures = r.failures := by
  rcases rested_cases r n with ⟨-, -, e⟩ | ⟨-, _, e⟩ <;> simp [e]

theorem rested_not_running : (r.rested n).state ≠ .running := by
  rcases rested_cases r n with ⟨-, -, e⟩ | ⟨-, _, e⟩ <;> rw [e] <;> simp

theorem rested_setValues (h : r.state = .running) :
    (r.rested n).power = 0 ∧ (r.rested n).reactive = 0 ∧ (r.rested n).reheat = 0 := by
  rcases rested_cases r n with ⟨-, -, e⟩ | ⟨-, _, e⟩ <;> rw [e]
  · exact entered_setValues r .standstill h (by simp)
  · exact entered_setValues r .locked h (by simp)

end

theorem cancelTimer_run (s : State) (t : TrainId) : (s.cancelTimer t).run t = { s.run t with timer := none } :=
  run_of_trainsMod (F := fun r => { r with timer := none }) rfl

theorem cancelTimer_part (s : State) (t : TrainId) : (s.cancelTimer t).part = s.part := rfl

/-! ### Running conditions recorded (R66) -/

section
variable (r : TrainRun) (k : TrainKind) (rep : LastReport)

theorem recorded_moving (h : ¬ (r.state = .standstill ∨ r.state = .locked ∨ r.state = .tripped)) :
    r.recorded k rep = { r with report := r.report.laidOver rep, age := some 0 } := by
  simp only [TrainRun.recorded, h, false_and, if_false]

theorem recorded_resting (h : r.state = .standstill ∨ r.state = .locked ∨ r.state = .tripped) :
    r.recorded k rep = { r with report := r.report.laidOver rep, age := some 0
                                engaged := if k = .reversible then rep.mode.getD r.engaged else r.engaged } := by
  simp only [TrainRun.recorded, h, true_and]

theorem takenDown_power (h : r.state = .running) : r.takenDown.power = 0 :=
  (entered_setValues r .tripped h (by simp)).1

end

/-! ### The arm of each state -/

section
variable {s : State} {t : TrainId} (rep : LastReport)

/-- The state when a recorded report is acted on. -/
def State.toldReport (s : State) (t : TrainId) (rep : LastReport) : State :=
  (s.recordReport t rep).actOnReport t rep

theorem readReport_run : (s.readReport rep t).run t = (s.toldReport t rep).run t := consume_run _ _ _ _

theorem toldReport_state : ((s.recordReport t rep).run t).state = (s.run t).state := by
  rw [recordReport_run]
  rfl

theorem readReport_of_not_running (h : ((s.toldReport t rep).run t).state ≠ .running) :
    s.readReport rep t = s.toldReport t rep := consume_of_not_running _ t rep h

theorem told_engaging (h : (s.run t).state = .engaging) :
    s.toldReport t rep = (s.recordReport t rep).reportEngaging t rep := by
  simp only [State.toldReport, State.actOnReport, toldReport_state, h]
theorem told_starting (h : (s.run t).state = .starting) :
    s.toldReport t rep = (s.recordReport t rep).reportStarting t rep := by
  simp only [State.toldReport, State.actOnReport, toldReport_state, h]
theorem told_running (h : (s.run t).state = .running) :
    s.toldReport t rep = (s.recordReport t rep).reportRunning t rep := by
  simp only [State.toldReport, State.actOnReport, toldReport_state, h]
theorem told_stopping (h : (s.run t).state = .stopping) :
    s.toldReport t rep = (s.recordReport t rep).reportStopping t rep := by
  simp only [State.toldReport, State.actOnReport, toldReport_state, h]
theorem told_tripped (h : (s.run t).state = .tripped) :
    s.toldReport t rep = (s.recordReport t rep).reportTripped t rep := by
  simp only [State.toldReport, State.actOnReport, toldReport_state, h]
theorem told_locked (h : (s.run t).state = .locked) :
    s.toldReport t rep = (s.recordReport t rep).reportLocked t rep := by
  simp only [State.toldReport, State.actOnReport, toldReport_state, h]
theorem told_standstill (h : (s.run t).state = .standstill) :
    s.toldReport t rep = (s.recordReport t rep).reportStandstill t rep := by
  simp only [State.toldReport, State.actOnReport, toldReport_state, h]
theorem told_unknown (h : (s.run t).state = .unknown) :
    s.toldReport t rep = (s.recordReport t rep).resync t rep := by
  simp only [State.toldReport, State.actOnReport, toldReport_state, h]

/-! ### ENGAGING (R55) -/

/-- A report whose run state is absent, STANDSTILL or ENGAGING. -/
def LastReport.waits (rep : LastReport) : Prop :=
  rep.runState = none ∨ rep.runState = some .standstill ∨ rep.runState = some .engaging

variable {rep}

theorem engaging_shows_mode (hst : (s.run t).state = .engaging) {m : RunMode} (hm : (s.run t).mode = some m)
    (hrep : rep.mode = some (some m)) (hr : rep.waits) :
    ((s.readReport rep t).run t).state = .starting ∧
      ((s.readReport rep t).run t).timer = some (.start, (s.cfg t).startTimeout * 1000) ∧
      ((s.readReport rep t).run t).mode = some m ∧ ((s.readReport rep t).run t).failures = (s.run t).failures ∧
      ((s.cfg t).kind = .reversible → ((s.readReport rep t).run t).engaged = some m) := by
  have hmode : ((s.recordReport t rep).run t).mode = some m := by rw [recordReport_run]; exact hm
  have hstarted : (s.recordReport t rep).reportEngaging t rep = (s.recordReport t rep).engagedStart t m := by
    rcases hr with hr | hr | hr <;> simp only [State.reportEngaging, hr, hmode, hrep, if_true, State.engagedStart]
  rw [readReport_run, told_engaging rep hst, hstarted, run_of_trainsMod (engagedStart_trains _ t m), recordReport_run,
    recordReport_cfg]
  refine ⟨rfl, rfl, hm, ?_, fun hk => ?_⟩
  · simp [TrainRun.engagedAs, TrainRun.recorded]
  · simp [TrainRun.engagedAs, hk]

theorem engaging_other_mode (hst : (s.run t).state = .engaging) (hm : rep.mode ≠ some (s.run t).mode) (hr : rep.waits) :
    ((s.readReport rep t).run t).state = .engaging ∧ ((s.readReport rep t).run t).timer = (s.run t).timer := by
  have hstays : (s.recordReport t rep).reportEngaging t rep = s.recordReport t rep := by
    rcases reportEngaging_waits (s.recordReport t rep) t rep hr with h | ⟨m, hmode, hrep, -⟩
    · exact h
    · rw [recordReport_run] at hmode
      exact absurd (hrep.trans (congrArg some hmode.symm)) hm
  rw [readReport_run, told_engaging rep hst, hstays, recordReport_run]
  exact ⟨hst, rfl⟩

theorem engaging_moves (hst : (s.run t).state = .engaging)
    (hr : rep.runState = some .starting ∨ rep.runState = some .synchronised ∨ rep.runState = some .stopping) :
    ((s.readReport rep t).run t).state = .stopping ∧
      ((s.readReport rep t).run t).timer = some (.stop, (s.cfg t).stopTimeout * 1000) ∧
      ((s.readReport rep t).run t).lastCause = some Cause.unexpectedReport ∧
      ((s.cfg t).kind = .reversible → ((s.readReport rep t).run t).engaged = rep.mode.getD (s.run t).engaged) := by
  rw [readReport_run, told_engaging rep hst, reportEngaging_moved _ t rep hr, State.unexpected,
    run_of_trainsMod (seqRaise_trains _ t _), run_of_trainsMod (beginStop_trains _ t _), engagedFrom_run,
    recordReport_run, engagedFrom_cfg, recordReport_cfg, recorded_moving _ _ _ (by simp [hst])]
  refine ⟨rfl, rfl, rfl, fun hk => ?_⟩
  simp [TrainRun.stopped, TrainRun.engagedAs, hk]

/-! ### A tripped report (R61) -/

/-- What a tripped report makes of a train's running condition. -/
theorem tripped_run (u : State) (r : TrainRun) (hu : u.run t = r) :
    ((u.tripByReport t rep).run t).state = .tripped ∧ ((u.tripByReport t rep).run t).mode = none ∧
      ((u.tripByReport t rep).run t).timer = none ∧ ((u.tripByReport t rep).run t).lastCause = some Cause.trip ∧
      ((u.tripByReport t rep).run t).engaged = r.engaged ∧ ((u.tripByReport t rep).run t).lock = r.lock := by
  rw [run_of_trainsMod (tripByReport_trains u t rep), hu]
  simp [TrainRun.takenDown, TrainState.noRunMode]

theorem moving_tripped (hst : (s.run t).state = .engaging ∨ (s.run t).state = .stopping)
    (hr : rep.runState = some .tripped) :
    ((s.readReport rep t).run t).state = .tripped ∧ ((s.readReport rep t).run t).mode = none ∧
      ((s.readReport rep t).run t).timer = none ∧ ((s.readReport rep t).run t).lastCause = some Cause.trip ∧
      ((s.cfg t).kind = .reversible → ((s.readReport rep t).run t).engaged = rep.mode.getD (s.run t).engaged) := by
  have hacted : s.toldReport t rep = ((s.recordReport t rep).engagedFrom t rep).tripByReport t rep := by
    rcases hst with hst | hst
    · rw [told_engaging rep hst, reportEngaging_tripped _ t rep hr]
    · simp only [told_stopping rep hst, State.reportStopping, hr]
  have hmoving : ¬ ((s.run t).state = .standstill ∨ (s.run t).state = .locked ∨ (s.run t).state = .tripped) := by
    rcases hst with hst | hst <;> simp [hst]
  rw [readReport_run, hacted]
  obtain ⟨hstate, hmode, htimer, hcause, hengaged, -⟩ :=
    tripped_run (rep := rep) ((s.recordReport t rep).engagedFrom t rep) _ (engagedFrom_run _ t rep)
  refine ⟨hstate, hmode, htimer, hcause, fun hk => ?_⟩
  rw [hengaged, recordReport_run, recordReport_cfg, recorded_moving _ _ _ hmoving]
  simp [TrainRun.engagedAs, hk]

theorem starting_tripped (hst : (s.run t).state = .starting) (hr : rep.runState = some .tripped) :
    ((s.readReport rep t).run t).state = .tripped ∧ ((s.readReport rep t).run t).mode = none ∧
      ((s.readReport rep t).run t).timer = none ∧ ((s.readReport rep t).run t).lastCause = some Cause.trip ∧
      ((s.readReport rep t).run t).engaged = (s.run t).engaged := by
  have hacted : s.toldReport t rep = (s.recordReport t rep).tripByReport t rep := by
    simp only [told_starting rep hst, State.reportStarting, hr]
  rw [readReport_run, hacted]
  obtain ⟨hstate, hmode, htimer, hcause, hengaged, -⟩ :=
    tripped_run (rep := rep) (s.recordReport t rep) _ (recordReport_run s t rep)
  refine ⟨hstate, hmode, htimer, hcause, ?_⟩
  rw [hengaged, recorded_moving _ _ _ (by simp [hst])]

theorem resting_tripped (hst : (s.run t).state = .standstill ∨ (s.run t).state = .locked)
    (hr : rep.runState = some .tripped) :
    ((s.readReport rep t).run t).state = .tripped ∧ ((s.readReport rep t).run t).mode = none ∧
      ((s.readReport rep t).run t).lastCause = some Cause.trip ∧
      ((s.readReport rep t).run t).engaged =
        (if (s.cfg t).kind = .reversible then rep.mode.getD (s.run t).engaged else (s.run t).engaged) ∧
      ((s.readReport rep t).run t).lock = (s.run t).lock := by
  have hacted : s.toldReport t rep = (s.recordReport t rep).tripByReport t rep := by
    rcases hst with hst | hst
    · simp only [told_standstill rep hst, State.reportStandstill, hr]
    · simp only [told_locked rep hst, State.reportLocked, hr]
  rw [readReport_run, hacted]
  obtain ⟨hstate, hmode, -, hcause, hengaged, hlock⟩ :=
    tripped_run (rep := rep) (s.recordReport t rep) _ (recordReport_run s t rep)
  refine ⟨hstate, hmode, hcause, ?_, hlock⟩
  rw [hengaged, recorded_resting _ _ _ (by rcases hst with hst | hst <;> simp [hst])]

theorem running_tripped (hst : (s.run t).state = .running) (hr : rep.runState = some .tripped)
    (hq : s.queue.holdsCommands) :
    ((s.readReport rep t).run t).state = .tripped ∧ ((s.readReport rep t).run t).timer = none ∧
      ((s.readReport rep t).run t).mode = none ∧ ((s.readReport rep t).run t).power = 0 ∧
      ((s.readReport rep t).run t).lastCause = some Cause.trip ∧ (s.readReport rep t).queue.entriesOf t = [] ∧
      ∀ r ∈ (s.readReport rep t).reservations, r.train ≠ t := by
  have hacted : s.toldReport t rep = (s.recordReport t rep).tripByReport t rep := by
    simp only [told_running rep hst, State.reportRunning, hr]
  obtain ⟨hstate, hmode, htimer, hcause, -, -⟩ :=
    tripped_run (rep := rep) (s.recordReport t rep) _ (recordReport_run s t rep)
  rw [readReport_of_not_running rep (by rw [hacted, hstate]; simp), hacted]
  refine ⟨hstate, htimer, hmode, ?_, hcause, ?_, ?_⟩
  · rw [run_of_trainsMod (tripByReport_trains _ t rep), recordReport_run]
    exact takenDown_power _ hst
  · exact (tripByReport_clearOf _ t rep (by rw [recordReport_queue]; exact hq)).entries
  · rw [tripByReport_reservations, toldReport_state, hst]
    exact not_mem_released _ t

/-! ### STARTING (R56) -/

theorem starting_synchronised (hst : (s.run t).state = .starting) (hr : rep.runState = some .synchronised) :
    ((s.readReport rep t).run t).state = .running ∧ ((s.readReport rep t).run t).timer = none ∧
      ((s.readReport rep t).run t).failures = 0 ∧
      (s.gateOpen = true →
        ((s.readReport rep t).run t).power = min (s.cfg t).minStable ((s.cfg t).rated (s.run t).mode)) ∧
      (s.gateOpen = false → ((s.readReport rep t).run t).power = (s.run t).power) := by
  have hacted : s.toldReport t rep = (s.recordReport t rep).reachRunning t := by
    simp only [told_starting rep hst, State.reportStarting, hr]
  have hrecorded := recorded_moving (s.run t) (s.cfg t).kind rep (by simp [hst])
  rw [readReport_run, hacted]
  cases hg : s.gateOpen with
  | true =>
    rw [reachRunning_gateOpen _ t (by rw [recordReport_gateOpen]; exact hg), recordReport_run, recordReport_cfg, hrecorded]
    exact ⟨rfl, rfl, rfl, fun _ => rfl, fun h => nomatch h⟩
  | false =>
    rw [reachRunning_gateClosed _ t (by rw [recordReport_gateOpen]; exact hg), recordReport_run, hrecorded]
    refine ⟨rfl, rfl, rfl, fun h => (nomatch h), fun _ => ?_⟩
    exact entered_power _ _ (by simp [hst])

theorem starting_waits (hst : (s.run t).state = .starting)
    (hr : rep.runState = none ∨ rep.runState = some .standstill ∨ rep.runState = some .engaging ∨
      rep.runState = some .starting) :
    (s.readReport rep t).run t = { s.run t with age := some 0, report := (s.run t).report.laidOver rep } := by
  have hacted : s.toldReport t rep = s.recordReport t rep := by
    rcases hr with hr | hr | hr | hr <;> simp only [told_starting rep hst, State.reportStarting, hr]
  rw [readReport_run, hacted, recordReport_run, recorded_moving _ _ _ (by simp [hst])]

/-! ### STOPPING (R59) -/

theorem stopping_standstill (hst : (s.run t).state = .stopping) (hr : rep.runState = some .standstill) :
    ((s.readReport rep t).run t).timer = none ∧ ((s.readReport rep t).run t).mode = none ∧
      ((s.run t).failures < s.part.failureLimit → (s.run t).lock = false →
        ((s.readReport rep t).run t).state = .standstill) ∧
      (s.part.failureLimit ≤ (s.run t).failures ∨ (s.run t).lock = true →
        ((s.readReport rep t).run t).state = .locked ∧ ((s.readReport rep t).run t).lock = true) := by
  have hacted : s.toldReport t rep = (((s.recordReport t rep).cancelTimer t).engagedFrom t rep).enterRest t := by
    simp only [told_stopping rep hst, State.reportStopping, hr]
  rw [readReport_run, hacted, run_of_trainsMod (enterRest_trains _ t), engagedFrom_run, engagedFrom_part, cancelTimer_run,
    cancelTimer_part, recordReport_run, recordReport_part]
  exact ⟨rested_timer _ _, rested_mode _ _, fun hf hl => rested_standstill _ _ hf hl, fun h => rested_locked _ _ h⟩

theorem stopping_waits (hst : (s.run t).state = .stopping) (hr : rep.runState ≠ some .standstill)
    (ht : rep.runState ≠ some .tripped) :
    (s.readReport rep t).run t = { s.run t with age := some 0, report := (s.run t).report.laidOver rep } := by
  have hacted : s.toldReport t rep = s.recordReport t rep := by
    rw [told_stopping rep hst]
    unfold State.reportStopping
    split
    · contradiction
    · contradiction
    all_goals rfl
  rw [readReport_run, hacted, recordReport_run, recorded_moving _ _ _ (by simp [hst])]

/-! ### RUNNING (R67, notes 3 and 4) -/

theorem running_standstill (hst : (s.run t).state = .running) (hr : rep.runState = some .standstill) :
    ((s.readReport rep t).run t).mode = none ∧ ((s.readReport rep t).run t).power = 0 ∧
      ((s.readReport rep t).run t).reactive = 0 ∧ ((s.readReport rep t).run t).reheat = 0 ∧
      ((s.readReport rep t).run t).lastCause = some Cause.unexpectedReport ∧
      (∀ r ∈ (s.readReport rep t).reservations, r.train ≠ t) ∧
      ((s.readReport rep t).cavern (s.cfg t).cavern).run.holders.getLsbD t.val = false ∧
      ((s.run t).failures < s.part.failureLimit → (s.run t).lock = false →
        ((s.readReport rep t).run t).state = .standstill) ∧
      (s.part.failureLimit ≤ (s.run t).failures ∨ (s.run t).lock = true →
        ((s.readReport rep t).run t).state = .locked) := by
  have hacted : s.toldReport t rep = ((s.recordReport t rep).enterRest t).settle.unexpected t := by
    simp only [told_running rep hst, State.reportRunning, hr]
  have hrun : (s.toldReport t rep).run t =
      { ((s.run t).recorded (s.cfg t).kind rep).rested s.part.failureLimit with
        lastCause := some Cause.unexpectedReport } := by
    rw [hacted, State.unexpected, run_of_trainsMod (seqRaise_trains _ t _), settle_run,
      run_of_trainsMod (enterRest_trains _ t), recordReport_run, recordReport_part]
  rw [readReport_of_not_running rep (by rw [hrun]; exact rested_not_running _ _), hrun]
  obtain ⟨hpower, hreactive, hreheat⟩ := rested_setValues ((s.run t).recorded (s.cfg t).kind rep) s.part.failureLimit hst
  refine ⟨rested_mode _ _, hpower, hreactive, hreheat, rfl, ?_, ?_,
    fun hf hl => rested_standstill ((s.run t).recorded (s.cfg t).kind rep) _ hf hl,
    fun h => (rested_locked ((s.run t).recorded (s.cfg t).kind rep) _ h).1⟩
  · rw [hacted, State.unexpected, seqRaise_reservations, settle_reservations, enterRest_reservations, toldReport_state, hst]
    exact not_mem_released _ t
  · rw [hacted, State.unexpected, cavern_of_caverns (seqRaise_caverns _ t _), settle_cavern,
      State.cavern, enterRest_caverns, toldReport_state, hst, recordReport_cfg]
    exact unclaimed_holders _ _ t

theorem foundMoving_stopping
    (hst : (s.run t).state = .running ∨ (s.run t).state = .starting) (hr : rep.runState = some .stopping) :
    ((s.readReport rep t).run t).state = .stopping ∧
      ((s.readReport rep t).run t).timer = some (.stop, (s.cfg t).stopTimeout * 1000) ∧
      ((s.readReport rep t).run t).mode = (s.run t).mode ∧
      ((s.readReport rep t).run t).lastCause = some Cause.unexpectedReport ∧
      (s.readReport rep t).caverns = s.caverns ∧ (∀ r ∈ (s.readReport rep t).reservations, r.train ≠ t) ∧
      ((s.run t).state = .running → ((s.readReport rep t).run t).power = 0) := by
  obtain ⟨u, hacted, htrains, hcaverns, hreservations⟩ : ∃ u : State, s.toldReport t rep = u.unexpected t ∧
      u.trains = trainsMod (s.recordReport t rep).trains t (fun r => r.stopped ((s.recordReport t rep).cfg t).stopTimeout) ∧
      u.caverns = s.caverns ∧ ∀ r ∈ u.reservations, r.train ≠ t := by
    rcases hst with hst | hst
    · refine ⟨(((s.recordReport t rep).enter t .stopping).startTimer t .stop
        ((s.recordReport t rep).cfg t).stopTimeout).settle, ?_, foundStopping_trains _ t, ?_, ?_⟩
      · simp only [told_running rep hst, State.reportRunning, hr]
      · rw [settle_caverns, startTimer_frame]
        dsimp only
        rw [enter_caverns, if_neg (by simp), recordReport_caverns]
      · rw [settle_reservations, startTimer_frame]
        dsimp only
        rw [enter_reservations, toldReport_state, hst]
        exact not_mem_released _ t
    · refine ⟨((s.recordReport t rep).beginStop t none).1, ?_, beginStop_trains _ t _, ?_, ?_⟩
      · simp only [told_starting rep hst, State.reportStarting, hr]
      · rw [beginStop_caverns, recordReport_caverns]
      · rw [beginStop_reservations, toldReport_state, hst]
        exact not_mem_released _ t
  have hrun : (s.toldReport t rep).run t =
      { ((s.run t).recorded (s.cfg t).kind rep).stopped (s.cfg t).stopTimeout with
        lastCause := some Cause.unexpectedReport } := by
    rw [hacted, State.unexpected, run_of_trainsMod (seqRaise_trains _ t _), run_of_trainsMod htrains, recordReport_run,
      recordReport_cfg]
  rw [readReport_of_not_running rep (by rw [hrun]; simp [TrainRun.stopped]), hrun]
  refine ⟨rfl, rfl, rfl, rfl, ?_, ?_, fun h => ?_⟩
  · rw [hacted, State.unexpected, seqRaise_caverns, hcaverns]
  · rw [hacted, State.unexpected, seqRaise_reservations]
    exact hreservations
  · exact (entered_setValues ((s.run t).recorded (s.cfg t).kind rep) .stopping h (by simp)).1

theorem running_waits (hst : (s.run t).state = .running) (hr : rep.runState ≠ some .standstill)
    (hs : rep.runState ≠ some .stopping) (ht : rep.runState ≠ some .tripped) :
    (s.readReport rep t).run t = { s.run t with age := some 0, report := (s.run t).report.laidOver rep } := by
  have hacted : s.toldReport t rep = s.recordReport t rep := by
    rw [told_running rep hst]
    unfold State.reportRunning
    split
    · contradiction
    · contradiction
    · contradiction
    all_goals rfl
  rw [readReport_run, hacted, recordReport_run, recorded_moving _ _ _ (by simp [hst])]

/-! ### LOCKED and TRIPPED (R64, R67, notes 2 and 5) -/

/-- The engaged mode a train at rest has after a report (R66). -/
def State.takenMode (s : State) (t : TrainId) (rep : LastReport) : Mode :=
  if (s.cfg t).kind = .reversible then rep.mode.getD (s.run t).engaged else (s.run t).engaged

theorem locked_rests (hst : (s.run t).state = .locked) (hr : rep.runState = none ∨ rep.runState = some .standstill) :
    (s.readReport rep t).run t = { s.run t with
      age := some 0, report := (s.run t).report.laidOver rep, engaged := s.takenMode t rep } := by
  have hacted : s.toldReport t rep = s.recordReport t rep := by
    rcases hr with hr | hr <;> simp only [told_locked rep hst, State.reportLocked, hr]
  rw [readReport_run, hacted, recordReport_run, recorded_resting _ _ _ (by simp [hst])]
  rfl

theorem locked_moves (hst : (s.run t).state = .locked) (hn : rep.runState ≠ none) (hs : rep.runState ≠ some .standstill)
    (ht : rep.runState ≠ some .tripped) :
    ((s.readReport rep t).run t).state = .tripped ∧
      ((s.readReport rep t).run t).lastCause = some Cause.unexpectedReport ∧
      ((s.readReport rep t).run t).engaged = s.takenMode t rep ∧
      ((s.readReport rep t).run t).lock = (s.run t).lock := by
  have hacted : s.toldReport t rep =
      ((s.recordReport t rep).tripBySequencer t { cause := Cause.unexpectedReport }).settle := by
    rw [told_locked rep hst]
    unfold State.reportLocked
    split
    · contradiction
    · contradiction
    · contradiction
    all_goals rfl
  rw [readReport_run, hacted, settle_run, run_of_trainsMod (tripBySequencer_trains _ t _), recordReport_run,
    recorded_resting _ _ _ (by simp [hst])]
  simp [TrainRun.takenDown, State.takenMode]

theorem tripped_reset (hst : (s.run t).state = .tripped) (hr : rep.runState = some .standstill)
    (hreset : (s.run t).reset = true) :
    ((s.readReport rep t).run t).reset = false ∧ ((s.readReport rep t).run t).mode = none ∧
      ((s.readReport rep t).run t).engaged = s.takenMode t rep ∧
      ((s.readReport rep t).run t).failures = (s.run t).failures ∧
      ((s.run t).failures < s.part.failureLimit → (s.run t).lock = false →
        ((s.readReport rep t).run t).state = .standstill) ∧
      (s.part.failureLimit ≤ (s.run t).failures ∨ (s.run t).lock = true →
        ((s.readReport rep t).run t).state = .locked) := by
  have hacted : s.toldReport t rep =
      ((s.recordReport t rep).modRun t fun r => { r with reset := false }).enterRest t := by
    rw [told_tripped rep hst, State.reportTripped, recordReport_run, if_pos ⟨hr, hreset⟩]
  rw [readReport_run, hacted, run_of_trainsMod (enterRest_trains _ t), run_of_trainsMod (modRun_trains _ t _),
    recordReport_run, State.modRun_part, recordReport_part]
  obtain ⟨r, hr⟩ : ∃ r, r = { (s.run t).recorded (s.cfg t).kind rep with reset := false } := ⟨_, rfl⟩
  have hengaged : r.engaged = s.takenMode t rep := by
    rw [hr, recorded_resting _ _ _ (by simp [hst])]
    rfl
  have hfailures : r.failures = (s.run t).failures := by rw [hr]; rfl
  have hlock : r.lock = (s.run t).lock := by rw [hr]; rfl
  have hunset : r.reset = false := by rw [hr]
  rw [← hr, ← hfailures, ← hlock, ← hengaged, rested_reset, rested_mode, rested_engaged, rested_failures]
  exact ⟨hunset, rfl, rfl, rfl, rested_standstill r _, fun h => (rested_locked r _ h).1⟩

theorem tripped_stays (hst : (s.run t).state = .tripped)
    (h : rep.runState ≠ some .standstill ∨ (s.run t).reset = false) :
    (s.readReport rep t).run t = { s.run t with
      age := some 0, report := (s.run t).report.laidOver rep, engaged := s.takenMode t rep } := by
  have hacted : s.toldReport t rep = s.recordReport t rep := by
    rw [told_tripped rep hst, State.reportTripped, recordReport_run, if_neg]
    rintro ⟨hr, hreset⟩
    rcases h with h | h
    · exact h hr
    · exact Bool.false_ne_true (h.symm.trans hreset)
  rw [readReport_run, hacted, recordReport_run, recorded_resting _ _ _ (by simp [hst])]
  rfl

end

end Sys2Proof.Machine
end

section
/-! PROOF. The reports that resynchronise a train, R69. -/

namespace Sys2Proof.Machine

/-! ### A recorded fault survives the next one (R170) -/

theorem add_ring (l : FaultLog) (r : FaultRecord) : ∃ x, (l.add r).ring = x ++ [r] := by
  unfold FaultLog.add
  split <;> exact ⟨_, rfl⟩

theorem mem_add_add (l : FaultLog) (r r' : FaultRecord) : r ∈ ((l.add r).add r').ring := by
  obtain ⟨x, hx⟩ := add_ring l r
  unfold FaultLog.add at hx ⊢
  generalize (if l.ring.length < ringDepth then _ else _ : FaultLog) = k at hx ⊢
  split
  · simp [hx]
  · next hfull =>
    rw [hx] at hfull ⊢
    cases x with
    | nil => simp [ringDepth] at hfull
    | cons y x => simp

/-! ### The mode of a resynchronisation -/

/-- A report of a moving state. -/
def LastReport.moves (rep : LastReport) : Prop :=
  ∃ x ∈ [ReportedState.engaging, .starting, .stopping, .synchronised], rep.runState = some x

/-- The mode a report gives a train that it resynchronises (R69). -/
def State.usedMode (s : State) (t : TrainId) (rep : LastReport) : Mode := (s.recordReport t rep).resyncMode t rep

section
variable (s : State) (t : TrainId) (rep : LastReport)

theorem resyncMode_compressor (h : (s.cfg t).kind = .compressor) : s.resyncMode t rep = some .charge := by
  simp only [State.resyncMode, h]
theorem resyncMode_expander (h : (s.cfg t).kind = .expander) : s.resyncMode t rep = some .generate := by
  simp only [State.resyncMode, h]
theorem resyncMode_reported (h : (s.cfg t).kind = .reversible) {m : RunMode} (hm : rep.mode = some (some m)) :
    s.resyncMode t rep = some m := by
  simp only [State.resyncMode, h, hm]
theorem resyncMode_engaged (h : (s.cfg t).kind = .reversible) (hm : rep.mode = none ∨ rep.mode = some none) :
    s.resyncMode t rep = (s.run t).engaged := by
  rcases hm with hm | hm <;> simp only [State.resyncMode, h, hm]

theorem resyncMode_congr {u : State} (hcfg : u.cfg t = s.cfg t) (hrun : (u.run t).engaged = (s.run t).engaged) :
    u.resyncMode t rep = s.resyncMode t rep := by
  unfold State.resyncMode
  rw [hcfg, hrun]

end

/-! ### Where a resynchronisation starts -/

/-- What the state `v` that resynchronises train `t` has from the state `s` that received the report. -/
structure ResyncFrom (s v : State) (t : TrainId) (rep : LastReport) : Prop where
  cfg      : v.cfg t = s.cfg t
  ptrip    : v.ptrip = s.ptrip
  queue    : v.queue = s.queue
  caverns  : v.caverns = s.caverns
  failures : (v.run t).failures = (s.run t).failures
  mode     : v.resyncMode t rep = s.usedMode t rep

section
variable {s v : State} {t : TrainId} {rep : LastReport}

theorem resyncFrom_record : ResyncFrom s (s.recordReport t rep) t rep where
  cfg := recordReport_cfg s t rep t
  ptrip := recordReport_ptrip s t rep
  queue := recordReport_queue s t rep
  caverns := recordReport_caverns s t rep
  failures := by rw [recordReport_run]; rfl
  mode := rfl

theorem resyncFrom_unexpected : ResyncFrom s ((s.recordReport t rep).unexpected t) t rep where
  cfg := (seqRaise_cfg _ t _ t).trans (recordReport_cfg s t rep t)
  ptrip := (seqRaise_ptrip _ t _).trans (recordReport_ptrip s t rep)
  queue := (seqRaise_queue _ t _).trans (recordReport_queue s t rep)
  caverns := (seqRaise_caverns _ t _).trans (recordReport_caverns s t rep)
  failures := by rw [State.unexpected, run_of_trainsMod (seqRaise_trains _ t _), recordReport_run]; rfl
  mode := resyncMode_congr _ t rep (seqRaise_cfg _ t _ t)
    (by rw [State.unexpected, run_of_trainsMod (seqRaise_trains _ t _)])

theorem resync_moving (hm : rep.moves) :
    v.resync t rep = v.resyncMoving t rep (decide (rep.runState = some .synchronised)) := by
  obtain ⟨x, hx, hr⟩ := hm
  simp only [List.mem_cons, List.not_mem_nil, or_false] at hx
  rcases hx with rfl | rfl | rfl | rfl <;> simp [State.resync, hr]

theorem standstill_moving (hst : (s.run t).state = .standstill) (hm : rep.moves) : s.toldReport t rep =
    ((s.recordReport t rep).unexpected t).resyncMoving t rep (decide (rep.runState = some .synchronised)) := by
  rw [told_standstill rep hst, ← resync_moving hm]
  obtain ⟨x, hx, hr⟩ := hm
  simp only [List.mem_cons, List.not_mem_nil, or_false] at hx
  rcases hx with rfl | rfl | rfl | rfl <;> simp [State.reportStandstill, hr]

theorem told_moving (hst : (s.run t).state = .unknown ∨ (s.run t).state = .standstill) (hm : rep.moves) :
    ∃ v, ResyncFrom s v t rep ∧
      s.toldReport t rep = v.resyncMoving t rep (decide (rep.runState = some .synchronised)) := by
  rcases hst with hst | hst
  · exact ⟨_, resyncFrom_record, (told_unknown rep hst).trans (resync_moving hm)⟩
  · exact ⟨_, resyncFrom_unexpected, standstill_moving hst hm⟩

end

/-! ### Trips of a resynchronisation -/

section
variable (v : State) (t : TrainId) (used : Mode)

theorem modeTaken_trains : (v.modeTaken t used).trains =
    trainsMod v.trains t fun r => { r with mode := used }.engagedAs (v.cfg t).kind (some used) := by
  have hcfg : (v.modRun t fun r => { r with mode := used }).cfg t = v.cfg t := v.cfg_modRun t t _
  unfold State.modeTaken
  rw [setEngaged_trains, modRun_trains, trainsMod_trainsMod, hcfg]

theorem modeTaken_frame : v.modeTaken t used = { v with trains := (v.modeTaken t used).trains } := by
  unfold State.modeTaken
  rw [setEngaged_frame]
  rfl

theorem modeTaken_queue : (v.modeTaken t used).queue = v.queue := by rw [modeTaken_frame]
theorem modeTaken_caverns : (v.modeTaken t used).caverns = v.caverns := by rw [modeTaken_frame]
theorem modeTaken_faults : (v.modeTaken t used).faults = v.faults := by rw [modeTaken_frame]
theorem modeTaken_cfg : (v.modeTaken t used).cfg t = v.cfg t := cfg_of_trainsMod (modeTaken_trains v t used) t
theorem modeTaken_mode : ((v.modeTaken t used).run t).mode = used := by
  rw [run_of_trainsMod (modeTaken_trains v t used)]
  rfl
theorem modeTaken_failures : ((v.modeTaken t used).run t).failures = (v.run t).failures := by
  rw [run_of_trainsMod (modeTaken_trains v t used)]
  rfl

/-- A train tripped without anything of it waiting. -/
structure State.trippedBy (u : State) (t : TrainId) (c : Cause) : Prop where
  state   : (u.run t).state = .tripped
  mode    : (u.run t).mode = none
  cause   : (u.run t).lastCause = some c
  entries : u.queue.entriesOf t = []

theorem resyncTrip_trips (c : Cause) (hq : v.queue.holdsCommands) : (v.resyncTrip t used c).trippedBy t c := by
  have hrun := run_of_trainsMod
    (tripBySequencer_trains (v.modeTaken t used) t ((v.modeTaken t used).tripInfo t noItem c))
  have hclear := tripBySequencer_clearOf (v.modeTaken t used) t ((v.modeTaken t used).tripInfo t noItem c)
    (by rw [modeTaken_queue]; exact hq)
  unfold State.resyncTrip
  refine ⟨?_, ?_, ?_, ((clearOf_settleKeeps t).settle hclear).entries⟩ <;> rw [settle_run, hrun]
  · simp [TrainRun.takenDown]
  · simp [TrainRun.takenDown, TrainState.noRunMode]
  · rfl

theorem resyncTrip_faults (c : Cause) : ∃ r, (v.resyncTrip t used c).faults = v.faults.add r := by
  obtain ⟨r, hr⟩ := tripBySequencer_faults (v.modeTaken t used) t ((v.modeTaken t used).tripInfo t noItem c)
  refine ⟨r, ?_⟩
  unfold State.resyncTrip
  rw [settle_faults, hr, modeTaken_faults]

end

section
variable {s : State} {t : TrainId} {rep : LastReport} {c : Cause} {u : State}

theorem trippedBy_consume (h : u.trippedBy t c) : (u.consume t rep).trippedBy t c :=
  ⟨by rw [consume_run]; exact h.state, by rw [consume_run]; exact h.mode, by rw [consume_run]; exact h.cause,
    by rw [consume_queue]; exact h.entries⟩

variable (hst : (s.run t).state = .unknown ∨ (s.run t).state = .standstill) (hm : rep.moves)
  (hq : s.queue.holdsCommands)
include hst hm hq

theorem resync_noMode (hu : s.usedMode t rep = none) : (s.readReport rep t).trippedBy t Cause.resyncConflict := by
  obtain ⟨v, hv, htold⟩ := told_moving hst hm
  refine trippedBy_consume (u := s.toldReport t rep) ?_
  rw [htold, resyncMoving_noMode v t rep _ (hv.mode.trans hu)]
  exact resyncTrip_trips v t _ _ (by rw [hv.queue]; exact hq)

theorem resync_tripLine (hu : s.usedMode t rep ≠ none) (hp : s.ptrip = true) :
    (s.readReport rep t).trippedBy t Cause.tripLineActive := by
  obtain ⟨m, hu⟩ := Option.ne_none_iff_exists'.1 hu
  obtain ⟨v, hv, htold⟩ := told_moving hst hm
  refine trippedBy_consume (u := s.toldReport t rep) ?_
  rw [htold, resyncMoving_tripLine v t rep _ (hv.mode.trans hu) (hv.ptrip.trans hp)]
  exact resyncTrip_trips v t _ _ (by rw [hv.queue]; exact hq)

theorem resync_opposite {m d : RunMode} (hu : s.usedMode t rep = some m) (hp : s.ptrip = false)
    (hd : (s.cavern (s.cfg t).cavern).run.direction = some d) (hne : d ≠ m) :
    (s.readReport rep t).trippedBy t Cause.resyncConflict := by
  obtain ⟨v, hv, htold⟩ := told_moving hst hm
  have hrefused : (v.modeTaken t (some m)).claim t m = none := by
    refine claim_refused _ t m ?_ hne
    rw [modeTaken_cfg, hv.cfg, cavern_of_caverns ((modeTaken_caverns v t _).trans hv.caverns)]
    exact hd
  refine trippedBy_consume (u := s.toldReport t rep) ?_
  rw [htold, resyncMoving_refused v t rep _ (hv.mode.trans hu) (hv.ptrip.trans hp) hrefused]
  exact resyncTrip_trips v t _ _ (by rw [hv.queue]; exact hq)

end

/-! ### A fault of the sequencer leaves all but the last cause (R49) -/

section
variable (s : State) (t : TrainId) (f : FaultInfo)

theorem seqRaise_state : ((s.seqRaise t f).run t).state = (s.run t).state := by
  rw [run_of_trainsMod (seqRaise_trains s t f)]
theorem seqRaise_timer : ((s.seqRaise t f).run t).timer = (s.run t).timer := by
  rw [run_of_trainsMod (seqRaise_trains s t f)]
theorem seqRaise_mode : ((s.seqRaise t f).run t).mode = (s.run t).mode := by
  rw [run_of_trainsMod (seqRaise_trains s t f)]
theorem seqRaise_lastCause : ((s.seqRaise t f).run t).lastCause = some f.cause := by
  rw [run_of_trainsMod (seqRaise_trains s t f)]

end

/-! ### Resynchronised with a claim -/

theorem clampInt_eq {lo hi : Int} (h : lo ≤ hi) (x : Int) : clampInt lo hi x = max lo (min x hi) := by
  unfold clampInt
  split
  · omega
  · split <;> omega

theorem resyncPower_eq (rep : LastReport) (n : Nat) :
    (resyncPower rep n : Int) = max 0 (min ((rep.active.map BitVec.toInt).getD 0) n) := by
  unfold resyncPower
  cases rep.active with
  | none => simp
  | some w =>
    show ((clampInt 0 n w.toInt).toNat : Int) = max 0 (min w.toInt n)
    rw [clampInt_eq (by omega)]
    omega

theorem resyncReactive_eq (rep : LastReport) (n : Nat) :
    resyncReactive rep n = max (-(n : Int)) (min ((rep.reactive.map BitVec.toInt).getD 0) n) := by
  unfold resyncReactive
  cases rep.reactive with
  | none =>
    show (0 : Int) = max (-(n : Int)) (min 0 n)
    omega
  | some w => exact clampInt_eq (by omega) _

/-- A train found moving and made STOPPING in a mode. -/
structure State.stopsIn (u s : State) (t : TrainId) (m : RunMode) : Prop where
  state   : (u.run t).state = .stopping
  timer   : (u.run t).timer = some (.stop, (s.cfg t).stopTimeout * 1000)
  mode    : (u.run t).mode = some m
  caverns : u.caverns = s.caverns

/-- A train found synchronised and made RUNNING in a mode, its set values the reported ones. -/
structure State.runsIn (u s : State) (t : TrainId) (m : RunMode) (rep : LastReport) : Prop where
  state    : (u.run t).state = .running
  mode     : (u.run t).mode = some m
  failures : (u.run t).failures = (s.run t).failures
  power    : (u.run t).power = resyncPower rep ((s.cfg t).rated (some m))
  reactive : (u.run t).reactive = resyncReactive rep (s.cfg t).reactiveLimit
  reheat   : (u.run t).reheat = 0
  caverns  : u.caverns = s.caverns

section
variable {s : State} {t : TrainId} {m : RunMode}

theorem beginStop_stopsIn (hm : (s.run t).mode = some m) : (s.beginStop t none).1.stopsIn s t m := by
  have hrun := run_of_trainsMod (beginStop_trains s t none)
  refine ⟨?_, ?_, ?_, beginStop_caverns s t none⟩ <;> rw [hrun]
  · rfl
  · rfl
  · exact hm

/-- RUNNING entered with the reported set values, before the grant. -/
def State.foundRunning (s : State) (t : TrainId) (m : RunMode) (rep : LastReport) : State :=
  (s.enter t .running).modRun t fun r =>
    { r with power := resyncPower rep ((s.cfg t).rated (some m)),
             reactive := resyncReactive rep (s.cfg t).reactiveLimit, reheat := 0 }

/-- The reservation asked for a train found running. -/
def State.foundAsk (s : State) (t : TrainId) (m : RunMode) : HeatAsk :=
  { train := t, mode := m, phase := .current, slot := none, basis := (s.cfg t).defaultEnergy }

variable (s t m) (rep : LastReport)

theorem foundRunning_trains : (s.foundRunning t m rep).trains = trainsMod s.trains t fun r =>
    { r.entered .running with
      power := resyncPower rep ((s.cfg t).rated (some m)), reactive := resyncReactive rep (s.cfg t).reactiveLimit
      reheat := 0 } := by
  unfold State.foundRunning
  rw [modRun_trains, enter_trains, trainsMod_trainsMod]

theorem foundRunning_cfg : (s.foundRunning t m rep).cfg t = s.cfg t := cfg_of_trainsMod (foundRunning_trains s t m rep) t

theorem foundRunning_faults : (s.foundRunning t m rep).faults = s.faults := enter_faults s t .running

theorem foundRunning_runsIn (hm : (s.run t).mode = some m) : (s.foundRunning t m rep).runsIn s t m rep := by
  have hrun := run_of_trainsMod (foundRunning_trains s t m rep)
  have hcaverns : (s.foundRunning t m rep).caverns = s.caverns := by
    show (s.enter t .running).caverns = s.caverns
    rw [enter_caverns, if_neg (by simp)]
  refine ⟨?_, ?_, ?_, ?_, ?_, ?_, hcaverns⟩ <;> rw [hrun]
  · rfl
  · exact hm
  · simp

theorem resyncRunning_granted {u : State} (h : (s.foundRunning t m rep).grantHeat (s.foundAsk t m) = .ok u) :
    s.resyncRunning t m rep = u := by
  unfold State.foundRunning State.foundAsk at h
  simp only [State.resyncRunning, h]

theorem resyncRunning_refused {c : Cause} (h : (s.foundRunning t m rep).grantHeat (s.foundAsk t m) = .error c) :
    s.resyncRunning t m rep =
      ((s.foundRunning t m rep).beginStop t none).1.seqRaise t { cause := Cause.heatShort } := by
  unfold State.foundRunning State.foundAsk at h
  simp only [State.resyncRunning, h, State.foundRunning]

/-- A train found synchronised runs, or stops for want of heat. -/
theorem resyncRunning_cases (hm : (s.run t).mode = some m) :
    (s.resyncRunning t m rep).runsIn s t m rep ∨ ((s.cfg t).heatRatio m ≠ 0 ∧
      (s.resyncRunning t m rep).stopsIn s t m ∧
      ((s.resyncRunning t m rep).run t).lastCause = some Cause.heatShort) := by
  have hruns := foundRunning_runsIn s t m rep hm
  cases hg : (s.foundRunning t m rep).grantHeat (s.foundAsk t m) with
  | ok u =>
    obtain ⟨l, rfl⟩ := grantHeat_frame hg
    rw [resyncRunning_granted s t m rep hg]
    exact .inl ⟨hruns.state, hruns.mode, hruns.failures, hruns.power, hruns.reactive, hruns.reheat, hruns.caverns⟩
  | error c =>
    have hstops := beginStop_stopsIn hruns.mode
    have hratio : (s.cfg t).heatRatio m ≠ 0 := by
      intro hz
      have hgranted := grantHeat_of_ratio_zero (s := s.foundRunning t m rep) (a := s.foundAsk t m)
        (by rw [← hz, State.foundAsk, foundRunning_cfg])
      rw [hgranted] at hg
      cases hg
    rw [resyncRunning_refused s t m rep hg]
    refine .inr ⟨hratio, ⟨?_, ?_, ?_, ?_⟩, ?_⟩
    · rw [seqRaise_state]; exact hstops.state
    · rw [seqRaise_timer, ← foundRunning_cfg s t m rep]; exact hstops.timer
    · rw [seqRaise_mode]; exact hstops.mode
    · rw [seqRaise_caverns, hstops.caverns, hruns.caverns]
    · rw [seqRaise_lastCause]

theorem resyncRunning_faults : (s.resyncRunning t m rep).faults = s.faults ∨
    ∃ r, (s.resyncRunning t m rep).faults = s.faults.add r := by
  cases hg : (s.foundRunning t m rep).grantHeat (s.foundAsk t m) with
  | ok u =>
    obtain ⟨l, rfl⟩ := grantHeat_frame hg
    rw [resyncRunning_granted s t m rep hg]
    exact .inl (foundRunning_faults s t m rep)
  | error c =>
    rw [resyncRunning_refused s t m rep hg]
    obtain ⟨r, hr, -⟩ := seqRaise_faults ((s.foundRunning t m rep).beginStop t none).1 t { cause := Cause.heatShort }
    exact .inr ⟨r, by rw [hr, beginStop_faults, foundRunning_faults]⟩

end

end Sys2Proof.Machine
end

section
/-! PROOF. The resynchronisations that hold their claim, the fault of a report that is not expected, and O28. -/

namespace Sys2Proof.Machine

section
variable {s w u : State} {t : TrainId} {m : RunMode} {rep : LastReport}

theorem stopsIn_consume (h : u.stopsIn w t m) : (u.consume t rep).stopsIn w t m :=
  ⟨by rw [consume_run]; exact h.state, by rw [consume_run]; exact h.timer, by rw [consume_run]; exact h.mode,
    by rw [consume_caverns]; exact h.caverns⟩

theorem runsIn_consume (h : u.runsIn w t m rep) : (u.consume t rep).runsIn w t m rep :=
  ⟨by rw [consume_run]; exact h.state, by rw [consume_run]; exact h.mode, by rw [consume_run]; exact h.failures,
    by rw [consume_run]; exact h.power, by rw [consume_run]; exact h.reactive, by rw [consume_run]; exact h.reheat,
    by rw [consume_caverns]; exact h.caverns⟩

/-- What the state `w` in which the claim is held has from the state `s` that received the report. -/
structure ClaimedFrom (s w : State) (t : TrainId) (m : RunMode) : Prop where
  cfg      : w.cfg t = s.cfg t
  mode     : (w.run t).mode = some m
  failures : (w.run t).failures = (s.run t).failures
  caverns  : w.caverns = claimed s.caverns (s.cfg t).cavern t m

/-- The outcomes of a resynchronisation that holds its claim. -/
theorem resync_claimed (hst : (s.run t).state = .unknown ∨ (s.run t).state = .standstill) (hm : rep.moves)
    (hu : s.usedMode t rep = some m) (hp : s.ptrip = false)
    (hfree : (s.cavern (s.cfg t).cavern).run.direction = none ∨
      (s.cavern (s.cfg t).cavern).run.direction = some m) :
    ∃ w, ClaimedFrom s w t m ∧
      ((rep.runState ≠ some .synchronised ∧ (s.readReport rep t).stopsIn w t m) ∨
       (rep.runState = some .synchronised ∧ (s.readReport rep t).runsIn w t m rep) ∨
       (rep.runState = some .synchronised ∧ (s.cfg t).heatRatio m ≠ 0 ∧ (s.readReport rep t).stopsIn w t m ∧
         ((s.readReport rep t).run t).lastCause = some Cause.heatShort)) := by
  obtain ⟨v, hv, htold⟩ := told_moving hst hm
  have htaken : (v.modeTaken t (some m)).cfg t = s.cfg t := (modeTaken_cfg v t _).trans hv.cfg
  have hcaverns : (v.modeTaken t (some m)).caverns = s.caverns := (modeTaken_caverns v t _).trans hv.caverns
  obtain ⟨l, hclaim⟩ := claim_granted (v.modeTaken t (some m)) t m (by
    rw [htaken, cavern_of_caverns hcaverns]
    exact hfree)
  obtain ⟨w, hw⟩ : ∃ w : State, w = { v.modeTaken t (some m) with
      caverns := claimed (v.modeTaken t (some m)).caverns ((v.modeTaken t (some m)).cfg t).cavern t m
      stopRequests := l } := ⟨_, rfl⟩
  rw [← hw] at hclaim
  have htrains : w.trains = (v.modeTaken t (some m)).trains := by rw [hw]
  have hfrom : ClaimedFrom s w t m :=
    { cfg := (cfg_of_trains htrains t).trans htaken
      mode := by rw [run_of_trains htrains, modeTaken_mode]
      failures := by rw [run_of_trains htrains, modeTaken_failures, hv.failures]
      caverns := by rw [hw, htaken, hcaverns] }
  have hmoved := resyncMoving_claimed v t rep (decide (rep.runState = some .synchronised)) (hv.mode.trans hu)
    (hv.ptrip.trans hp) hclaim
  rw [← htold] at hmoved
  refine ⟨w, hfrom, ?_⟩
  by_cases hr : rep.runState = some .synchronised
  · rw [if_pos (by simpa using hr)] at hmoved
    have hcases := resyncRunning_cases w t m rep hfrom.mode
    rw [← hmoved, hfrom.cfg] at hcases
    rcases hcases with hruns | ⟨hratio, hstops, hcause⟩
    · exact .inr (.inl ⟨hr, runsIn_consume hruns⟩)
    · exact .inr (.inr ⟨hr, hratio, stopsIn_consume hstops, by rw [readReport_run]; exact hcause⟩)
  · rw [if_neg (by simpa using hr)] at hmoved
    have hstops := beginStop_stopsIn hfrom.mode
    rw [← hmoved] at hstops
    exact .inl ⟨hr, stopsIn_consume hstops⟩

/-! ### The fault of a moving report at STANDSTILL (R67, note 1) -/

theorem claim_faults (h : s.claim t m = some w) : w.faults = s.faults := by
  by_cases hd : (s.cavern (s.cfg t).cavern).run.direction = none ∨ (s.cavern (s.cfg t).cavern).run.direction = some m
  · obtain ⟨l, hl⟩ := claim_granted s t m hd
    cases h.symm.trans hl
    rfl
  · obtain ⟨hnone, hother⟩ := not_or.1 hd
    obtain ⟨d, hd⟩ := Option.ne_none_iff_exists'.1 hnone
    rw [claim_refused s t m hd fun e => hother (hd.trans (congrArg some e))] at h
    cases h

theorem resyncMoving_faults (v : State) (t : TrainId) (rep : LastReport) (running : Bool) :
    (v.resyncMoving t rep running).faults = v.faults ∨
      ∃ r, (v.resyncMoving t rep running).faults = v.faults.add r := by
  cases hm : v.resyncMode t rep with
  | none => rw [resyncMoving_noMode v t rep running hm]; exact .inr (resyncTrip_faults v t _ _)
  | some m =>
    cases hp : v.ptrip with
    | true => rw [resyncMoving_tripLine v t rep running hm hp]; exact .inr (resyncTrip_faults v t _ _)
    | false =>
      cases hc : (v.modeTaken t (some m)).claim t m with
      | none => rw [resyncMoving_refused v t rep running hm hp hc]; exact .inr (resyncTrip_faults v t _ _)
      | some u =>
        rw [resyncMoving_claimed v t rep running hm hp hc, ← modeTaken_faults v t (some m), ← claim_faults hc]
        split
        · exact resyncRunning_faults u t m rep
        · exact .inl (beginStop_faults u t none)

theorem unexpected_raised (hst : (s.run t).state = .standstill) (hm : rep.moves) :
    ∃ r ∈ (s.readReport rep t).faults.ring, r.cause = Cause.unexpectedReport ∧ r.train = some t := by
  obtain ⟨r, hr, hcause, htrain⟩ := seqRaise_faults (s.recordReport t rep) t { cause := Cause.unexpectedReport }
  have hraised : ((s.recordReport t rep).unexpected t).faults = (s.recordReport t rep).faults.add r := hr
  have hfaults : (s.readReport rep t).faults = (s.toldReport t rep).faults := consume_faults _ t rep
  refine ⟨r, ?_, hcause, htrain⟩
  rw [hfaults, standstill_moving hst hm]
  rcases resyncMoving_faults ((s.recordReport t rep).unexpected t) t rep
    (decide (rep.runState = some .synchronised)) with h | ⟨r', h⟩ <;> rw [h, hraised]
  · exact List.mem_of_getLast? (add_getLast _ _)
  · exact mem_add_add _ r r'

/-! ### UNKNOWN without movement (R69, rows one and two) -/

theorem unknown_silent (hst : (s.run t).state = .unknown) (hr : rep.runState = none) :
    ((s.readReport rep t).run t).state = .unknown := by
  have hacted : s.toldReport t rep = s.recordReport t rep := by
    simp only [told_unknown rep hst, State.resync, hr]
  rw [readReport_run, hacted, toldReport_state, hst]

theorem unknown_standstill (hst : (s.run t).state = .unknown) (hr : rep.runState = some .standstill) :
    ((s.run t).failures < s.part.failureLimit → (s.run t).lock = false →
        ((s.readReport rep t).run t).state = .standstill) ∧
      (s.part.failureLimit ≤ (s.run t).failures ∨ (s.run t).lock = true →
        ((s.readReport rep t).run t).state = .locked ∧ ((s.readReport rep t).run t).lock = true) ∧
      ((s.cfg t).kind = .reversible → ((s.readReport rep t).run t).engaged = rep.mode.getD (s.run t).engaged) := by
  have hacted : s.toldReport t rep = ((s.recordReport t rep).engagedFrom t rep).enterRest t := by
    simp only [told_unknown rep hst, State.resync, hr]
  rw [readReport_run, hacted, run_of_trainsMod (enterRest_trains _ t), engagedFrom_run, engagedFrom_part,
    recordReport_run, recordReport_part, recordReport_cfg, recorded_moving _ _ _ (by simp [hst])]
  refine ⟨fun hf hl => rested_standstill _ _ hf hl, fun h => rested_locked _ _ h, fun hk => ?_⟩
  rw [rested_engaged]
  simp [TrainRun.engagedAs, hk]

theorem unknown_tripped (hst : (s.run t).state = .unknown) (hr : rep.runState = some .tripped) :
    ((s.readReport rep t).run t).state = .tripped ∧ ((s.readReport rep t).run t).mode = none := by
  have hacted : s.toldReport t rep = (((s.recordReport t rep).engagedFrom t rep).takeDown t).settle := by
    simp only [told_unknown rep hst, State.resync, hr]
  rw [readReport_run, hacted, settle_run, run_of_trainsMod (takeDown_trains _ t)]
  simp [TrainRun.takenDown, TrainState.noRunMode]

end

/-! ### A report received (R4, R7) -/

section
variable (s : State) (eth : Eth) (h : Header) (items : List Item) (pad : List Byte) (i : StationId)

/-- The state that has passed a report on to Port U. -/
def State.passedOn (s : State) (eth : Eth) (h : Header) (items : List Item) (pad : List Byte) : State :=
  s.hand .u { eth := eth, type := s.part.telegramType,
              payload := .telegram { cls := 0x04, hdr := h, items := items, pad := pad } }

theorem passedOn_frame : ∃ l, s.passedOn eth h items pad = { s with link := l } := ⟨_, hand_frame s .u _⟩

theorem exec_report (hn : items.length ≤ 16) (hf : s.findStation .d h.src = some i) :
    exec (.report eth h items pad) s = .next ((s.passedOn eth h items pad).readFrom i items) := by
  have harrives : s.arriveReport eth h items pad = (s.passedOn eth h items pad).readFrom i items := by
    rw [State.arriveReport, formed_of_suits s h _ hn rfl, sourced_accepted s .d _ h _ _ hf rfl]
    rfl
  exact congrArg Host.Outcome.next harrives

theorem readFrom_enrolled (h : (s.station i).enrolment = .enrolled) :
    s.readFrom i items = (s.trainsBehind i).foldl (fun x t => x.readReport (readReport items) t) s := if_pos h

theorem readFrom_silent (h : (s.station i).enrolment ≠ .enrolled ∨ s.trainsBehind i = []) : s.readFrom i items = s := by
  unfold State.readFrom
  split
  · next he =>
    rcases h with h | h
    · exact absurd he h
    · rw [h]; rfl
  · rfl

theorem trainsBehind_sorted : (s.trainsBehind i).Pairwise (· < ·) := (fins_pairwise 6).filter _

theorem mem_trainsBehind (t : TrainId) :
    t ∈ s.trainsBehind i ↔ (s.cfg t).configured = true ∧ (s.cfg t).controller = i := by
  simp [State.trainsBehind, mem_fins]

variable (t : TrainId)

/-- The exact result of a report that leaves a train at STANDSTILL. -/
theorem standstill_rests (hst : (s.run t).state = .standstill) (rep : LastReport)
    (hr : rep.runState = none ∨ rep.runState = some .standstill) :
    s.readReport rep t = s.modRun t fun r => { r with
      age := some 0
      engaged := if (s.cfg t).kind = .reversible then rep.mode.getD r.engaged else r.engaged
      report := r.report.laidOver rep } := by
  have hacted : s.toldReport t rep = s.recordReport t rep := by
    rcases hr with hr | hr <;> simp only [told_standstill rep hst, State.reportStandstill, hr]
  rw [readReport_of_not_running rep (by rw [hacted, toldReport_state, hst]; simp), hacted, recordReport_frame, modRun_frame]
  refine congrArg (fun v => { s with trains := v }) (trainsMod_congr ?_)
  exact recorded_resting (s.run t) _ rep (.inl hst)

end

end Sys2Proof.Machine
end

section
/-! PROOF. O28: reports are taken. -/

namespace Sys2Proof.Machine

section
variable {s : State} {t : TrainId} {rep : LastReport}

theorem usedMode_compressor (hk : (s.cfg t).kind = .compressor) : s.usedMode t rep = some .charge :=
  resyncMode_compressor _ t rep (by rw [recordReport_cfg]; exact hk)

theorem usedMode_expander (hk : (s.cfg t).kind = .expander) : s.usedMode t rep = some .generate :=
  resyncMode_expander _ t rep (by rw [recordReport_cfg]; exact hk)

theorem usedMode_reported (hk : (s.cfg t).kind = .reversible) {m : RunMode} (hm : rep.mode = some (some m)) :
    s.usedMode t rep = some m := resyncMode_reported _ t rep (by rw [recordReport_cfg]; exact hk) hm

/-- Without a mode in the report, the engaged mode, which at STANDSTILL follows the report first (R66). -/
theorem usedMode_engaged (hst : (s.run t).state = .unknown ∨ (s.run t).state = .standstill)
    (hk : (s.cfg t).kind = .reversible) (hm : rep.mode = none ∨ rep.mode = some none) :
    s.usedMode t rep =
      if (s.run t).state = .standstill then rep.mode.getD (s.run t).engaged else (s.run t).engaged := by
  rw [State.usedMode, resyncMode_engaged _ t rep (by rw [recordReport_cfg]; exact hk) hm, recordReport_run]
  rcases hst with hst | hst
  · rw [recorded_moving _ _ _ (by simp [hst]), hst]
    rfl
  · rw [recorded_resting _ _ _ (.inl hst), if_pos hk, if_pos hst]

/-- A resynchronisation that holds its claim: STOPPING, or synchronised and RUNNING within the ratings. -/
theorem resync_holds_claim (hst : (s.run t).state = .unknown ∨ (s.run t).state = .standstill) (hm : rep.moves)
    {m : RunMode} (hu : s.usedMode t rep = some m) (hp : s.ptrip = false)
    (hfree : (s.cavern (s.cfg t).cavern).run.direction = none ∨
      (s.cavern (s.cfg t).cavern).run.direction = some m) :
    ((s.readReport rep t).run t).mode = some m ∧
      ((s.readReport rep t).cavern (s.cfg t).cavern).run.direction = some m ∧
      ((s.readReport rep t).cavern (s.cfg t).cavern).run.holders.getLsbD t.val = true ∧
      (rep.runState ≠ some .synchronised → ((s.readReport rep t).run t).state = .stopping) ∧
      (((s.readReport rep t).run t).state = .stopping →
        ((s.readReport rep t).run t).timer = some (.stop, (s.cfg t).stopTimeout * 1000)) ∧
      (rep.runState = some .synchronised →
        (((s.readReport rep t).run t).state = .stopping ∧
          ((s.readReport rep t).run t).lastCause = some Cause.heatShort) ∨
        (((s.readReport rep t).run t).state = .running ∧ ((s.readReport rep t).run t).reheat = 0 ∧
          ((s.readReport rep t).run t).failures = (s.run t).failures ∧
          (((s.readReport rep t).run t).power : Int) =
            max 0 (min ((rep.active.map BitVec.toInt).getD 0) ((s.cfg t).rated (some m))) ∧
          ((s.readReport rep t).run t).reactive = max (-((s.cfg t).reactiveLimit : Int))
            (min ((rep.reactive.map BitVec.toInt).getD 0) (s.cfg t).reactiveLimit))) ∧
      (rep.runState = some .synchronised → (s.cfg t).heatRatio m = 0 →
        ((s.readReport rep t).run t).state = .running) := by
  obtain ⟨w, hw, houtcome⟩ := resync_claimed hst hm hu hp hfree
  have hcaverns : (s.readReport rep t).caverns = claimed s.caverns (s.cfg t).cavern t m := by
    rcases houtcome with ⟨-, h⟩ | ⟨-, h⟩ | ⟨-, -, h, -⟩ <;> exact h.caverns.trans hw.caverns
  have hplace : (s.readReport rep t).cavern (s.cfg t).cavern =
      (claimed s.caverns (s.cfg t).cavern t m).get (s.cfg t).cavern := by
    rw [State.cavern, hcaverns]
  rw [hplace, claimed_direction, claimed_holders, ← hw.cfg]
  rcases houtcome with ⟨hr, h⟩ | ⟨hr, h⟩ | ⟨hr, hratio, h, hcause⟩
  · exact ⟨h.mode, rfl, rfl, fun _ => h.state, fun _ => h.timer, fun e => absurd e hr, fun e => absurd e hr⟩
  · refine ⟨h.mode, rfl, rfl, fun e => absurd hr e, fun e => ?_, fun _ => .inr ⟨h.state, h.reheat, ?_, ?_, ?_⟩,
      fun _ _ => h.state⟩
    · rw [h.state] at e
      cases e
    · exact h.failures.trans hw.failures
    · rw [h.power, resyncPower_eq]
    · rw [h.reactive, resyncReactive_eq]
  · refine ⟨h.mode, rfl, rfl, fun _ => h.state, fun _ => h.timer, fun _ => .inl ⟨h.state, hcause⟩, fun _ hz => ?_⟩
    rw [hw.cfg] at hz
    exact absurd hz hratio

end

/-- Settles O28: the report passes to Port U and is read for the trains behind its station in order; each clause is the
reading's effect in one state, and the resynchronisations go by the mode used, the trip line and the cavern's direction. -/
theorem reportsAreTaken : Obligations.ReportsAreTaken := by
  refine ⟨fun eth h items pad s i hn hf => ?_, fun eth h items pad s i t hn hf he hb hq => ?_⟩
  · intro passed rep here
    have hhere : here = .next (passed.readFrom i items) := exec_report s eth h items pad i hn hf
    obtain ⟨l, hl⟩ : ∃ l, passed = { s with link := l } := passedOn_frame s eth h items pad
    have hstation : passed.station i = s.station i := by rw [hl]; rfl
    have hbehind : passed.trainsBehind i = s.trainsBehind i := by rw [hl]; rfl
    refine ⟨fun hs => ?_, fun he => ⟨?_, trainsBehind_sorted s i, mem_trainsBehind s i⟩, fun t he hb hst hr => ?_⟩
    · rw [hhere, readFrom_silent passed items i (by rw [hstation, hbehind]; exact hs)]
    · rw [hhere, readFrom_enrolled passed items i (by rw [hstation]; exact he), hbehind]
    · have hrests := standstill_rests passed t (by rw [hl]; exact hst) rep hr
      rw [hhere, readFrom_enrolled passed items i (by rw [hstation]; exact he), hbehind, hb]
      show Host.Outcome.next (passed.readReport rep t) = _
      rw [hrests, hl]
      rfl
  · intro rep
    obtain ⟨l, hl⟩ := passedOn_frame s eth h items pad
    obtain ⟨p, hp⟩ : ∃ p : State, p = { s with link := l } := ⟨_, rfl⟩
    have hrun : p.run t = s.run t := by rw [hp]; rfl
    have hcfg : p.cfg t = s.cfg t := by rw [hp]; rfl
    have hpart : p.part = s.part := by rw [hp]
    have hgate : p.gateOpen = s.gateOpen := by rw [hp]
    have hptrip : p.ptrip = s.ptrip := by rw [hp]
    have hcaverns : p.caverns = s.caverns := by rw [hp]
    have hcavern : p.cavern (p.cfg t).cavern = s.cavern (p.cfg t).cavern := by rw [hp]; rfl
    have hqueue : p.queue.holdsCommands := by rw [hp]; exact hq
    have hread : exec (.report eth h items pad) s = .next (p.readReport rep t) := by
      rw [exec_report s eth h items pad i hn hf, hl, ← hp,
        readFrom_enrolled p items i (by rw [hp]; exact he), show p.trainsBehind i = [t] by rw [hp]; exact hb]
      rfl
    obtain ⟨hothers, hage, hreport⟩ := readReport_acts p t rep
    have htables : tablesKept s (p.readReport rep t) :=
      (tablesFrame s).toKeepsPlant.readReport (by rw [hp]; exact tablesKept_refl s) rep t
    refine ⟨p.readReport rep t, hread, by rw [hp] at hothers ⊢; exact hothers, htables, hage,
      by rw [← hrun]; exact hreport, ?_⟩
    rw [← hrun, ← hcfg, ← hpart, ← hgate, ← hptrip, ← hcaverns, ← hcavern]
    refine ⟨fun m hst hm hrep hr => engaging_shows_mode hst hm hrep hr, engaging_other_mode, engaging_moves,
      moving_tripped, starting_synchronised, stopping_standstill, fun hst hr => running_tripped hst hr hqueue, running_standstill,
      foundMoving_stopping, running_waits, starting_tripped, starting_waits, stopping_waits, ?_, fun hst => ?_⟩
    · exact ⟨resting_tripped, locked_rests, locked_moves, tripped_reset, tripped_stays⟩
    · intro st engaged used place moving tripped free
      have hused : p.usedMode t rep = used := by
        cases hk : (p.cfg t).kind with
        | compressor =>
          rw [usedMode_compressor hk]
          simp [used, hk]
        | expander =>
          rw [usedMode_expander hk]
          simp [used, hk]
        | reversible =>
          rcases hm : rep.mode with _ | _ | m
          · rw [usedMode_engaged hst hk (.inl hm)]
            simp [used, hk, hm, engaged, st]
          · rw [usedMode_engaged hst hk (.inr hm)]
            simp [used, hk, hm, engaged, st]
          · rw [usedMode_reported hk hm]
            simp [used, hk, hm]
      have htrip {c : Cause} (h : (p.readReport rep t).trippedBy t c) : tripped c :=
        ⟨h.state, h.mode, h.cause, h.entries⟩
      refine ⟨unexpected_raised, unknown_silent, fun hst hr => ?_, unknown_tripped,
        fun hm hu => htrip (resync_noMode hst hm hqueue (hused.trans hu)),
        fun hm hu hp => htrip (resync_tripLine hst hm hqueue (hused ▸ hu) hp),
        fun m d hm hu hp hd hne => htrip (resync_opposite hst hm hqueue (hused.trans hu) hp hd hne),
        fun m hm hu hp hfree => resync_holds_claim hst hm (hused.trans hu) hp hfree⟩
      obtain ⟨hrest, hlocked, hengaged⟩ := unknown_standstill hst hr
      exact ⟨hrest, fun h => (hlocked h).1, hengaged⟩

end Sys2Proof.Machine
end

section
/-! PROOF. The translation unit: unique cache keys, hits, misses and fills, the walks of the two tables, and the fences
(O59, O19, O20). -/

namespace Sys2Proof.Machine

/-! ### The keys of the cache (R36) -/

theorem cacheUnique_empty : cacheUnique (Vector.replicate 16 {}) := by
  intro i hi
  simp [Vector.get] at hi

theorem cacheUniqueKeepsSchedule : KeepsSchedule fun s => cacheUnique s.cache where
  link := fun _ _ _ h => h
  faults := fun _ _ _ h => h
  tiers := fun _ _ _ h => h
  queue := fun _ _ _ _ _ _ h => h
  trains := fun _ _ h => h
  caverns := fun _ _ _ h => h
  reservations := fun _ _ _ h => h
  slots := fun _ _ _ h => h
  stopRequests := fun _ _ h => h
  cache := fun _ _ hv h => hv h
  lru := fun _ _ h => h
  free := fun _ _ h => h
  engine := fun _ _ h => h
  act := fun _ _ h => h
  shares := fun _ _ h => h
  history := fun _ _ _ h => h

/-- The keys stay unique through a fill and a fence, both resets empty the cache, and nothing else touches it. -/
theorem cacheUniqueKeepsAll : KeepsAll fun s => cacheUnique s.cache where
  toKeepsSchedule := cacheUniqueKeepsSchedule
  stations := fun _ _ h => h
  roll := fun _ _ h => h
  stores := fun _ _ h => h
  layers := fun _ _ h => h
  points := fun _ _ h => h
  bus := fun _ _ h => h
  part := fun _ _ _ h => h
  openGate := fun _ h => h
  shutGate := cacheUniqueKeepsSchedule.shutGate fun _ _ h => h
  ptrip := fun _ _ h => h
  permissions := fun _ _ h => h
  positions := fun _ _ h => h
  duties := fun _ _ h => h
  bands := fun _ _ h => h
  scan := fun _ _ h => h
  routes := fun _ _ _ h => h
  masks := fun _ _ _ h => h
  pending := fun _ _ h => h
  powerOn := fun _ _ _ => cacheUnique_empty
  warmRestart := fun _ _ => cacheUnique_empty

/-- Settles O59: the only writes of the cache are fills after a miss and invalidations, and both keep the keys unique. -/
theorem stepKeepsCacheKeysUnique : Obligations.StepKeepsCacheKeysUnique :=
  fun _ _ h e => cacheUniqueKeepsAll.step h e

/-! ### A resolution request (R35, R36) -/

theorem hits_iff (e : CacheEntry) (b : Bool) (n : Nat) :
    e.hits b n = true ↔ e.valid = true ∧ e.isPosition = b ∧ e.key = n := by
  simp [CacheEntry.hits, and_assoc]

section
variable {s : State} {b : Bool} {n : Nat} {w : Bool}

/-- The way of a hit, way 0 before way 1. -/
theorem cacheFind_of_hit (h : (s.cache.get (cacheIndex (cacheSet n) w)).hits b n = true)
    (hfirst : w = true → ¬ (s.cache.get (cacheIndex (cacheSet n) false)).hits b n = true) :
    cacheFind s b n = some w := by
  cases w with
  | false => simp [cacheFind, h]
  | true => simp [cacheFind, h, hfirst rfl]

theorem cacheFind_of_miss (h0 : ¬ (s.cache.get (cacheIndex (cacheSet n) false)).hits b n = true)
    (h1 : ¬ (s.cache.get (cacheIndex (cacheSet n) true)).hits b n = true) : cacheFind s b n = none := by
  simp [cacheFind, h0, h1]

/-- The state after a hit: the other way is the least recent. -/
def State.touched (s : State) (k : Fin 8) (w : Bool) : State := { s with lru := upd s.lru k (!w) }

theorem lookup_hit_configured (h : cacheFind s b n = some w)
    (hc : (s.cfg (s.cache.get (cacheIndex (cacheSet n) w)).train).configured = true) :
    s.lookup b n = (s.touched (cacheSet n) w, .ok (s.cache.get (cacheIndex (cacheSet n) w)).result) := by
  simp only [State.lookup, h, hc, if_true, State.touched]

theorem lookup_hit_unconfigured (h : cacheFind s b n = some w)
    (hc : (s.cfg (s.cache.get (cacheIndex (cacheSet n) w)).train).configured = false) :
    s.lookup b n = (s.touched (cacheSet n) w,
      .error { cause := Cause.trainUnconfigured, duty := (s.cache.get (cacheIndex (cacheSet n) w)).duty }) := by
  simp [State.lookup, h, hc, State.touched]

theorem lookup_miss_error {f : Failure} (h : cacheFind s b n = none) (hw : walk s b n = .error f) :
    s.lookup b n = (s, .error f) := by
  simp only [State.lookup, h, hw]

theorem lookup_miss_ok {r : Resolution} (h : cacheFind s b n = none) (hw : walk s b n = .ok r) :
    s.lookup b n = ({ s.touched (cacheSet n) (fillWay s (cacheSet n)) with
      cache := upd s.cache (cacheIndex (cacheSet n) (fillWay s (cacheSet n))) (filledEntry b n r) }, .ok r) := by
  simp only [State.lookup, h, hw, State.touched]

end

/-! ### The walks (R30, R31) -/

section
variable (s : State)

theorem walkDuty_unmapped {u : DutyId} (h : (s.duties.get u).mapped = false) :
    walkDuty s u = .error Cause.dutyUnused := by
  simp [walkDuty, h]

theorem walkDuty_unconfigured {u : DutyId} (h : (s.duties.get u).mapped = true)
    (hc : (s.cfg (s.duties.get u).train).configured = false) : walkDuty s u = .error Cause.trainUnconfigured := by
  simp [walkDuty, h, hc]

theorem walkDuty_mapped {u : DutyId} (h : (s.duties.get u).mapped = true)
    (hc : (s.cfg (s.duties.get u).train).configured = true) : walkDuty s u = .ok (s.duties.get u) := by
  simp [walkDuty, h, hc]

theorem walk_duty_error {u : DutyId} {c : Cause} (h : walkDuty s u = .error c) :
    walk s false u.val = .error { cause := c } := by
  simp [walk, walkFromDuty, h]

theorem walk_duty_ok {u : DutyId} {d : Duty} (h : walkDuty s u = .ok d) :
    walk s false u.val =
      .ok { train := d.train, duty := none, allow := d.allow, limit := some d.limit, desk := none } := by
  simp [walk, walkFromDuty, h]

theorem walk_position_unused {p : Fin 128} (h : (s.positions.get p).state = .unused) :
    walk s true p.val = .error { cause := Cause.positionUnused } := by
  simp [walk, walkFromPosition, h]

theorem walk_position_null {p : Fin 128} (h : (s.positions.get p).state = .null) :
    walk s true p.val = .error { cause := Cause.positionNull } := by
  simp [walk, walkFromPosition, h]

theorem walk_position_error {p : Fin 128} {c : Cause} (h : (s.positions.get p).state = .mapped)
    (hd : walkDuty s (s.positions.get p).duty = .error c) :
    walk s true p.val = .error { cause := c, duty := some (s.positions.get p).duty } := by
  simp [walk, walkFromPosition, h, hd]

theorem walk_position_ok {p : Fin 128} {d : Duty} (h : (s.positions.get p).state = .mapped)
    (hd : walkDuty s (s.positions.get p).duty = .ok d) :
    walk s true p.val =
      .ok { train := d.train, duty := some (s.positions.get p).duty, allow := d.allow &&& (s.positions.get p).allow,
            limit := some (min (s.positions.get p).limit d.limit), desk := (s.positions.get p).desk } := by
  simp [walk, walkFromPosition, h, hd]

end

/-- Settles O19: a request hits or misses, and the walks take their refusals in the order of the stages. -/
theorem referencesAreResolved : Obligations.ReferencesAreResolved := by
  refine ⟨fun s b n => ?_, fun s p u => ?_⟩
  · intro set entry holds r
    have hholds (w : Bool) : (entry w).hits b n = true ↔ holds w := hits_iff _ b n
    refine ⟨fun w hw hfirst => ?_, fun h0 h1 => ?_⟩
    · have hfind : cacheFind s b n = some w :=
        cacheFind_of_hit ((hholds w).2 hw) fun e => mt (hholds false).1 (hfirst e)
      cases hc : (s.cfg (entry w).train).configured with
      | true =>
        have hr : r = _ := lookup_hit_configured hfind hc
        exact ⟨congrArg Prod.fst hr, fun _ => congrArg Prod.snd hr, nofun⟩
      | false =>
        have hr : r = _ := lookup_hit_unconfigured hfind hc
        exact ⟨congrArg Prod.fst hr, nofun, fun _ => congrArg Prod.snd hr⟩
    · have hfind : cacheFind s b n = none := cacheFind_of_miss (mt (hholds false).1 h0) (mt (hholds true).1 h1)
      refine ⟨fun f hf => lookup_miss_error hfind hf, fun x hx => ?_⟩
      intro w
      have hway : fillWay s set = w := by simp only [fillWay, w, entry, Bool.not_eq_true']
      have hr : r = _ := lookup_miss_ok hfind hx
      rw [show cacheSet n = set from rfl, hway] at hr
      exact ⟨congrArg Prod.snd hr, congrArg Prod.fst hr⟩
  · intro x d
    refine ⟨walk_position_unused s, walk_position_null s, fun h => walk_duty_error s (walkDuty_unmapped s h),
      fun h hc => walk_duty_error s (walkDuty_unconfigured s h hc), fun h hc => walk_duty_ok s (walkDuty_mapped s h hc),
      ?_, ?_⟩
    · rintro hx rfl h hc
      exact walk_position_ok s hx (walkDuty_mapped s h hc)
    · rintro hx rfl h
      exact walk_position_error s hx (walkDuty_unmapped s h)

/-! ### Fences (R37) -/

/-- What a management request of one item comes to, at a level that may make it. -/
theorem arriveManage_accepted {s : State} {h : Header} {m : Manager} {n : Nat} {q : ManageReq}
    (hm : s.managerOf h = some m) (h1 : 1 ≤ n) (hn : n ≤ 16) (hq : q ≠ .bad) (hl : m.level ≤ q.maxLevel) :
    s.arriveManage h n q = s.manage m q := by
  rw [arriveManage_taken s h q h1 hn hm, State.takeManage, if_neg hq, if_neg (Nat.not_lt.2 hl)]

/-- An invalidation makes exactly the valid entries its predicate names invalid. -/
theorem invalidate_get (s : State) (p : CacheEntry → Bool) {scope : CacheEntry → Prop}
    (hp : ∀ e, p e = true ↔ scope e) (i : Fin 16) :
    ((s.cache.get i).valid = true → scope (s.cache.get i) →
      (s.invalidate p).cache.get i = { s.cache.get i with valid := false }) ∧
    ((s.cache.get i).valid = false ∨ ¬ scope (s.cache.get i) → (s.invalidate p).cache.get i = s.cache.get i) := by
  have hnamed (e : CacheEntry) : (e.valid && p e) = true ↔ e.valid = true ∧ scope e := by simp [hp]
  rw [State.invalidate, tabMap_get]
  refine ⟨fun hv hs => if_pos ((hnamed _).2 ⟨hv, hs⟩), fun h => if_neg fun hboth => ?_⟩
  obtain ⟨hv, hs⟩ := (hnamed _).1 hboth
  rcases h with h | h
  · exact Bool.false_ne_true (h.symm.trans hv)
  · exact h hs

/-- Settles O20: each scope is the predicate its fence invalidates by. -/
theorem fencesInvalidateTheirScope : Obligations.FencesInvalidateTheirScope := by
  intro h n s m hm hl fenced
  have taken (c : Instr) (q : ManageReq) (p : CacheEntry → Bool) (scope : CacheEntry → Prop)
      (hc : exec c s = .next (s.arriveManage h 1 q)) (hq : q ≠ .bad) (hmax : q.maxLevel = 2)
      (hman : s.manage m q = (s.invalidate p).replyWith m .done []) (hp : ∀ e, p e = true ↔ scope e) :
      fenced scope c := by
    refine ⟨(s.invalidate p).cache, ?_, invalidate_get s p hp⟩
    rw [hc, arriveManage_accepted hm (le_refl 1) (by omega) hq (by omega), hman]
    rfl
  refine ⟨taken (.fenceAll h) .fenceAll (fun _ => true) (fun _ => True) rfl nofun rfl rfl ?_,
    taken (.fencePosition h n) (.fencePosition n.toNat) (fun e => e.isPosition && e.key == n.toNat)
      (fun e => e.isPosition = true ∧ e.key = n.toNat) rfl nofun rfl rfl ?_,
    taken (.fenceDesk h n) (.fenceDesk n.toNat) (fun e => e.isPosition && e.desk.any fun i => i.val == n.toNat)
      (fun e => e.isPosition = true ∧ ∃ d, e.desk = some d ∧ d.val = n.toNat) rfl nofun rfl rfl ?_,
    taken (.fenceDuty h n) (.fenceDuty n.toNat)
      (fun e => (!e.isPosition && e.key == n.toNat) || (e.isPosition && e.duty.any fun i => i.val == n.toNat))
      (fun e => (e.isPosition = false ∧ e.key = n.toNat) ∨
        (e.isPosition = true ∧ ∃ u, e.duty = some u ∧ u.val = n.toNat)) rfl nofun rfl rfl ?_⟩
  all_goals
    intro e
    simp [Option.any_eq_true]

end Sys2Proof.Machine
end

section
/-! PROOF. The refutation of O24: an offer refused QUEUE_FULL still lets the entries that may depart leave. -/

namespace Sys2Proof.Machine.Crowded

/-- A DISPATCH header of station 0x101 that requests no reply. -/
def hdr : Header := { dst := 0x7F00, src := 0x101, seq := 5 }

/-- REACTIVE 0 for train 0 by a TRAIN reference. -/
def item : Item := { kind := kReactive, refKind := 1 }

/-- Station 0x101 as source: SAFETY, level 0. -/
def source : Source := { entry := 0, role := .safety, level := 0, address := 0x101, seq := 5 }

/-- The three quantities of trains 1 to 4, each waiting once: the 12 places from which an ADMITTED offer finds none. -/
def entries : List Entry :=
  [1, 2, 3, 4].flatMap fun t : TrainId =>
    [DriveKind.power, .reactive, .reheat].map fun k => { train := t, kind := k, value := 0, origin := .admitted }

/-- Six trains RUNNING behind one ENROLLED controller, the gate OPEN, the queue at 12 entries and no pacing timer
running, so that waiting entries may depart. -/
def state : State :=
  { State.reset with
    gateOpen := true
    stations := upd (upd State.reset.stations 0 { inUse := true, address := 0x101, role := .safety, level := 0 })
      1 { inUse := true, address := 0x201, port := .d, role := .train, enrolment := .enrolled }
    trains := Vector.replicate 6
      { cfg := { configured := true, controller := 1 }, run := { state := .running, engaged := some .generate } }
    queue := { entries := entries } }

/-- Entries waiting after an outcome. -/
def waiting : Host.Outcome State Fault Refusal → Nat
  | .next u => u.queue.entries.length
  | _ => 0

theorem dispatches : state.dispatches hdr source := ⟨by decide +kernel, by decide +kernel⟩

theorem controls : state.controls source item 0 :=
  ⟨rfl, by decide, by decide +kernel, by decide +kernel, rfl, rfl⟩

theorem no_room : ¬ ((state.queue.entries.any fun e => e.train == 0 && e.kind == .reactive) = true ∨
    state.queue.entries.length < 12) := by decide +kernel

/-- One entry of each of the four trains leaves. -/
theorem waiting_after : waiting (exec (.dispatch hdr [item]) state) = 8 := by decide +kernel

end Sys2Proof.Machine.Crowded

namespace Sys2Proof.Machine

/-- Refutes O24 in its clause on REACTIVE without a place: what is left is said to be the state with one fault raised, but
the refused offer is followed by the departures of the entries that are eligible (`State.offer` settles whatever the
answer), so that 8 of the 12 entries wait afterwards. -/
theorem not_quantityRequests : ¬ Obligations.QuantityRequests := by
  intro h
  obtain ⟨-, h⟩ := h
  obtain ⟨-, -, -, -, -, -, -, -, full, -⟩ := h Crowded.hdr Crowded.item Crowded.state Crowded.source 0
    Crowded.dispatches rfl Crowded.controls (by decide +kernel)
  have stands := congrArg Crowded.waiting
    (full ⟨rfl, by decide +kernel, nofun, nofun⟩ Crowded.no_room)
  rw [Crowded.waiting_after, Crowded.waiting, raise_queue] at stands
  exact absurd stands (by decide)

end Sys2Proof.Machine
end

section
/-! PROOF. A DISPATCH taken: its items in turn, one OUTCOME for each (O17). -/

namespace Sys2Proof.Machine

/-! ### A DISPATCH taken from its source (R3, R5, R21) -/

theorem sourced_of_sourceOf {s : State} {p : Port} {cls : Byte} {h : Header} {accepts : Station → Bool} {src : Source}
    (next : Source → State) (hs : s.sourceOf p h accepts = some src) : s.sourced p cls h accepts next = next src := by
  unfold State.sourceOf at hs
  split at hs
  · cases hs
  next k hf =>
    split at hs
    next ha =>
      cases hs
      exact sourced_accepted _ _ _ _ _ _ hf ha
    · cases hs

theorem exec_dispatch {s : State} {h : Header} {src : Source} {items : List Item} (hd : s.dispatches h src)
    (hn : items.length ≤ 16) : exec (.dispatch h items) s = .next (s.takeDispatch src h items) := by
  obtain ⟨hown, hs⟩ := hd
  refine congrArg Host.Outcome.next ?_
  rw [State.arriveDispatch, formed_of_suits s h _ hn rfl, steered_accepted _ _ _ _ (isOwn_true hown),
    sourced_of_sourceOf _ hs]

theorem takeDispatch_silent {h : Header} (hq : wantsReply h = false) (s : State) (src : Source) (items : List Item) :
    s.takeDispatch src h items = (s.decideAll src items).1 := by
  simp [State.takeDispatch, hq]

theorem takeDispatch_answered {h : Header} (hq : wantsReply h = true) (s : State) (src : Source) (items : List Item) :
    s.takeDispatch src h items = (s.decideAll src items).1.answer cAdmitReply h.src h.seq (s.decideAll src items).2 := by
  simp [State.takeDispatch, hq]

/-- A DISPATCH of one item, without a reply, leaves what the item leaves. -/
theorem exec_dispatch_one {s : State} {h : Header} {src : Source} {i : Item} (hd : s.dispatches h src)
    (hq : wantsReply h = false) : exec (.dispatch h [i]) s = .next (s.decideItem src i).1 := by
  rw [exec_dispatch hd (by simp), takeDispatch_silent hq]
  rfl

theorem sourceOf_congr {s u : State} (hs : u.stations = s.stations) (p : Port) (h : Header) (f : Station → Bool) :
    u.sourceOf p h f = s.sourceOf p h f := by
  have hstation : u.station = s.station := by
    funext i
    rw [State.station, State.station, hs]
  simp only [State.sourceOf, State.findStation, hstation]

/-- A decided item leaves who the telegram comes from. -/
theorem decideItem_dispatches {s : State} {h : Header} {src : Source} (hd : s.dispatches h src) (i : Item) :
    (s.decideItem src i).1.dispatches h src := by
  obtain ⟨hpart, -, -, -, -, -, -, -, -, hstations, -⟩ :=
    (tablesFrame s).toKeepsDispatch.decideItem (tablesKept_refl s) src i
  obtain ⟨hown, hs⟩ := hd
  exact ⟨by rw [hpart, hown], by rw [sourceOf_congr hstations, hs]⟩

/-! ### Outcomes (R45) -/

/-- An outcome that is a refusal has its cause and no value. -/
def ItemOutcome.named (o : ItemOutcome) : Prop := o.code = .refused → ∃ c, o = refusedItem c

theorem named_refusedItem (c : Cause) : (refusedItem c).named := fun _ => ⟨c, rfl⟩

theorem named_outcomeOf (v : Int) (a : SeqAnswer) : (outcomeOf v a).named := by
  cases a with
  | refused c => exact named_refusedItem c
  | queued => nofun
  | held => nofun
  | sent raised => nofun
  | accepted => nofun

theorem named_placedOutcome (asked value : Int) (new : Bool) (raised : Option Cause) :
    (placedOutcome asked value new raised).named := by
  intro h
  simp only [placedOutcome] at h
  split at h
  · cases h
  · split at h <;> cases h

section
variable (s : State) (src : Source) (i : Item) (r : Resolution)

theorem named_command : (s.command src i r).2.named := by
  unfold State.command
  dsimp only
  split
  · split <;> exact named_outcomeOf _ _
  · repeat' split
    all_goals exact named_outcomeOf _ _

theorem named_quantity (k : DriveKind) : (s.quantity src i r k).2.named := by
  unfold State.quantity
  dsimp only
  split
  · exact named_refusedItem _
  · split
    · exact named_refusedItem _
    · split
      · exact named_refusedItem _
      · exact named_placedOutcome _ _ _ _
      · exact named_placedOutcome _ _ _ _
      · exact named_placedOutcome _ _ _ _

theorem named_decideItem : (s.decideItem src i).2.named := by
  unfold State.decideItem
  dsimp only
  split
  · exact named_refusedItem _
  · split
    · exact named_refusedItem _
    · split
      · exact named_refusedItem _
      · unfold State.handOn
        split
        · exact named_quantity _ _ _ _ _
        · exact named_command _ _ _ _

end

theorem nat_cause_ne_absent (c : Cause) : nat c.val ≠ absent := by
  have hc := c.isLt
  rw [nat_eq_ofNat c.val (by omega)]
  intro h
  have htoNat := congrArg BitVec.toNat h
  rw [BitVec.toNat_ofNat, Nat.mod_eq_of_lt (by omega), show absent.toNat = 4294967295 from rfl] at htoNat
  omega

theorem outcomeCode_le (c : OutcomeCode) : (code outcomeCodes c).toNat ≤ 6 := by
  cases c <;> decide

theorem outcomeCode_refused {c : OutcomeCode} (h : code outcomeCodes c = 5) : c = .refused := by
  revert h
  cases c <;> decide

/-- What an OUTCOME item says of the item it answers (R45). -/
def answers (i o : Item) : Prop :=
  o.kind = 0x68 ∧ o.tag = i.tag ∧ o.refKind = i.refKind ∧ o.refId = i.refId ∧ o.auxA.toNat ≤ 6 ∧
    (o.auxA = 5 → o.value = 0 ∧ o.auxB ≠ 0xFFFFFFFF)

theorem answers_outcomeItem (i : Item) {o : ItemOutcome} (ho : o.named) : answers i (outcomeItem i o) := by
  refine ⟨rfl, rfl, rfl, rfl, outcomeCode_le o.code, fun h => ?_⟩
  obtain ⟨c, rfl⟩ := ho (outcomeCode_refused h)
  exact ⟨show num 0 = 0 by decide, nat_cause_ne_absent c⟩

/-- The items of the reply answer those of the telegram one by one, in order. -/
theorem answers_decideAll (src : Source) (items : List Item) (s : State) :
    List.Forall₂ answers items (s.decideAll src items).2 := by
  induction items generalizing s with
  | nil => exact .nil
  | cons i rest ih => exact .cons (answers_outcomeItem i (named_decideItem s src i)) (ih _)

/-- Settles O17: a telegram's items are decided by recursion on their list, and the reply is the last thing sent. -/
theorem dispatchItemsInTurn : Obligations.DispatchItemsInTurn := by
  refine ⟨fun h s src hd => ⟨?_, fun i rest hn hq => ?_⟩, fun h items s src hd hn => ?_⟩
  · rw [exec_dispatch hd (by simp)]
    cases hq : wantsReply h with
    | true => rw [takeDispatch_answered hq]; rfl
    | false => rw [takeDispatch_silent hq]; rfl
  · have hu := decideItem_dispatches hd i
    refine ⟨_, exec_dispatch_one hd hq, hu, ?_⟩
    rw [exec_dispatch hd (by simp; omega), exec_dispatch hu (by omega), takeDispatch_silent hq, takeDispatch_silent hq]
    rfl
  · refine ⟨(s.decideAll src items).1, (s.decideAll src items).2, ?_, fun hq => ?_, fun hq => ?_,
      answers_decideAll src items s⟩
    · have hd0 : s.dispatches { h with flags := 0 } src := hd
      rw [exec_dispatch hd0 hn, takeDispatch_silent (by simp [wantsReply])]
    · rw [exec_dispatch hd hn, takeDispatch_answered hq]
    · rw [exec_dispatch hd hn, takeDispatch_silent hq]

end Sys2Proof.Machine
end

section
/-! PROOF. The checks A to I on an item of a DISPATCH (O18). -/

namespace Sys2Proof.Machine

/-! ### Faults of the admission unit (R44) -/

section
variable {src : Source} {i : Item} {c : Cause}

theorem refusal_of_kindIllegal : (itemInfo src i).refusal Cause.kindIllegal =
    { dispatchFaultInfo src i Cause.kindIllegal with detail := some (i.kind.setWidth 32) } := rfl

theorem refusal_of_other (f : FaultInfo) (hc : c ≠ Cause.kindIllegal) : f.refusal c = { f with cause := c } := if_neg hc

theorem refusal_itemInfo (hc : c ≠ Cause.kindIllegal) : (itemInfo src i).refusal c = dispatchFaultInfo src i c :=
  refusal_of_other _ hc

theorem refusal_resolved (r : Resolution) (hc : c ≠ Cause.kindIllegal) : ((itemInfo src i).resolved r).refusal c =
    { dispatchFaultInfo src i c with train := some r.train, duty := r.duty } := refusal_of_other _ hc

end

/-! ### Steps A to D (R23 to R26) -/

section
variable {i : Item}

theorem stepA_undefined (h : i.kind.toNat = 0 ∨ 11 < i.kind.toNat ∨ i.refKind = 0 ∨ 3 < i.refKind.toNat) :
    stepA i = some Cause.kindIllegal := by
  refine if_pos ?_
  simp only [dispatchKind, Bool.or_eq_true, Bool.not_eq_true', Bool.and_eq_false_iff, decide_eq_false_iff_not,
    decide_eq_true_eq, beq_iff_eq, Nat.not_le]
  rcases h with h | h | h | h
  · exact .inl (.inl (.inl (by omega)))
  · exact .inl (.inl (.inr h))
  · exact .inl (.inr h)
  · exact .inr h

theorem stepA_defined (h1 : 1 ≤ i.kind.toNat) (h11 : i.kind.toNat ≤ 11) (hr1 : 1 ≤ i.refKind.toNat)
    (hr3 : i.refKind.toNat ≤ 3) : stepA i = none := by
  have hr : i.refKind ≠ 0#8 := by
    intro h
    simp [h] at hr1
  simp [stepA, dispatchKind, h1, h11, hr, Nat.not_lt.2 hr3]

theorem stepB_closed (h : i.kind ≠ kTrip) : stepB false i = some Cause.gateClosed := if_pos ⟨h, rfl⟩

theorem stepB_open : stepB true i = none := if_neg fun h => nomatch h.2

theorem stepC_train {l : Nat} (hr : i.refKind = 1) (hl : l ≤ 1) : stepC l i = none := by
  rw [stepC, if_pos hr, if_pos (.inr hl)]

theorem stepC_train_refused {l : Nat} (hr : i.refKind = 1) (hk : i.kind ≠ kTrip) (hl : 2 ≤ l) :
    stepC l i = some Cause.refForbidden := by
  rw [stepC, if_pos hr, if_neg (by rintro (h | h); exacts [hk h, by omega])]

theorem stepC_table {l : Nat} (hr : i.refKind ≠ 1) (hk : dutyKind i.kind = true) : stepC l i = none := by
  rw [stepC, if_neg hr, if_pos hk]

theorem stepC_table_refused {l : Nat} (hr : i.refKind ≠ 1) (hk : dutyKind i.kind = false) :
    stepC l i = some Cause.kindIllegal := by
  rw [stepC, if_neg hr, hk]
  rfl

theorem dutyKind_iff (k : Byte) :
    dutyKind k = true ↔ k = kPower ∨ k = kReactive ∨ k = kReheat ∨ k = kStart ∨ k = kStop := by
  simp [dutyKind, or_assoc]

/-- The codes of the duty kinds are 1 to 5. -/
theorem dutyKind_toNat {k : Byte} (h : dutyKind k = true) : 1 ≤ k.toNat ∧ k.toNat ≤ 5 := by
  rcases (dutyKind_iff k).1 h with rfl | rfl | rfl | rfl | rfl <;> decide

theorem dutyKind_control {k : Byte} (h : 5 < k.toNat) : dutyKind k = false := by
  by_contra hk
  have := dutyKind_toNat (Bool.not_eq_false _ ▸ hk)
  omega

theorem stepD_dutyKind {l : Nat} (h : dutyKind i.kind = true) : stepD l i = none := by
  have hfixed : fixedLevel i.kind = none := by
    rcases (dutyKind_iff _).1 h with h | h | h | h | h <;> rw [h] <;> rfl
  rw [stepD, hfixed]

theorem stepD_unlock {l : Nat} (hk : i.kind = kUnlock) (hl : 0 < l) : stepD l i = some Cause.kindForbidden := by
  simp [stepD, fixedLevel, hk, hl]

/-- A duty kind by a defined reference, gate OPEN, TRAIN references from level 0 and 1 only: no check A to D refuses. -/
theorem stepsAtoD_dutyKind {l : Nat} (hk : dutyKind i.kind = true) (hr1 : 1 ≤ i.refKind.toNat)
    (hr3 : i.refKind.toNat ≤ 3) (hl : i.refKind ≠ 1 ∨ l ≤ 1) : stepsAtoD true l i = none := by
  obtain ⟨h1, h5⟩ := dutyKind_toNat hk
  have hC : stepC l i = none := by
    by_cases hr : i.refKind = 1
    · exact stepC_train hr (hl.resolve_left (not_not.2 hr))
    · exact stepC_table hr hk
  simp [stepsAtoD, stepA_defined h1 (by omega) hr1 hr3, stepB_open, hC, stepD_dutyKind hk]

end

/-! ### An item decided (R22) -/

section
variable {s : State} {src : Source} {i : Item}

theorem decideItem_refusedAtoD {c : Cause} (h : stepsAtoD s.gateOpen src.level i = some c) :
    (s.decideItem src i).1 = s.raise ((itemInfo src i).refusal c) := by
  simp only [State.decideItem, h, State.refuse]

theorem decideItem_unresolved (h : stepsAtoD s.gateOpen src.level i = none) {u : State} {f : Failure}
    (hr : s.resolve i = (u, .error f)) :
    (s.decideItem src i).1 = u.raise ({ itemInfo src i with duty := f.duty }.refusal f.cause) := by
  simp only [State.decideItem, h, hr, State.refuse]

theorem decideItem_refusedFtoI (h : stepsAtoD s.gateOpen src.level i = none) {u : State} {r : Resolution}
    (hr : s.resolve i = (u, .ok r)) {c : Cause} (hc : stepsFtoI u src i r = some c) :
    (s.decideItem src i).1 = u.raise (((itemInfo src i).resolved r).refusal c) := by
  simp only [State.decideItem, h, hr, hc, State.refuse]

theorem decideItem_handedOn (h : stepsAtoD s.gateOpen src.level i = none) {u : State} {r : Resolution}
    (hr : s.resolve i = (u, .ok r)) (hc : stepsFtoI u src i r = none) : s.decideItem src i = u.handOn src i r := by
  simp only [State.decideItem, h, hr, hc]

end

/-! ### Step E (R29 to R31) -/

section
variable {s : State} {n : Nat}

theorem resolveTrain_configured {t : TrainId} (ht : t.val = n) (hc : (s.cfg t).configured = true) :
    resolveTrain s n = .ok { train := t, duty := none, allow := 7, limit := none, desk := none } := by
  subst ht
  simp [resolveTrain, hc]

theorem resolveTrain_missing (h : ∀ t : TrainId, t.val = n → (s.cfg t).configured = false) :
    resolveTrain s n = .error { cause := Cause.trainUnconfigured } := by
  unfold resolveTrain
  split
  next hn => simp [h ⟨n, hn⟩ rfl]
  · rfl

/-- The causes a reference can fail to resolve with. -/
def resolutionCause (c : Cause) : Prop :=
  c = Cause.positionUnused ∨ c = Cause.positionNull ∨ c = Cause.dutyUnused ∨ c = Cause.trainUnconfigured

theorem resolutionCause_ne {c : Cause} (h : resolutionCause c) : c ≠ Cause.kindIllegal := by
  rcases h with rfl | rfl | rfl | rfl <;> decide

theorem walkDuty_error {u : DutyId} {c : Cause} (h : walkDuty s u = .error c) : resolutionCause c := by
  simp only [walkDuty] at h
  split at h
  · cases h; simp [resolutionCause]
  · split at h
    · cases h; simp [resolutionCause]
    · cases h

theorem walkFromDuty_error {f : Failure} (h : walkFromDuty s n = .error f) : resolutionCause f.cause := by
  unfold walkFromDuty at h
  split at h
  · split at h
    next c hc => cases h; exact walkDuty_error hc
    · cases h
  · cases h; simp [resolutionCause]

theorem walkFromPosition_error {f : Failure} (h : walkFromPosition s n = .error f) : resolutionCause f.cause := by
  unfold walkFromPosition at h
  split at h
  · dsimp only at h
    split at h
    · cases h; simp [resolutionCause]
    · cases h; simp [resolutionCause]
    · split at h
      next c hc => cases h; exact walkDuty_error hc
      · cases h
  · cases h; simp [resolutionCause]

theorem walk_error {b : Bool} {f : Failure} (h : walk s b n = .error f) : resolutionCause f.cause := by
  cases b with
  | true => exact walkFromPosition_error h
  | false => exact walkFromDuty_error h

theorem lookup_error {b : Bool} {f : Failure} (h : (s.lookup b n).2 = .error f) : resolutionCause f.cause := by
  cases hfind : cacheFind s b n with
  | some w =>
    cases hc : (s.cfg (s.cache.get (cacheIndex (cacheSet n) w)).train).configured with
    | true => rw [lookup_hit_configured hfind hc] at h; cases h
    | false => rw [lookup_hit_unconfigured hfind hc] at h; cases h; simp [resolutionCause]
  | none =>
    cases hw : walk s b n with
    | error g => rw [lookup_miss_error hfind hw] at h; cases h; exact walk_error hw
    | ok r => rw [lookup_miss_ok hfind hw] at h; cases h

/-- A resolution request changes the cache and its LRU indicators only. -/
theorem lookup_frame (b : Bool) : (s.lookup b n).1 =
    { s with cache := (s.lookup b n).1.cache, lru := (s.lookup b n).1.lru } := by
  cases hfind : cacheFind s b n with
  | some w =>
    cases hc : (s.cfg (s.cache.get (cacheIndex (cacheSet n) w)).train).configured with
    | true => rw [lookup_hit_configured hfind hc]; rfl
    | false => rw [lookup_hit_unconfigured hfind hc]; rfl
  | none =>
    cases hw : walk s b n with
    | error g => rw [lookup_miss_error hfind hw]
    | ok r => rw [lookup_miss_ok hfind hw]; rfl

end

section
variable {s : State} {i : Item}

theorem resolve_error {f : Failure} (h : (s.resolve i).2 = .error f) : resolutionCause f.cause := by
  unfold State.resolve at h
  split at h
  · unfold resolveTrain at h
    dsimp only at h
    split at h
    · split at h
      · cases h
      · cases h; simp [resolutionCause]
    · cases h; simp [resolutionCause]
  · exact lookup_error h

theorem resolve_frame : (s.resolve i).1 = { s with cache := (s.resolve i).1.cache, lru := (s.resolve i).1.lru } := by
  unfold State.resolve
  split
  · rfl
  · exact lookup_frame _

end

/-! ### Steps F to I (R32 to R41) -/

/-- A chain of checks as one decision: the first condition that holds refuses. -/
theorem ite_some_or {α : Type} (p : Prop) [Decidable p] (c : α) (o : Option α) :
    (if p then some c else none).or o = if p then some c else o := by
  split <;> rfl

section
variable {i : Item} (r : Resolution)

theorem stepG_stop (m : Mode) (hk : i.kind = kStop) : stepG i r m = none := by
  simp [stepG, quantityKind, hk]

/-- A code that is neither CHARGE nor GENERATE names no run mode. -/
theorem ofCode_mode_other {w : Word} (h1 : w ≠ 1) (h2 : w ≠ 2) :
    ofCode modeListing w = some none ∨ ofCode modeListing w = none := by
  have h1' : w.toNat ≠ 1 := fun h => h1 (BitVec.eq_of_toNat_eq h)
  have h2' : w.toNat ≠ 2 := fun h => h2 (BitVec.eq_of_toNat_eq h)
  by_cases h0 : w.toNat = 0
  · exact .inl (by simp [ofCode, modeListing, h0])
  · exact .inr (List.getElem?_eq_none (by simp [modeListing]; omega))

theorem stepG_start (m : Mode) (hk : i.kind = kStart) : stepG i r m =
    if i.auxA ≠ 1 ∧ i.auxA ≠ 2 then some Cause.modeMismatch
    else if i.auxA = 1 ∧ ¬ r.allow.getLsbD 1 = true then some (deniedCause i)
    else if i.auxA = 2 ∧ ¬ r.allow.getLsbD 0 = true then some (deniedCause i)
    else none := by
  unfold stepG
  rw [if_pos hk]
  by_cases h1 : i.auxA = 1
  · rw [h1]
    show (if r.allow.getLsbD 1 then none else some (deniedCause i)) = _
    cases r.allow.getLsbD 1 <;> simp
  · by_cases h2 : i.auxA = 2
    · rw [h2]
      show (if r.allow.getLsbD 0 then none else some (deniedCause i)) = _
      cases r.allow.getLsbD 0 <;> simp
    · rw [if_pos ⟨h1, h2⟩]
      rcases ofCode_mode_other h1 h2 with h | h <;> rw [h]

/-- The sign of a POWER value that is wrong for a run mode (R34). -/
def against (i : Item) (m : RunMode) : Prop :=
  i.kind = kPower ∧ if i.refKind = 3 then (0 < i.value.toInt ∧ m = .charge) ∨ (i.value.toInt < 0 ∧ m = .generate)
    else i.value.toInt < 0

theorem against_iff (m : RunMode) : against i m ↔ i.kind = kPower ∧ signMismatch i m = true := by
  unfold against signMismatch
  by_cases hr : i.refKind = 3 <;> cases m <;> simp [hr]

/-- Step G before what follows it (R33, R34): a START without a mode, its direction denied, the engaged direction of a
quantity denied, and the sign of a POWER value.  The conditions are named by the caller. -/
theorem stepG_or (hk : dutyKind i.kind = true) (m : Mode) (rest : Option Cause)
    {noMode noCharge noGenerate denied sign : Prop} [Decidable noMode] [Decidable noCharge] [Decidable noGenerate]
    [Decidable denied] [Decidable sign]
    (hnoMode : noMode ↔ i.kind = kStart ∧ i.auxA ≠ 1 ∧ i.auxA ≠ 2)
    (hnoCharge : noCharge ↔ i.kind = kStart ∧ i.auxA = 1 ∧ ¬ r.allow.getLsbD 1 = true)
    (hnoGenerate : noGenerate ↔ i.kind = kStart ∧ i.auxA = 2 ∧ ¬ r.allow.getLsbD 0 = true)
    (hdenied : denied ↔ (i.kind = kPower ∨ i.kind = kReactive ∨ i.kind = kReheat) ∧
      ((m = some .charge ∧ ¬ r.allow.getLsbD 1 = true) ∨ (m = some .generate ∧ ¬ r.allow.getLsbD 0 = true)))
    (hsign : sign ↔ (m = some .charge ∧ against i .charge) ∨ (m = some .generate ∧ against i .generate)) :
    (stepG i r m).or rest =
      if noMode then some Cause.modeMismatch
      else if noCharge then some (deniedCause i)
      else if noGenerate then some (deniedCause i)
      else if denied then some (deniedCause i)
      else if sign then some Cause.modeMismatch
      else rest := by
  have quantity (hq : i.kind = kPower ∨ i.kind = kReactive ∨ i.kind = kReheat)
      (hsome : (quantityKind i.kind).isSome = true) (hs : i.kind ≠ kStart) : (stepG i r m).or rest =
        if denied then some (deniedCause i) else if sign then some Cause.modeMismatch else rest := by
    unfold stepG
    rw [if_neg hs, if_pos hsome]
    cases m with
    | none => simp [hdenied, hsign]
    | some x =>
      have hden : denied ↔ ¬ r.allow.getLsbD x.member = true := by
        rw [hdenied, and_iff_right hq]
        cases x <;> simp [RunMode.member]
      have hsig : sign ↔ i.kind = kPower ∧ signMismatch i x = true := by cases x <;> simp [hsign, against_iff]
      simp only [hden, hsig, Bool.not_eq_true', Bool.not_eq_true]
      split
      · rfl
      · split <;> rfl
  rcases (dutyKind_iff _).1 hk with h | h | h | h | h
  · rw [quantity (.inl h) (by rw [h]; rfl) (by rw [h]; decide)]
    simp [hnoMode, hnoCharge, hnoGenerate, h]
  · rw [quantity (.inr (.inl h)) (by rw [h]; rfl) (by rw [h]; decide)]
    simp [hnoMode, hnoCharge, hnoGenerate, h]
  · rw [quantity (.inr (.inr h)) (by rw [h]; rfl) (by rw [h]; decide)]
    simp [hnoMode, hnoCharge, hnoGenerate, h]
  · have hden : ¬ denied := by simp [hdenied, h]
    have hsig : ¬ sign := by simp [hsign, against, h]
    rw [stepG_start r m h]
    simp only [hnoMode, hnoCharge, hnoGenerate, h, hden, hsig, true_and, if_false]
    split
    · rfl
    · split
      · rfl
      · split <;> rfl
  · rw [stepG_stop r m h]
    simp [hnoMode, hnoCharge, hnoGenerate, hdenied, hsign, against, h]

theorem stepH_or (s : State) (src : Source) (t : TrainId) (hk : i.kind ≠ kTrip) (rest : Option Cause) :
    (stepH s src i t).or rest =
      if (s.cfg t).ceiling < src.level ∧ s.permits src.entry t i.kind = false then some Cause.notPermitted else rest := by
  have hfree : ((decide (src.level ≤ (s.cfg t).ceiling)) || s.permits src.entry t i.kind) = true ↔
      ¬ ((s.cfg t).ceiling < src.level ∧ s.permits src.entry t i.kind = false) := by
    simp only [Bool.or_eq_true, decide_eq_true_eq, not_and_or, Nat.not_lt, Bool.not_eq_false]
  simp only [stepH, if_neg hk, hfree, ite_not, ite_some_or]

theorem stepI_dutyKind (s : State) (t : TrainId) (hk : dutyKind i.kind = true) :
    stepI s i t = if s.reachable t = false then some Cause.trainUnreachable else none := by
  simp [stepI, needsReach, hk]

end

/-- The causes of the steps F to I; KIND_ILLEGAL, whose fault names the kind, is none of them. -/
theorem stepsFtoI_ne {s : State} {src : Source} {i : Item} {r : Resolution} {c : Cause}
    (h : stepsFtoI s src i r = some c) : c ≠ Cause.kindIllegal := by
  rintro rfl
  have hF : stepF src i r ≠ some Cause.kindIllegal := by
    unfold stepF
    split
    exacts [by decide, nofun]
  have hden : some (deniedCause i) ≠ some Cause.kindIllegal := by
    unfold deniedCause
    split <;> decide
  have hG (m : Mode) : stepG i r m ≠ some Cause.kindIllegal := by
    unfold stepG
    repeat' split
    exacts [nofun, hden, by decide, nofun, hden, by decide, nofun, nofun]
  have hH : stepH s src i r.train ≠ some Cause.kindIllegal := by
    unfold stepH
    dsimp only
    repeat' split
    all_goals nofun
  have hI : stepI s i r.train ≠ some Cause.kindIllegal := by
    unfold stepI
    split
    exacts [by decide, nofun]
  simp [stepsFtoI, Option.or_eq_some_iff, hF, hG, hH, hI] at h

/-! ### A quantity placed (R43, R57, R73, R76) -/

section
variable (s : State)

theorem admitQuantity_manual {t : TrainId} {k : DriveKind} (level : Nat) (q : Request)
    (hr : (s.run t).state = .running) (hk : k ≠ .reheat) (ha : ¬ (k = .power ∧ (s.run t).auto = true)) :
    s.admitQuantity t k level q = (s, .ok none) := by
  simp only [State.admitQuantity, hr, hk, ha, ne_eq, not_true_eq_false, false_and, if_false]

theorem placeOffer_merged (o : Offer) (hr : (s.run o.train).state = .running) (hg : s.gateOpen = true)
    (hm : (s.queue.entries.any o.matches) = true) :
    s.placeOffer o = ((s.modRun o.train fun r => r.place o.kind o.value).modQueue fun q =>
      { q with entries := q.entries.map fun e => if o.matches e then e.merge o else e }, .merged) := by
  unfold State.placeOffer
  rw [if_neg (not_not.2 hr), hg, if_neg (by decide)]
  exact if_pos hm

theorem placeOffer_admitted (o : Offer) (hr : (s.run o.train).state = .running) (hg : s.gateOpen = true)
    (ho : o.origin = .admitted) (hm : ¬ (s.queue.entries.any o.matches) = true)
    (hroom : s.queue.entries.length < admittedDepth) :
    s.placeOffer o = ((s.modRun o.train fun r => r.place o.kind o.value).modQueue fun q => q.append o, .new) := by
  unfold State.placeOffer
  rw [if_neg (not_not.2 hr), hg, if_neg (by decide)]
  dsimp only
  rw [if_neg hm, if_pos ho, if_pos hroom]

/-- An offer whose placing changes the queue alone leaves the ports and the queue to what departs. -/
theorem offer_of_placeOffer {o : Offer} {x : State} {f : Queue → Queue} {a : Answer}
    (h : s.placeOffer o = (x.modQueue f, a)) : ∃ l q, s.offer o = ({ x with link := l, queue := q }, a) := by
  refine ⟨(x.modQueue f).settle.link, (x.modQueue f).settle.queue, ?_⟩
  rw [State.offer, h]
  exact congrArg (fun u => (u, a)) (settle_frame (x.modQueue f))

/-- An ADMITTED offer of a RUNNING train with the gate OPEN that merges or finds a place. -/
theorem offer_placed (o : Offer) (hr : (s.run o.train).state = .running) (hg : s.gateOpen = true)
    (ho : o.origin = .admitted)
    (hroom : (s.queue.entries.any o.matches) = true ∨ s.queue.entries.length < admittedDepth) :
    ∃ l q a, s.offer o = ({ s.modRun o.train (fun r => r.place o.kind o.value) with link := l, queue := q }, a) ∧
      (a = .merged ∨ a = .new) := by
  by_cases hm : (s.queue.entries.any o.matches) = true
  · obtain ⟨l, q, h⟩ := offer_of_placeOffer s (placeOffer_merged s o hr hg hm)
    exact ⟨l, q, .merged, h, .inl rfl⟩
  · obtain ⟨l, q, h⟩ := offer_of_placeOffer s (placeOffer_admitted s o hr hg ho hm (hroom.resolve_left hm))
    exact ⟨l, q, .new, h, .inr rfl⟩

theorem limitedValue_power (i : Item) (r : Resolution) :
    (s.limitedValue .power r (askedValue .power i)).natAbs =
      min (min i.value.toInt.natAbs (min (r.limit.getD ((s.cfg r.train).rated (s.run r.train).engaged))
        ((s.cfg r.train).rated (s.run r.train).engaged))) (s.powerCap r.train) := by
  have hvalue : s.limitedValue .power r (askedValue .power i) =
      (min (min i.value.toInt.natAbs (min (r.limit.getD ((s.cfg r.train).rated (s.run r.train).engaged))
        ((s.cfg r.train).rated (s.run r.train).engaged))) (s.powerCap r.train) : Nat) := by
    cases hl : r.limit <;> simp [State.limitedValue, askedValue, hl]
  rw [hvalue, Int.natAbs_natCast]

/-- POWER admitted in MANUAL with a place for it: the set value of its train, the queue and what departs change. -/
theorem quantity_power_placed (src : Source) (i : Item) (r : Resolution) (hr : (s.run r.train).state = .running)
    (ha : (s.run r.train).auto = false) (hg : s.gateOpen = true)
    (hroom : (s.queue.entries.any fun e => e.train == r.train && e.kind == .power) = true ∨
      s.queue.entries.length < admittedDepth) :
    ∃ l q, (s.quantity src i r .power).1 = { s.modRun r.train (fun x =>
      { x with power := (s.limitedValue .power r (askedValue .power i)).natAbs }) with link := l, queue := q } := by
  have hadmit (q : Request) : s.admitQuantity r.train .power src.level q = (s, .ok none) :=
    admitQuantity_manual s src.level q hr (by decide) (by simp [ha])
  obtain ⟨l, q, a, hoffer, hanswer⟩ := offer_placed s
    { train := r.train, kind := .power, value := s.limitedValue .power r (askedValue .power i), origin := .admitted,
      station := some src.address, seq := some src.seq, tag := i.tag,
      clamped := decide (s.limitedValue .power r (askedValue .power i) ≠ askedValue .power i) } hr hg rfl hroom
  refine ⟨l, q, ?_⟩
  simp only [State.quantity, hadmit, State.reheated, reduceCtorEq, if_false, hoffer]
  rcases hanswer with rfl | rfl <;> rfl

end

end Sys2Proof.Machine
end

section
/-! PROOF. The refusals of admission and the placing of POWER (O18). -/

namespace Sys2Proof.Machine

/-! ### A refused item is one fault (R44) -/

section
variable {s : State} {h : Header} {src : Source} {i : Item} (hd : s.dispatches h src) (hq : wantsReply h = false)
include hd hq

theorem exec_refusedAtoD {c : Cause} (hc : stepsAtoD s.gateOpen src.level i = some c) (hne : c ≠ Cause.kindIllegal) :
    exec (.dispatch h [i]) s = .next (s.raise (dispatchFaultInfo src i c)) := by
  rw [exec_dispatch_one hd hq, decideItem_refusedAtoD hc, refusal_itemInfo hne]

theorem exec_kindIllegal (hc : stepsAtoD s.gateOpen src.level i = some Cause.kindIllegal) :
    exec (.dispatch h [i]) s =
      .next (s.raise { dispatchFaultInfo src i Cause.kindIllegal with detail := some (i.kind.setWidth 32) }) := by
  rw [exec_dispatch_one hd hq, decideItem_refusedAtoD hc, refusal_of_kindIllegal]

theorem exec_unresolved (hpass : stepsAtoD s.gateOpen src.level i = none) {f : Failure}
    (hr : (s.resolve i).2 = .error f) : exec (.dispatch h [i]) s =
      .next ((s.resolve i).1.raise { dispatchFaultInfo src i f.cause with duty := f.duty }) := by
  rw [exec_dispatch_one hd hq, decideItem_unresolved hpass (Prod.ext rfl hr),
    refusal_of_other _ (resolutionCause_ne (resolve_error hr))]
  rfl

theorem exec_refusedFtoI (hpass : stepsAtoD s.gateOpen src.level i = none) {x : Resolution}
    (hr : (s.resolve i).2 = .ok x) {c : Cause} (hc : stepsFtoI (s.resolve i).1 src i x = some c) :
    exec (.dispatch h [i]) s = .next ((s.resolve i).1.raise
      { dispatchFaultInfo src i c with train := some x.train, duty := x.duty }) := by
  rw [exec_dispatch_one hd hq, decideItem_refusedFtoI hpass (Prod.ext rfl hr) hc, refusal_resolved _ (stepsFtoI_ne hc)]

theorem exec_handedOn (hpass : stepsAtoD s.gateOpen src.level i = none) {x : Resolution}
    (hr : (s.resolve i).2 = .ok x) (hc : stepsFtoI (s.resolve i).1 src i x = none) :
    exec (.dispatch h [i]) s = .next ((s.resolve i).1.handOn src i x).1 := by
  rw [exec_dispatch_one hd hq, decideItem_handedOn hpass (Prod.ext rfl hr) hc]

end

/-- The resolution of a TRAIN reference, as a search for the configured train of that number (R29). -/
theorem resolveTrain_eq_find (s : State) (n : Nat) :
    resolveTrain s n = match (fins 6).find? fun t => t.val == n && (s.cfg t).configured with
      | some t => .ok { train := t, duty := none, allow := 7, limit := none, desk := none }
      | none => .error { cause := Cause.trainUnconfigured } := by
  cases hfind : (fins 6).find? fun t => t.val == n && (s.cfg t).configured with
  | some t =>
    obtain ⟨hn, hc⟩ : t.val = n ∧ (s.cfg t).configured = true := by simpa using List.find?_some hfind
    exact resolveTrain_configured hn hc
  | none =>
    refine resolveTrain_missing fun t ht => ?_
    simpa [ht] using List.find?_eq_none.1 hfind t (mem_fins t)

/-- What stands where one train's running condition, the ports and the queue change. -/
theorem kept_of_modRun {s u : State} {t : TrainId} {f : TrainRun → TrainRun} {l : Link} {q : Queue}
    (h : u = { s.modRun t f with link := l, queue := q }) :
    othersKept s u t ∧ tablesKept s u ∧ u.faults = s.faults ∧ u.cache = s.cache ∧ u.run t = f (s.run t) := by
  subst h
  exact ⟨othersKept_of_trainsMod (modRun_trains s t f), tablesKept_refl s, rfl, rfl, State.run_modRun_same s t f⟩

/-- POWER that passed the checks, its train RUNNING in MANUAL with a place for it: its set value is the asked magnitude
within the limits, the train's other fields, the other trains, the tables, the faults and the cache stand. -/
theorem handOn_power_placed (s : State) (src : Source) (i : Item) (r : Resolution) (hk : i.kind = kPower)
    (hr : (s.run r.train).state = .running) (ha : (s.run r.train).auto = false) (hg : s.gateOpen = true)
    (hroom : (s.queue.entries.any fun e => e.train == r.train && e.kind == .power) = true ∨
      s.queue.entries.length < admittedDepth) :
    let u := (s.handOn src i r).1
    othersKept s u r.train ∧ tablesKept s u ∧ u.faults = s.faults ∧ u.cache = s.cache ∧
      u.run r.train = { s.run r.train with
        power := min (min i.value.toInt.natAbs (min (r.limit.getD ((s.cfg r.train).rated (s.run r.train).engaged))
          ((s.cfg r.train).rated (s.run r.train).engaged))) (s.powerCap r.train) } := by
  obtain ⟨link, queue, hplaced⟩ := quantity_power_placed s src i r hr ha hg hroom
  have hquantity : s.handOn src i r = s.quantity src i r .power := by
    rw [State.handOn, hk]
    rfl
  rw [limitedValue_power] at hplaced
  exact kept_of_modRun ((congrArg Prod.fst hquantity).trans hplaced)

/-- Settles O18: steps A to D by their cases, then the resolution, then steps F to I as one chain of conditions, and POWER
that passes them placed by the sequencer and the queue. -/
theorem admissionRefusals : Obligations.AdmissionRefusals := by
  refine ⟨fun h i s src hd hq hg h1 h11 hr1 hr3 hk => ?_, fun h i s src hd hq => ?_,
    fun h i s src hd hq hg hkinds hr1 hr3 hl => ?_⟩
  · refine exec_refusedAtoD hd hq ?_ (by decide)
    simp [stepsAtoD, stepA_defined h1 h11 hr1 hr3, hg, stepB_closed hk]
  · intro refused here k
    refine ⟨fun hbad => exec_kindIllegal hd hq ?_,
      fun hg h1 h11 => ⟨fun hr hk hl => ?_, fun hr hk => ?_, fun hr hk hl => ?_⟩⟩
    · simp [stepsAtoD, stepA_undefined hbad]
    · refine exec_refusedAtoD (c := Cause.refForbidden) hd hq ?_ (by decide)
      simp [stepsAtoD, stepA_defined h1 h11 (by simp [hr]) (by simp [hr]), hg, stepB_open, stepC_train_refused hr hk hl]
    · have hr' : i.refKind ≠ 1 ∧ 1 ≤ i.refKind.toNat ∧ i.refKind.toNat ≤ 3 := by
        rcases hr with hr | hr <;> rw [hr] <;> decide
      obtain ⟨hne, hr1, hr3⟩ := hr'
      refine exec_kindIllegal hd hq ?_
      simp [stepsAtoD, stepA_defined h1 h11 hr1 hr3, hg, stepB_open, stepC_table_refused hne (dutyKind_control hk)]
    · refine exec_refusedAtoD (c := Cause.kindForbidden) hd hq ?_ (by decide)
      simp [stepsAtoD, stepA_defined h1 h11 (by simp [hr]) (by simp [hr]), hg, stepB_open,
        stepC_train hr (Nat.le_of_eq hl), stepD_unlock hk (by omega : 0 < src.level)]
  · have hkind : dutyKind i.kind = true := (dutyKind_iff _).2 hkinds
    have hpass : stepsAtoD s.gateOpen src.level i = none := by
      rw [hg]
      exact stepsAtoD_dutyKind hkind hr1 hr3 hl
    intro here r
    have hr : s.resolve i = r := by
      show (if i.refKind = 1 then _ else _) = _
      split
      next hone =>
        rw [resolveTrain_eq_find]
        exact (if_pos hone).symm
      next hone => exact (if_neg hone).symm
    obtain ⟨c, l, hframe⟩ : ∃ c l, r.1 = { s with cache := c, lru := l } := ⟨_, _, hr ▸ resolve_frame⟩
    refine ⟨fun f hf => ?_, fun x hx => ?_⟩
    · rw [← hr] at hf ⊢
      exact exec_unresolved hd hq hpass hf
    · intro v quantity denied allowed engaged against first
      have hfirst : stepsFtoI (s.resolve i).1 src i x = first := by
        rw [hr, hframe]
        show (stepF src i x).or ((stepG i x (s.run x.train).engaged).or
          ((stepH s src i x.train).or (stepI s i x.train))) = first
        rw [stepF, ite_some_or, stepH_or s src x.train (by rintro hk; rw [hk] at hkind; cases hkind),
          stepI_dutyKind s x.train hkind]
        exact if_congr Iff.rfl rfl (stepG_or x hkind _ _ Iff.rfl Iff.rfl Iff.rfl Iff.rfl Iff.rfl)
      refine ⟨fun c hc => ?_, fun m hnone hpower heng hrun hauto hroom => ?_⟩
      · rw [← hr] at hx ⊢
        exact exec_refusedFtoI hd hq hpass hx (hfirst.trans hc)
      · have hexec : here = .next (r.1.handOn src i x).1 := by
          rw [← hr] at hx ⊢
          exact exec_handedOn hd hq hpass hx (hfirst.trans hnone)
        obtain ⟨hothers, htables, hfaults, hcache, hplaced⟩ :=
          handOn_power_placed { s with cache := c, lru := l } src i x hpower hrun hauto hg hroom
        rw [hframe] at hexec ⊢
        refine ⟨_, hexec, hothers, htables, hfaults, hcache, ?_⟩
        rw [show some m = (s.run x.train).engaged from heng.symm]
        exact hplaced

end Sys2Proof.Machine
end

section
/-! PROOF. Writes judged item by item, and the tables stored whole (O47). -/

namespace Sys2Proof.Machine

/-! ### The items of a request (R179) -/

theorem mem_of_mem_lastWrites {f : Field} {fs : List Field} (h : f ∈ lastWrites fs) : f ∈ fs := by
  induction fs with
  | nil => exact h
  | cons g rest ih =>
    rw [lastWrites] at h
    split at h
    · exact List.mem_cons_of_mem _ (ih h)
    · rcases List.mem_cons.1 h with rfl | h
      · exact List.mem_cons_self
      · exact List.mem_cons_of_mem _ (ih h)

theorem entry_eq_some {n : Nat} {f : Field} {i : Fin n} (h : f.index.toNat = i.val) : Field.entry f n = some i := by
  obtain ⟨k, hk⟩ := i
  subst h
  exact dif_pos hk

theorem entry_some {n : Nat} {f : Field} {i : Fin n} (h : Field.entry f n = some i) : f.index.toNat = i.val := by
  unfold Field.entry at h
  split at h
  · cases h; rfl
  · cases h

theorem entry_none_iff {n : Nat} {f : Field} : Field.entry f n = none ↔ n ≤ f.index.toNat := by
  unfold Field.entry
  split
  next h => simp [h]
  next h => simpa using h

section
variable {n : Nat} {α : Type} (T : Table n α)

/-! ### The table as it would stand -/

theorem store_get_other {v : Vector α n} {f : Field} {i : Fin n} (h : f.index.toNat ≠ i.val) :
    (T.store v f).get i = v.get i := by
  unfold Table.store
  split
  · rfl
  next j hj =>
    have hij : i ≠ j := by
      rintro rfl
      exact h (entry_some hj)
    split
    · exact upd_get_ne _ _ _ _ hij
    · rfl

theorem stored_get_other {fs : List Field} {v : Vector α n} {i : Fin n} (h : ∀ f ∈ fs, f.index.toNat ≠ i.val) :
    (fs.foldl T.store v).get i = v.get i := by
  induction fs generalizing v with
  | nil => rfl
  | cons f rest ih =>
    rw [List.foldl_cons, ih fun g hg => h g (List.mem_cons_of_mem _ hg),
      store_get_other T (h f List.mem_cons_self)]

theorem modified_get_other {l : List (Fin n)} {g : Fin n → α → α} {v : Vector α n} {i : Fin n} (h : i ∉ l) :
    (l.foldl (fun w j => modAt w j (g j)) v).get i = v.get i := by
  induction l generalizing v with
  | nil => rfl
  | cons j rest ih =>
    obtain ⟨hj, hrest⟩ := not_or.1 (mt List.mem_cons.2 h)
    rw [List.foldl_cons, ih hrest, modAt_get, if_neg hj]

/-- Entries a request does not name stand. -/
theorem after_get_other {fs : List Field} {v : Vector α n} {i : Fin n} (h : ∀ f ∈ fs, f.index.toNat ≠ i.val) :
    (T.after v fs).get i = v.get i := by
  have hnot : i ∉ writtenEntries n fs := by
    rw [mem_writtenEntries]
    rintro ⟨f, hf, hfi⟩
    exact h f hf hfi
  rw [Table.after, modified_get_other hnot, stored_get_other T h]

theorem writtenEntries_single {f : Field} {i : Fin n} (h : f.index.toNat = i.val) : writtenEntries n [f] = [i] := by
  have hp (j : Fin n) : ([f].any fun g => g.index.toNat == j.val) = decide (j = i) := by
    rw [List.any_cons, List.any_nil, Bool.or_false, Bool.eq_iff_iff, beq_iff_eq, decide_eq_true_eq, h, Fin.ext_iff, eq_comm]
  rw [writtenEntries, List.filter_congr fun j _ => hp j, fins_eq_finRange, List.filter_eq, List.count_finRange]
  rfl

/-- The table after a request of one item whose value is accepted. -/
theorem after_single {v : Vector α n} {f : Field} {i : Fin n} {e : α} (h : f.index.toNat = i.val)
    (hput : T.put i f.number.toNat f.value (v.get i) = some e) :
    T.after v [f] = upd v i (T.fix [f.number.toNat] e) := by
  have hstore : T.store v f = upd v i e := by
    simp only [Table.store, entry_eq_some h, hput]
  have hfields : writtenFields [f] i = [f.number.toNat] := by simp [writtenFields, h]
  rw [Table.after, writtenEntries_single h, List.foldl_cons, List.foldl_nil, List.foldl_cons, List.foldl_nil, hstore,
    hfields, modAt, upd_get_same]
  simp [upd]

/-! ### The first refusal in item order -/

theorem itemRefusal_badIndex {w : Vector α n} {f : Field} (rest : List Field) (h : n ≤ f.index.toNat) :
    T.itemRefusal w f rest = some .badIndex := by
  rw [Table.itemRefusal, entry_none_iff.2 h]

theorem itemRefusal_badNumber {w : Vector α n} {f : Field} (rest : List Field) (h : f.index.toNat < n)
    (hf : T.fields ≤ f.number.toNat) : T.itemRefusal w f rest = some .badValue := by
  simp only [Table.itemRefusal, entry_eq_some (i := ⟨f.index.toNat, h⟩) rfl, if_pos hf]

/-- A refused item is refused BAD_INDEX exactly where its index lies beyond the table, else BAD_VALUE. -/
theorem itemRefusal_cause {w : Vector α n} {f : Field} {rest : List Field} {c : MCause}
    (h : T.itemRefusal w f rest = some c) :
    (c = .badIndex ∨ c = .badValue) ∧ (c = .badIndex ↔ n ≤ f.index.toNat) := by
  by_cases hi : n ≤ f.index.toNat
  · rw [itemRefusal_badIndex T rest hi] at h
    cases h
    exact ⟨.inl rfl, by simp [hi]⟩
  · have hc : c = .badValue := by
      simp only [Table.itemRefusal, entry_eq_some (i := ⟨f.index.toNat, Nat.not_le.1 hi⟩) rfl] at h
      split at h
      · cases h; rfl
      · split at h
        · cases h
        · split at h
          · cases h; rfl
          · cases h
    subst hc
    exact ⟨.inr rfl, by simp [hi]⟩

theorem firstRefusal_some {w : Vector α n} {fs : List Field} {c : MCause} (h : T.firstRefusal w fs = some c) :
    ∃ f ∈ fs, ∃ rest, T.itemRefusal w f rest = some c := by
  induction fs with
  | nil => cases h
  | cons f rest ih =>
    rw [Table.firstRefusal] at h
    split at h
    next d hd =>
      cases h
      exact ⟨f, List.mem_cons_self, rest, hd⟩
    next =>
      obtain ⟨g, hg, r, hr⟩ := ih h
      exact ⟨g, List.mem_cons_of_mem _ hg, r, hr⟩

theorem firstRefusal_head {w : Vector α n} {f : Field} {rest : List Field} {c : MCause}
    (h : T.itemRefusal w f rest = some c) : T.firstRefusal w (f :: rest) = some c := by
  rw [Table.firstRefusal, h]

theorem firstRefusal_ne_none {w : Vector α n} {fs : List Field} {f : Field} (hf : f ∈ fs)
    (h : ∀ rest, T.itemRefusal w f rest ≠ none) : T.firstRefusal w fs ≠ none := by
  induction fs with
  | nil => cases hf
  | cons g rest ih =>
    rw [Table.firstRefusal]
    split
    · simp
    next hg =>
      rcases List.mem_cons.1 hf with rfl | hf
      · exact absurd hg (h rest)
      · exact ih hf

/-! ### A request judged -/

theorem judge_error {v : Vector α n} {fs : List Field} {c : MCause}
    (h : T.firstRefusal (T.after v (lastWrites fs)) fs = some c) : T.judge v fs = .error { cause := c } := by
  simp only [Table.judge, h]

theorem judge_accepted {v : Vector α n} {fs : List Field} (h : T.firstRefusal (T.after v (lastWrites fs)) fs = none) :
    ∃ l, T.judge v fs = .ok (T.after v (lastWrites fs), l) := by
  simp only [Table.judge, h]
  exact ⟨_, rfl⟩

theorem judge_refused {v : Vector α n} {fs : List Field} {r : MRefusal} (h : T.judge v fs = .error r) :
    r.place = none ∧ T.firstRefusal (T.after v (lastWrites fs)) fs = some r.cause := by
  cases hc : T.firstRefusal (T.after v (lastWrites fs)) fs with
  | none =>
    obtain ⟨l, hl⟩ := judge_accepted T hc
    rw [hl] at h
    cases h
  | some c =>
    rw [judge_error T hc] at h
    cases h
    exact ⟨rfl, rfl⟩

/-- A request of one item is accepted where its value is stored and the entry it leaves is good. -/
theorem judge_single {v : Vector α n} {f : Field} {i : Fin n} {e : α} (h : f.index.toNat = i.val)
    (hnum : f.number.toNat < T.fields) (hput : T.put i f.number.toNat f.value (v.get i) = some e)
    (hagain : T.put i f.number.toNat f.value (T.fix [f.number.toNat] e) ≠ none)
    (hgood : T.bad f.number.toNat (T.fix [f.number.toNat] e) = false) :
    ∃ l, T.judge v [f] = .ok (upd v i (T.fix [f.number.toNat] e), l) := by
  have hafter : T.after v (lastWrites [f]) = upd v i (T.fix [f.number.toNat] e) := after_single T h hput
  have hnone : T.firstRefusal (T.after v (lastWrites [f])) [f] = none := by
    rw [hafter]
    simp [Table.firstRefusal, Table.itemRefusal, entry_eq_some h, Nat.not_le.2 hnum, superseded, hgood, hagain]
  rw [← hafter]
  exact judge_accepted T hnone

end

/-! ### Writes that store their table (R28, R40, R95, R171) -/

theorem judged_error {n : Nat} {α : Type} {j : Except MRefusal (Vector α n × List Item)} {r : MRefusal}
    (whole : Vector α n → Option MRefusal) (accept : Vector α n → State) (h : j = .error r) :
    judged j whole accept = .error r := by
  rw [h]
  rfl

theorem judged_accepted {n : Nat} {α : Type} {j : Except MRefusal (Vector α n × List Item)} {w : Vector α n}
    {l : List Item} {whole : Vector α n → Option MRefusal} (accept : Vector α n → State) (h : j = .ok (w, l))
    (hw : whole w = none) : judged j whole accept = .ok (accept w, l) := by
  simp only [judged, h, hw]

theorem judged_inconsistent {n : Nat} {α : Type} {j : Except MRefusal (Vector α n × List Item)} {w : Vector α n}
    {l : List Item} {whole : Vector α n → Option MRefusal} {r : MRefusal} (accept : Vector α n → State)
    (h : j = .ok (w, l)) (hw : whole w = some r) : judged j whole accept = .error r := by
  simp only [judged, h, hw]

section
variable {h : Header} {fs : List Field} {s : State} {m : Manager} (hm : s.managerOf h = some m) (hfs : fs.length ≤ 15)
include hm hfs

theorem exec_writeDuties (hl : m.level ≤ 1) :
    exec (.writeDuties h fs) s = .next (s.finishWrite m (s.writeDuties fs)) :=
  congrArg Host.Outcome.next (arriveManage_accepted hm (by omega) (by omega) nofun hl)

theorem exec_writePermissions (hl : m.level ≤ 1) :
    exec (.writePermissions h fs) s = .next (s.finishWrite m (s.writePermissions fs)) :=
  congrArg Host.Outcome.next (arriveManage_accepted hm (by omega) (by omega) nofun hl)

theorem exec_writeBands (hl : m.level ≤ 1) :
    exec (.writeBands h fs) s = .next (s.finishWrite m (s.writeBands fs)) :=
  congrArg Host.Outcome.next (arriveManage_accepted hm (by omega) (by omega) nofun hl)

theorem exec_writeRoutes (hl : m.level = 0) :
    exec (.writeRoutes h fs) s = .next (s.finishWrite m (s.writeRoutes fs)) :=
  congrArg Host.Outcome.next (arriveManage_accepted hm (by omega) (by omega) nofun (Nat.le_of_eq hl))

theorem exec_writePositions (hl : m.level ≤ 2) :
    exec (.writePositions h fs) s = .next (s.finishWrite m (s.writePositions m.desk fs)) :=
  congrArg Host.Outcome.next (arriveManage_accepted hm (by omega) (by omega) nofun hl)

end

/-! ### Bands that do not ascend (R95) -/

/-- A band whose bound is lower than that of the band before it in its cavern. -/
def descends (w : Vector Band 16) (j : Fin 16) : Prop :=
  ∃ i : Fin 16, j.val = i.val + 1 ∧ j.val ≠ 8 ∧ (w.get j).bound < (w.get i).bound

theorem descendingBand_test (w : Vector Band 16) (j : Fin 16) :
    (j.val % 8 != 0 && decide ((w.get j).bound < (w.get ⟨j.val - 1, by omega⟩).bound)) = true ↔ descends w j := by
  simp only [Bool.and_eq_true, bne_iff_ne, decide_eq_true_eq, descends]
  constructor
  · rintro ⟨hj, hlt⟩
    exact ⟨_, by simp; omega, by omega, hlt⟩
  · rintro ⟨i, hji, h8, hlt⟩
    have hi : i = ⟨j.val - 1, by omega⟩ := Fin.ext (by simp; omega)
    rw [← hi]
    exact ⟨by omega, hlt⟩

theorem descendingBand_none {w : Vector Band 16} (h : ∀ j, ¬ descends w j) : descendingBand w = none :=
  find_fins_none fun j => mt (descendingBand_test w j).1 (h j)

theorem descendingBand_least {w : Vector Band 16} {j : Fin 16} (h : leastIndex (descends w) j) :
    descendingBand w = some j :=
  find_fins_of_least ⟨(descendingBand_test w j).2 h.1, fun k hk => mt (descendingBand_test w k).1 (h.2 k hk)⟩

/-! ### The desk test (R27) -/

theorem deskTest_iff (v w : Vector Position 128) (d : StationId) (fs : List Field) : deskTest v w d fs = true ↔
    ∀ i : Fin 128, (∃ f ∈ fs, f.index.toNat = i.val) →
      ((v.get i).state = .unused ∨ (v.get i).desk = some d) ∧ (w.get i).desk = some d := by
  simp [deskTest, mem_writtenEntries]

theorem writePositions_level {s : State} {desk : Option StationId} {fs : List Field} {d : StationId}
    (hdesk : desk = some d)
    (h : ¬ deskTest s.positions (positionTable.after s.positions (lastWrites fs)) d fs = true) :
    s.writePositions desk fs = .error (refusal .level) := by
  subst hdesk
  simp [State.writePositions, h]

theorem writePositions_passed {s : State} {desk : Option StationId} {fs : List Field}
    (h : ∀ d, desk = some d → deskTest s.positions (positionTable.after s.positions (lastWrites fs)) d fs = true) :
    s.writePositions desk fs =
      judged (positionTable.judge s.positions fs) (fun _ => none) fun w => { s with positions := w } := by
  cases desk with
  | none => simp [State.writePositions]
  | some d => simp [State.writePositions, h d rfl]

/-- Judging holds what R179 says of every table. -/
theorem judge_of_every_table {n : Nat} {α : Type} (T : Table n α) (v : Vector α n) (fs : List Field) :
    (T.judge v [] = .ok (v, [])) ∧
    (∀ r, T.judge v fs = .error r → r.place = none ∧ (r.cause = .badIndex ∨ r.cause = .badValue) ∧
      ∃ f ∈ fs, (r.cause = .badIndex ↔ n ≤ f.index.toNat)) ∧
    ((∃ f ∈ fs, n ≤ f.index.toNat ∨ T.fields ≤ f.number.toNat) → ∃ r, T.judge v fs = .error r) ∧
    (∀ w l i, T.judge v fs = .ok (w, l) → (∀ f ∈ fs, f.index.toNat ≠ (i : Fin n).val) → w.get i = v.get i) := by
  refine ⟨?_, fun r hr => ?_, ?_, fun w l i hw hnamed => ?_⟩
  · have hempty : writtenEntries n [] = [] := by simp [writtenEntries]
    simp [Table.judge, Table.after, hempty, lastWrites, Table.firstRefusal]
  · obtain ⟨hplace, hc⟩ := judge_refused T hr
    obtain ⟨f, hf, rest, hitem⟩ := firstRefusal_some T hc
    obtain ⟨hcause, hindex⟩ := itemRefusal_cause T hitem
    exact ⟨hplace, hcause, f, hf, hindex⟩
  · rintro ⟨f, hf, hbad⟩
    have hrefused (w : Vector α n) (rest : List Field) : T.itemRefusal w f rest ≠ none := by
      by_cases hi : n ≤ f.index.toNat
      · rw [itemRefusal_badIndex T rest hi]; nofun
      · rw [itemRefusal_badNumber T rest (Nat.not_le.1 hi) (hbad.resolve_left hi)]; nofun
    obtain ⟨c, hc⟩ := Option.ne_none_iff_exists'.1 (firstRefusal_ne_none T hf (hrefused (T.after v (lastWrites fs))))
    exact ⟨_, judge_error T hc⟩
  · rw [Table.judge_ok T v w fs l hw]
    exact after_get_other T fun f hf => hnamed f (mem_of_mem_lastWrites hf)

/-- A request whose first item names no entry or no field is refused with that item's cause. -/
theorem judge_first_item {n : Nat} {α : Type} (T : Table n α) (v : Vector α n) (fs : List Field) (f : Field) :
    (n ≤ f.index.toNat → T.judge v (f :: fs) = .error { cause := .badIndex }) ∧
    (f.index.toNat < n → T.fields ≤ f.number.toNat → T.judge v (f :: fs) = .error { cause := .badValue }) :=
  ⟨fun h => judge_error T (firstRefusal_head T (itemRefusal_badIndex T fs h)),
    fun h hf => judge_error T (firstRefusal_head T (itemRefusal_badNumber T fs h hf))⟩

/-- Settles O47: the judge's rules for every table, then each write as its judged table, its whole-table test and its
reply. -/
theorem writesAreJudgedAndStored : Obligations.WritesAreJudgedAndStored := by
  refine ⟨fun n α T v fs => ?_, fun h fs s m hm hfs => ?_⟩
  · obtain ⟨hempty, herror, hbad, hkept⟩ := judge_of_every_table T v fs
    exact ⟨hempty, herror, hbad, fun f => (judge_first_item T v fs f).1, fun f => (judge_first_item T v fs f).2, hkept,
      fun f i e => judge_single T⟩
  · intro refuse stored
    have refused {c : Instr} {w : Write} {r : MRefusal} (hc : exec c s = .next (s.finishWrite m w)) (hw : w = .error r) :
        exec c s = refuse r := by rw [hc, hw]; rfl
    have accepted {c : Instr} {w : Write} {t : State} {l : List Item} (hc : exec c s = .next (s.finishWrite m w))
        (hw : w = .ok (t, l)) : exec c s = stored t l := by rw [hc, hw]; rfl
    refine ⟨fun hl => ?_, fun hl => ?_, fun hl => ?_⟩
    · refine ⟨fun r hr => refused (exec_writeDuties hm hfs hl) (judged_error _ _ hr),
        fun w l hw => accepted (exec_writeDuties hm hfs hl) (judged_accepted _ hw rfl),
        fun r hr => refused (exec_writePermissions hm hfs hl) (judged_error _ _ hr),
        fun w l hw => accepted (exec_writePermissions hm hfs hl) (judged_accepted _ hw rfl),
        fun r hr => refused (exec_writeBands hm hfs hl) (judged_error _ _ hr),
        fun w l hw => ⟨fun hopen => ?_, fun j hg hj => ?_⟩⟩
      · refine accepted (exec_writeBands hm hfs hl) (judged_accepted _ hw ?_)
        rcases hopen with hg | hasc
        · simp [hg]
        · rw [descendingBand_none hasc]
          exact ite_self _
      · refine refused (exec_writeBands hm hfs hl) (judged_inconsistent _ hw ?_)
        rw [descendingBand_least hj, if_pos hg]
        rfl
    · exact ⟨fun r hr => refused (exec_writeRoutes hm hfs hl) (judged_error _ _ hr),
        fun w l hw => accepted (exec_writeRoutes hm hfs hl) (judged_accepted _ hw rfl)⟩
    · intro named free
      have hexec := exec_writePositions hm hfs hl
      have anyone {d : StationId} (hnone : m.desk = none) (hd : m.desk = some d) :
          deskTest s.positions (positionTable.after s.positions (lastWrites fs)) d fs = true := by
        rw [hnone] at hd; cases hd
      refine ⟨fun r hr => ?_, fun w l hw => ?_⟩
      · refine ⟨fun hnone => refused hexec ?_, ?_⟩
        · rw [writePositions_passed fun d => anyone hnone]
          exact judged_error _ _ hr
        · by_cases hpass : ∀ d, m.desk = some d →
              deskTest s.positions (positionTable.after s.positions (lastWrites fs)) d fs = true
          · refine .inl (refused hexec ?_)
            rw [writePositions_passed hpass]
            exact judged_error _ _ hr
          · obtain ⟨d, hfail⟩ := not_forall.1 hpass
            obtain ⟨hd, hfail⟩ := Classical.not_imp.1 hfail
            exact .inr (refused hexec (writePositions_level hd hfail))
      · have hafter : positionTable.after s.positions (lastWrites fs) = w := (Table.judge_ok _ _ _ _ _ hw).symm
        refine ⟨fun hnone => accepted hexec ?_, fun d hd => ⟨fun hown => accepted hexec ?_, fun i hi hnot => ?_⟩⟩
        · rw [writePositions_passed fun d => anyone hnone]
          exact judged_accepted _ hw rfl
        · have hpass : deskTest s.positions (positionTable.after s.positions (lastWrites fs)) d fs = true := by
            rw [hafter]
            exact (deskTest_iff _ _ _ _).2 hown
          rw [writePositions_passed fun d' hd' => by rw [hd] at hd'; cases hd'; exact hpass]
          exact judged_accepted _ hw rfl
        · refine refused hexec (writePositions_level hd ?_)
          rw [hafter, deskTest_iff]
          exact fun hall => hnot (hall i hi)

end Sys2Proof.Machine
end

section
/-! PROOF. Control items of a DISPATCH by a TRAIN reference: handed to the sequencer, and its requests at rest, of control
and of STOP and TRIP_RESET (O21). -/

namespace Sys2Proof.Machine

/-! ### A control item handed to the sequencer (R22 to R42) -/

/-- What a TRAIN reference to a configured train resolves to (R29). -/
def trainResolution (t : TrainId) : Resolution := { train := t, duty := none, allow := 7, limit := none, desk := none }

/-- The request a control item by a TRAIN reference makes of the sequencer (R42). -/
def controlRequest (src : Source) (i : Item) (t : TrainId) : Request :=
  { item := (itemInfo src i).resolved (trainResolution t)
    ref := some { station := src.address, seq := src.seq, tag := i.tag } }

section
variable {s : State} {h : Header} {src : Source} {i : Item} {t : TrainId}

theorem quantityKind_control (h4 : 4 ≤ i.kind.toNat) : quantityKind i.kind = none := by
  have hne {k : Byte} (hk : k.toNat < 4) : i.kind ≠ k := by
    rintro rfl
    omega
  rw [quantityKind, if_neg (hne (by decide)), if_neg (hne (by decide)), if_neg (hne (by decide))]

/-- Only UNLOCK has a fixed level below 1 (R26). -/
theorem stepD_control (hl : src.level ≤ 1) (hunlock : i.kind = kUnlock → src.level = 0) : stepD src.level i = none := by
  unfold stepD fixedLevel
  by_cases hk : i.kind = kUnlock
  · simp [hk, hunlock hk]
  · rw [if_neg hk]
    split
    next m hm =>
      split at hm
      · cases hm
        exact if_neg (by omega)
      · cases hm
    next => rfl

/-- A TRAIN reference allows both directions (R29, R33). -/
theorem stepG_control (h4 : 4 ≤ i.kind.toNat) (hmode : i.kind = kStart → i.auxA = 1 ∨ i.auxA = 2) (e : Mode) :
    stepG i (trainResolution t) e = none := by
  by_cases hk : i.kind = kStart
  · rw [stepG_start _ _ hk]
    rcases hmode hk with ha | ha <;> simp [ha, trainResolution]
  · unfold stepG
    rw [if_neg hk, quantityKind_control h4]
    rfl

theorem stepI_control (hreach : i.kind = kStart ∨ i.kind = kStop ∨ i.kind = kTripReset → s.reachable t = true)
    (h4 : 4 ≤ i.kind.toNat) : stepI s i t = none := by
  refine if_neg ?_
  rw [Bool.and_eq_true, Bool.not_eq_true', not_and]
  intro hneeds
  have hkind : i.kind = kStart ∨ i.kind = kStop ∨ i.kind = kTripReset := by
    rcases Bool.or_eq_true_iff.1 hneeds with hd | hr
    · rcases (dutyKind_iff _).1 hd with hk | hk | hk | hk | hk
      · rw [hk] at h4; exact absurd h4 (by decide)
      · rw [hk] at h4; exact absurd h4 (by decide)
      · rw [hk] at h4; exact absurd h4 (by decide)
      · exact .inl hk
      · exact .inr (.inl hk)
    · exact .inr (.inr (eq_of_beq hr))
  simp [hreach hkind]

section
variable (hd : s.dispatches h src) (hq : wantsReply h = false)
include hd hq

/-- A control item by a TRAIN reference that passes the steps B to D, H and I reaches the sequencer. -/
theorem exec_command (h4 : 4 ≤ i.kind.toNat) (h11 : i.kind.toNat ≤ 11) (hr : i.refKind = 1) (ht : i.refId.toNat = t.val)
    (hcfg : (s.cfg t).configured = true) (hB : stepB s.gateOpen i = none) (hC : stepC src.level i = none)
    (hD : stepD src.level i = none) (hmode : i.kind = kStart → i.auxA = 1 ∨ i.auxA = 2)
    (hH : stepH s src i t = none) (hI : stepI s i t = none) :
    exec (.dispatch h [i]) s = .next (s.command src i (trainResolution t)).1 := by
  have hpass : stepsAtoD s.gateOpen src.level i = none := by
    simp [stepsAtoD, stepA_defined (by omega) h11 (by simp [hr]) (by simp [hr]), hB, hC, hD]
  have hresolve : s.resolve i = (s, .ok (trainResolution t)) := by
    rw [State.resolve, if_pos hr, resolveTrain_configured ht.symm hcfg]
    rfl
  have hF : stepF src i (trainResolution t) = none := if_neg (by simp [hr])
  have hchecks : stepsFtoI s src i (trainResolution t) = none := by
    show (stepF src i _).or ((stepG i (trainResolution t) (s.run t).engaged).or ((stepH s src i t).or (stepI s i t))) = none
    rw [hF, stepG_control h4 hmode, hH, hI]
    rfl
  rw [exec_dispatch_one hd hq, decideItem_handedOn hpass hresolve hchecks, State.handOn, quantityKind_control h4]

/-- A control item other than TRIP within the levels of its kind and its train (R52). -/
theorem exec_control (hc : s.controls src i t) {k : Byte} (hk : i.kind = k)
    (hkind : 4 ≤ k.toNat ∧ k.toNat ≤ 11 ∧ k ≠ kTrip) (hunlock : k = kUnlock → src.level = 0)
    (hmode : k = kStart → i.auxA = 1 ∨ i.auxA = 2)
    (hreach : k = kStart ∨ k = kStop ∨ k = kTripReset → s.reachable t = true) :
    exec (.dispatch h [i]) s = .next (s.command src i (trainResolution t)).1 := by
  subst hk
  obtain ⟨hg, hl, hceiling, hcfg, hr, ht⟩ := hc
  obtain ⟨h4, h11, htrip⟩ := hkind
  have hB : stepB s.gateOpen i = none := by rw [hg, stepB_open]
  have hH : stepH s src i t = none := by rw [stepH, if_neg htrip, decide_eq_true hceiling]; rfl
  exact exec_command hd hq h4 h11 hr ht hcfg hB (stepC_train hr hl) (stepD_control hl hunlock) hmode hH
    (stepI_control hreach h4)

end

end

/-! ### The sequencer's request of each kind (R42) -/

section
variable {s : State} {src : Source} {i : Item} {t : TrainId}

theorem command_stop (hk : i.kind = kStop) :
    (s.command src i (trainResolution t)).1 = (s.requestStopNow t none (controlRequest src i t)).1 := by
  rw [State.command, hk]; rfl
theorem command_trip (hk : i.kind = kTrip) :
    (s.command src i (trainResolution t)).1 = (s.requestTrip t (controlRequest src i t)).1 := by
  rw [State.command, hk]; rfl
theorem command_tripReset (hk : i.kind = kTripReset) :
    (s.command src i (trainResolution t)).1 = (s.requestReset t (controlRequest src i t)).1 := by
  rw [State.command, hk]; rfl
theorem command_auto (hk : i.kind = kAuto) :
    (s.command src i (trainResolution t)).1 = (s.requestControl t true (controlRequest src i t)).1 := by
  rw [State.command, hk]; rfl
theorem command_manual (hk : i.kind = kManual) :
    (s.command src i (trainResolution t)).1 = (s.requestControl t false (controlRequest src i t)).1 := by
  rw [State.command, hk]; rfl
theorem command_lock (hk : i.kind = kLock) :
    (s.command src i (trainResolution t)).1 = (s.requestLock t (controlRequest src i t)).1 := by
  rw [State.command, hk]; rfl
theorem command_unlock (hk : i.kind = kUnlock) :
    (s.command src i (trainResolution t)).1 = (s.requestUnlock t (controlRequest src i t)).1 := by
  rw [State.command, hk]; rfl

/-- A START's aux A is the code of its mode (R53). -/
theorem command_start {m : RunMode} (hk : i.kind = kStart) (hm : i.auxA = match m with | .charge => 1 | .generate => 2) :
    (s.command src i (trainResolution t)).1 = (s.requestStart t m (controlRequest src i t)).1 := by
  rw [State.command, hk, hm]
  cases m <;> rfl

/-- A request refused: one fault and the train's last cause (R49). -/
theorem seqRefuse_control (c : Cause) : (s.seqRefuse t (controlRequest src i t) c).1 =
    (s.modRun t fun r => { r with lastCause := some c }).raise
      { dispatchFaultInfo src i c with train := some t } := rfl

end

/-! ### Requests that change one train record only (R60, R65) -/

section
variable {s : State} {t : TrainId} {q : Request}

theorem modRun_modRun (f g : TrainRun → TrainRun) : (s.modRun t f).modRun t g = s.modRun t fun r => g (f r) := by
  simp only [modRun_frame, trainsMod_trainsMod]

theorem modRun_congr {f g : TrainRun → TrainRun} (h : f (s.run t) = g (s.run t)) : s.modRun t f = s.modRun t g :=
  congrArg (fun v => { s with trains := v }) (trainsMod_congr h)

/-- From a state that holds neither reservations nor a claim nor set values, an entry writes state and run mode. -/
theorem enter_of_resting {new : TrainState} (hheat : (s.run t).state.holdsHeat = false)
    (hclaim : (s.run t).state.holdsClaim = false) (hnew : new ≠ .unknown) :
    s.enter t new = s.modRun t fun r => { r with state := new, mode := if new.noRunMode then none else r.mode } := by
  have hrun : (s.run t).state ≠ .running := by
    intro h
    rw [h] at hclaim
    cases hclaim
  simp [State.enter, hheat, hclaim, hrun, hnew]

theorem requestControl_known (h : (s.run t).state ≠ .unknown) (auto : Bool) :
    (s.requestControl t auto q).1 = s.modRun t fun r => { r with auto := auto } := by
  rw [State.requestControl, if_neg h]

theorem requestControl_unknown (h : (s.run t).state = .unknown) (auto : Bool) :
    s.requestControl t auto q = s.seqRefuse t q Cause.trainState := if_pos h

theorem requestLock_standstill (h : (s.run t).state = .standstill) :
    (s.requestLock t q).1 = s.modRun t fun r => { r with state := .locked, mode := none, lock := true } := by
  have hentered : s.enter t .locked = s.modRun t fun r => { r with state := .locked, mode := none } :=
    enter_of_resting (by rw [h]; rfl) (by rw [h]; rfl) (by decide)
  simp only [State.requestLock, h, hentered, modRun_modRun]

theorem requestLock_locked (h : (s.run t).state = .locked) : (s.requestLock t q).1 = s := by
  simp only [State.requestLock, h]

theorem requestLock_refused (hs : (s.run t).state ≠ .standstill) (hl : (s.run t).state ≠ .locked) :
    s.requestLock t q = s.seqRefuse t q Cause.trainState := by
  unfold State.requestLock
  split
  next h => exact absurd h hs
  next h => exact absurd h hl
  next => rfl

theorem requestUnlock_locked (h : (s.run t).state = .locked) : (s.requestUnlock t q).1 =
    s.modRun t fun r => { r with state := .standstill, mode := none, failures := 0, lock := false } := by
  have hstate : ((s.modRun t fun r => { r with failures := 0, lock := false }).run t).state = .locked := by
    rw [State.run_modRun_same, h]
  rw [State.requestUnlock, if_pos h]
  dsimp only
  rw [enter_of_resting (by rw [hstate]; rfl) (by rw [hstate]; rfl) (by decide), modRun_modRun]
  rfl

theorem requestUnlock_refused (h : (s.run t).state ≠ .locked) :
    s.requestUnlock t q = s.seqRefuse t q Cause.trainState := if_neg h

end

/-! ### STOP (R58) -/

section
variable {s : State} {t : TrainId}

/-- A train that begins to stop gives up its set values where it was RUNNING, and its run mode stands. -/
theorem stopped_eq (r : TrainRun) (n : Nat) : r.stopped n =
    { r with state := .stopping
             timer := some (.stop, n * 1000)
             power := if r.state = .running then 0 else r.power
             reactive := if r.state = .running then 0 else r.reactive
             reheat := if r.state = .running then 0 else r.reheat } := by
  by_cases h : r.state = .running <;> simp [TrainRun.stopped, TrainRun.entered, TrainState.noRunMode, seconds, h]

/-- The states a STOP request moves (R58). -/
def TrainState.stoppable (st : TrainState) : Prop := st = .engaging ∨ st = .starting ∨ st = .running

theorem stoppable_holdsHeat {st : TrainState} (h : st.stoppable) : st.holdsHeat = true := by
  rcases h with rfl | rfl | rfl <;> rfl

theorem requestStopNow_rests (h : (s.run t).state = .standstill ∨ (s.run t).state = .stopping ∨ (s.run t).state = .locked)
    (c : Option Cause) (q : Request) : (s.requestStopNow t c q).1 = s := by
  rcases h with h | h | h <;> simp only [State.requestStopNow, h]

theorem requestStopNow_refused (h : (s.run t).state = .unknown ∨ (s.run t).state = .tripped) (c : Option Cause)
    (q : Request) : s.requestStopNow t c q = s.seqRefuse t q Cause.trainState := by
  rcases h with h | h <;> simp only [State.requestStopNow, h]

theorem requestStopNow_silent (h : (s.run t).state.stoppable) (q : Request) :
    (s.requestStopNow t none q).1 = (s.beginStop t q.ref).1 := by
  rcases h with h | h | h <;> simp only [State.requestStopNow, h]

theorem requestStopNow_caused (h : (s.run t).state.stoppable) (c : Cause) (q : Request) :
    (s.requestStopNow t (some c) q).1 = (s.beginStop t q.ref).1.seqRaise t { cause := c } := by
  rcases h with h | h | h <;> simp only [State.requestStopNow, h]

theorem beginStop_releases (h : (s.run t).state.stoppable) (ref : Option ItemRef) :
    (s.beginStop t ref).1.reservations = s.reservations.filter fun r => r.train != t := by
  rw [beginStop_reservations, if_pos (stoppable_holdsHeat h)]
  rfl

end

/-! ### TRIP_RESET (R64) -/

section
variable {s : State} {t : TrainId} {q : Request}

theorem requestReset_lineActive (h : (s.run t).state = .tripped) (hp : s.ptrip = true) :
    s.requestReset t q = s.seqRefuse t q Cause.tripLineActive := by
  rw [State.requestReset, if_neg (not_not.2 h), if_pos hp]

/-- A TRIP_RESET taken: reset requested, and its command placed. -/
theorem requestReset_taken (h : (s.run t).state = .tripped) (hp : s.ptrip = false) : (s.requestReset t q).1 =
    ((s.modRun t fun r => { r with reset := true }).placeCommand t .tripReset 0 q.ref).1.settle := by
  simp only [State.requestReset, h, hp, ne_eq, not_true_eq_false, if_false, Bool.false_eq_true]

end

/-- Settles O21: each kind is one request of the sequencer, each request one case of the train's state, and what a stop
changes is what `beginStop` writes. -/
theorem controlLockAndResetRequests : Obligations.ControlLockAndResetRequests := by
  refine ⟨fun h i s src t hd hq hc => ?_, fun h i s src t hd hq hc hk hreach hst => ?_⟩
  · intro here refused
    have control (auto : Bool) (hk : i.kind = if auto then kAuto else kManual) :
        here = .next (s.requestControl t auto (controlRequest src i t)).1 := by
      cases auto with
      | true => rw [← command_auto hk]; exact exec_control hd hq hc hk (by decide) nofun nofun nofun
      | false => rw [← command_manual hk]; exact exec_control hd hq hc hk (by decide) nofun nofun nofun
    have lock (hk : i.kind = kLock) : here = .next (s.requestLock t (controlRequest src i t)).1 := by
      rw [← command_lock hk]
      exact exec_control hd hq hc hk (by decide) nofun nofun nofun
    have unlock (hk : i.kind = kUnlock) (hl : src.level = 0) :
        here = .next (s.requestUnlock t (controlRequest src i t)).1 := by
      rw [← command_unlock hk]
      exact exec_control hd hq hc hk (by decide) (fun _ => hl) nofun nofun
    refine ⟨fun hk hst => ?_, fun hk hst => ?_, fun hk hst => ?_, fun hk hst => ?_, fun hk hst => ?_,
      fun hk hs hl => ?_, fun hk hl hst => ?_, fun hk hl hst => ?_, fun hk hreach => ?_⟩
    · rw [control true hk, requestControl_known hst]
    · rw [control false hk, requestControl_known hst]
    · rcases hk with hk | hk
      · rw [control true hk, requestControl_unknown hst]; rfl
      · rw [control false hk, requestControl_unknown hst]; rfl
    · rw [lock hk, requestLock_standstill hst]
    · rw [lock hk, requestLock_locked hst]
    · rw [lock hk, requestLock_refused hs hl]; rfl
    · rw [unlock hk hl, requestUnlock_locked hst]
    · rw [unlock hk hl, requestUnlock_refused hst]; rfl
    · have hexec : here = .next (s.requestStopNow t none (controlRequest src i t)).1 := by
        rw [← command_stop hk]
        exact exec_control hd hq hc hk (by decide) nofun nofun fun _ => hreach
      rw [hexec]
      refine ⟨fun hst => ?_, fun hst => ?_, fun hst => ?_⟩
      · rw [requestStopNow_rests hst]
      · rw [requestStopNow_refused hst]; rfl
      · have htables := (tablesFrame s).requestStopNow (tablesKept_refl s) t none (controlRequest src i t)
        rw [requestStopNow_silent hst] at htables ⊢
        have htrains := beginStop_trains s t (controlRequest src i t).ref
        exact ⟨_, rfl, othersKept_of_trainsMod htrains, htables, beginStop_caverns s t _, beginStop_faults s t _,
          (run_of_trainsMod htrains).trans (stopped_eq _ _), beginStop_releases hst _⟩
  · have hexec : exec (.dispatch h [i]) s = .next (s.requestReset t (controlRequest src i t)).1 := by
      rw [← command_tripReset hk]
      exact exec_control hd hq hc hk (by decide) nofun nofun fun _ => hreach
    rw [hexec]
    refine ⟨fun hp => ?_, fun hp => ?_⟩
    · rw [requestReset_lineActive hst hp]; rfl
    · have htables := (tablesFrame s).requestReset (tablesKept_refl s) t (controlRequest src i t)
      rw [requestReset_taken hst hp] at htables ⊢
      let v := s.modRun t fun r => { r with reset := true }
      have htrains : (v.placeCommand t .tripReset 0 (controlRequest src i t).ref).1.settle.trains =
          trainsMod s.trains t fun r => { r with reset := true } := by
        rw [settle_trains, placeCommand_trains v t _ _ _ rfl, modRun_trains]
      refine ⟨_, rfl, othersKept_of_trainsMod htrains, htables, run_of_trainsMod htrains, ?_, ?_, ?_⟩
      · rw [settle_faults, placeCommand_faults v t _ _ _ rfl]; rfl
      · rw [settle_reservations, placeCommand_reservations v t _ _ _ rfl]; rfl
      · rw [settle_caverns, placeCommand_caverns v t _ _ _ rfl]; rfl

end Sys2Proof.Machine
end

section
/-! PROOF. START requests: the checks of R53 in order, the claim and the reservation, and what an accepted start leaves
(O22). -/

namespace Sys2Proof.Machine

/-! ### A grant does not read the claim (R103, R112) -/

section
variable {s : State}

/-- A state with other caverns and other waiting stop requests: what a granted claim leaves. -/
def State.withClaims (s : State) (v : Vector Cavern 2) (l : List StopRequest) : State :=
  { s with caverns := v, stopRequests := l }

/-- A grant is decided from the stores, the reservations and the trains alone. -/
theorem grantHeat_withClaims (v : Vector Cavern 2) (l : List StopRequest) (a : HeatAsk) :
    (s.withClaims v l).grantHeat a = (s.grantHeat a).map fun u => u.withClaims v l := by
  unfold State.grantHeat
  simp only [apply_ite (Except.map fun u : State => u.withClaims v l)]
  rfl

/-- R114: an amount within the heat available is granted whole. -/
theorem grantHeat_whole {a : HeatAsk} (hratio : (s.cfg a.train).heatRatio a.mode ≠ 0)
    (hconfigured : (s.store (s.cfg a.train).store).cfg.configured = true)
    (hsighted : (s.store (s.cfg a.train).store).run.condition ≠ .blind) (hroom : s.reservations.length < 10)
    (hcapacity : a.mode = .charge →
      (s.store (s.cfg a.train).store).run.stored ≤ (s.store (s.cfg a.train).store).cfg.capacity)
    {n : Nat} (hn : grantAmount a.basis ((s.cfg a.train).heatRatio a.mode)
      (s.store (s.cfg a.train).store).cfg.minGrant = n)
    (havail : n ≤ s.available (s.cfg a.train).store a.mode.heatKind) :
    s.grantHeat a = .ok (s.modReservations fun l => l ++ [s.grantRecord a n]) := by
  have hfull : ¬ reservationDepth ≤ s.reservations.length := Nat.not_le.2 hroom
  have hover : (s.store (s.cfg a.train).store).overfull a.mode.heatKind = false := by
    cases hm : a.mode with
    | charge => simpa [Store.overfull, RunMode.heatKind] using hcapacity hm
    | generate => rfl
  subst hn
  simp [State.grantHeat, hratio, hconfigured, hsighted, hfull, hover, havail]

end

/-! ### The checks of a START (R53) -/

/-- The first check before the heat account unit's that a START of a DISPATCH fails. -/
def State.startBar (s : State) (t : TrainId) (m : RunMode) : Option Cause :=
  if (s.run t).state ≠ .standstill then some Cause.trainState
  else if (s.cfg t).kind.allows m = false then some Cause.modeMismatch
  else if s.ptrip = true then some Cause.tripLineActive
  else if s.permitsStart (s.cfg t).cavern m = false then some Cause.envelopeStart
  else if (s.cavern (s.cfg t).cavern).run.direction ≠ none ∧ (s.cavern (s.cfg t).cavern).run.direction ≠ some m then
    some Cause.directionConflict
  else none

section
variable {s : State} {t : TrainId} {m : RunMode}

theorem startBar_none_iff : s.startBar t m = none ↔ (s.run t).state = .standstill ∧ (s.cfg t).kind.allows m = true ∧
    s.ptrip = false ∧ s.permitsStart (s.cfg t).cavern m = true ∧
    ((s.cavern (s.cfg t).cavern).run.direction = none ∨ (s.cavern (s.cfg t).cavern).run.direction = some m) := by
  have hclear (p : Prop) [Decidable p] (c : Cause) (o : Option Cause) :
      (if p then some c else o) = none ↔ ¬ p ∧ o = none := by
    split
    next hp => simp [hp]
    next hp => simp [hp]
  simp only [State.startBar, hclear, not_not, Bool.not_eq_false, Bool.not_eq_true, and_true, ne_eq, ← or_iff_not_imp_left,
    not_and]

variable {q : Request} (hg : s.gateOpen = true) (hq : q.schedule = none)
include hg hq

theorem startChecks_barred {c : Cause} (h : s.startBar t m = some c) : s.startChecks t m q = .error c := by
  unfold State.startBar at h
  unfold State.startChecks
  simp only [hg, hq, Option.isSome_none, Bool.false_and, Bool.not_true, Bool.false_eq_true, if_false,
    Bool.not_eq_true']
  split at h
  next hst => cases h; exact if_pos hst
  next hst =>
  rw [if_neg hst]
  split at h
  next hk => cases h; exact if_pos hk
  next hk =>
  rw [if_neg hk]
  split at h
  next hp => cases h; exact if_pos hp
  next hp =>
  rw [if_neg hp]
  split at h
  next he => cases h; exact if_pos he
  next he =>
  rw [if_neg he]
  split at h
  next hd =>
    cases h
    obtain ⟨d, hdir⟩ := Option.ne_none_iff_exists'.1 hd.1
    rw [claim_refused s t m hdir fun hdm => hd.2 (by rw [hdir, hdm])]
  next => cases h

/-- A START that passes the checks before it has its claim, and is decided by the heat account unit (R53, R103). -/
theorem startChecks_unbarred (h : s.startBar t m = none) : ∃ l, s.startChecks t m q =
    (s.grantHeat (s.foundAsk t m)).map fun u => u.withClaims (claimed s.caverns (s.cfg t).cavern t m) l := by
  obtain ⟨hst, hkind, hline, hpermits, hdir⟩ := startBar_none_iff.1 h
  obtain ⟨l, hclaim⟩ : ∃ l, s.claim t m = some (s.withClaims (claimed s.caverns (s.cfg t).cavern t m) l) :=
    claim_granted s t m hdir
  refine ⟨l, ?_⟩
  rw [← grantHeat_withClaims]
  simp only [State.startChecks, hst, hkind, hline, hpermits, hclaim, hg, hq, ne_eq, not_true_eq_false, Bool.not_true,
    Bool.false_eq_true, Option.isSome_none, Bool.false_and, if_false]
  rfl

end

/-- The cause with which the heat account unit refuses an ask, if it does. -/
def State.heatBar (s : State) (a : HeatAsk) : Option Cause :=
  match s.grantHeat a with
  | .error c => some c
  | .ok _ => none

theorem heatBar_some {s : State} {a : HeatAsk} {c : Cause} (h : s.heatBar a = some c) : s.grantHeat a = .error c := by
  unfold State.heatBar at h
  split at h
  next hc => cases h; exact hc
  next => cases h

/-- The checks in order, then the heat account unit's, as one chain. -/
theorem startBar_or (s : State) (t : TrainId) (m : RunMode) (o : Option Cause) : (s.startBar t m).or o =
    if (s.run t).state ≠ .standstill then some Cause.trainState
    else if (s.cfg t).kind.allows m = false then some Cause.modeMismatch
    else if s.ptrip = true then some Cause.tripLineActive
    else if s.permitsStart (s.cfg t).cavern m = false then some Cause.envelopeStart
    else if (s.cavern (s.cfg t).cavern).run.direction ≠ none ∧ (s.cavern (s.cfg t).cavern).run.direction ≠ some m then
      some Cause.directionConflict
    else o := by
  have hor (p : Prop) [Decidable p] (c : Cause) (x : Option Cause) :
      (if p then some c else x).or o = if p then some c else x.or o := by
    split <;> rfl
  simp only [State.startBar, hor, Option.none_or]

/-! ### An accepted START (R54) -/

/-- The running condition of a train whose START is accepted: STARTING where it is already engaged in the mode, else
ENGAGING. -/
def TrainRun.begun (r : TrainRun) (c : TrainCfg) (m : RunMode) : TrainRun :=
  if r.engaged = some m then
    { { r with mode := some m }.entered .starting with timer := some (.start, seconds c.startTimeout) }
  else { { r with mode := some m }.entered .engaging with timer := some (.engage, seconds c.engageTimeout) }

theorem begun_engaged {r : TrainRun} {m : RunMode} (h : r.engaged = some m) (c : TrainCfg) :
    (r.begun c m).state = .starting ∧ (r.begun c m).timer = some (.start, c.startTimeout * 1000) := by
  rw [TrainRun.begun, if_pos h]
  exact ⟨rfl, rfl⟩

theorem begun_disengaged {r : TrainRun} {m : RunMode} (h : r.engaged ≠ some m) (c : TrainCfg) :
    (r.begun c m).state = .engaging ∧ (r.begun c m).timer = some (.engage, c.engageTimeout * 1000) := by
  rw [TrainRun.begun, if_neg h]
  exact ⟨rfl, rfl⟩

theorem begun_keeps (r : TrainRun) (c : TrainCfg) (m : RunMode) : (r.begun c m).mode = some m ∧
    (r.begun c m).failures = r.failures ∧ (r.begun c m).engaged = r.engaged := by
  unfold TrainRun.begun
  split <;> simp [TrainState.noRunMode]

section
variable (s : State) (t : TrainId) (m : RunMode) (q : Request)

/-- A train made ready for its command: in the state, its timer started. -/
def State.poised (s : State) (t : TrainId) (m : RunMode) (new : TrainState) (k : TrainTimer) (n : Nat) : State :=
  ((s.modRun t fun r => { r with mode := some m }).enter t new).startTimer t k n

theorem startAccepted_engaged (h : (s.run t).engaged = some m) : (s.startAccepted t m q).1 =
    ((s.poised t m .starting .start (s.cfg t).startTimeout).placeCommand t .start m.value q.ref).1.settle := by
  simp only [State.startAccepted, if_pos h, State.poised]

theorem startAccepted_disengaged (h : (s.run t).engaged ≠ some m) : (s.startAccepted t m q).1 =
    ((s.poised t m .engaging .engage (s.cfg t).engageTimeout).placeCommand t .engage m.value q.ref).1.settle := by
  simp only [State.startAccepted, if_neg h, State.poised]

theorem poised_trains (new : TrainState) (k : TrainTimer) (n : Nat) : (s.poised t m new k n).trains =
    trainsMod s.trains t fun r => { { r with mode := some m }.entered new with timer := some (k, seconds n) } := by
  rw [State.poised, startTimer_frame]
  dsimp only
  rw [enter_trains, modRun_trains, trainsMod_trainsMod, trainsMod_trainsMod]

/-- A state that holds claim and reservations gives none up. -/
theorem poised_holdings {new : TrainState} (hheat : new.holdsHeat = true) (hclaim : new.holdsClaim = true) (k : TrainTimer)
    (n : Nat) : (s.poised t m new k n).caverns = s.caverns ∧ (s.poised t m new k n).reservations = s.reservations := by
  rw [State.poised, startTimer_frame]
  dsimp only
  rw [enter_caverns, enter_reservations, hheat, hclaim]
  simp

theorem startAccepted_trains :
    (s.startAccepted t m q).1.trains = trainsMod s.trains t fun r => r.begun (s.cfg t) m := by
  by_cases h : (s.run t).engaged = some m
  · rw [startAccepted_engaged s t m q h, settle_trains, placeCommand_trains _ t _ _ _ rfl, poised_trains]
    exact trainsMod_congr (if_pos h).symm
  · rw [startAccepted_disengaged s t m q h, settle_trains, placeCommand_trains _ t _ _ _ rfl, poised_trains]
    exact trainsMod_congr (if_neg h).symm

theorem startAccepted_holdings : (s.startAccepted t m q).1.caverns = s.caverns ∧
    (s.startAccepted t m q).1.reservations = s.reservations := by
  by_cases h : (s.run t).engaged = some m
  · rw [startAccepted_engaged s t m q h, settle_caverns, settle_reservations, placeCommand_caverns _ t _ _ _ rfl,
      placeCommand_reservations _ t _ _ _ rfl]
    exact poised_holdings s t m rfl rfl _ _
  · rw [startAccepted_disengaged s t m q h, settle_caverns, settle_reservations, placeCommand_caverns _ t _ _ _ rfl,
      placeCommand_reservations _ t _ _ _ rfl]
    exact poised_holdings s t m rfl rfl _ _

end

/-! ### The request (R52, R53) -/

section
variable {s : State} {t : TrainId} {m : RunMode} {q : Request} (hg : s.gateOpen = true) (hq : q.schedule = none)
include hg hq

theorem requestStart_barred {c : Cause} (h : s.startBar t m = some c) :
    s.requestStart t m q = s.seqRefuse t q c := by
  rw [State.requestStart, startChecks_barred hg hq h]

theorem requestStart_noHeat (h : s.startBar t m = none) {c : Cause} (hc : s.grantHeat (s.foundAsk t m) = .error c) :
    s.requestStart t m q = s.seqRefuse t q c := by
  obtain ⟨l, hchecks⟩ := startChecks_unbarred hg hq h
  rw [hc] at hchecks
  rw [State.requestStart, hchecks]
  rfl

/-- What an accepted START leaves: the train begun, its claim, and the reservations as granted. -/
theorem requestStart_accepted (h : s.startBar t m = none) {x : List Reservation}
    (hx : s.grantHeat (s.foundAsk t m) = .ok { s with reservations := x }) :
    (s.requestStart t m q).1.trains = trainsMod s.trains t (fun r => r.begun (s.cfg t) m) ∧
      (s.requestStart t m q).1.caverns = claimed s.caverns (s.cfg t).cavern t m ∧
      (s.requestStart t m q).1.reservations = x := by
  obtain ⟨l, hchecks⟩ := startChecks_unbarred hg hq h
  rw [hx] at hchecks
  rw [State.requestStart, hchecks]
  obtain ⟨hcaverns, hreservations⟩ := startAccepted_holdings
    (State.withClaims { s with reservations := x } (claimed s.caverns (s.cfg t).cavern t m) l) t m q
  exact ⟨startAccepted_trains _ t m q, hcaverns, hreservations⟩

end

/-- Settles O22: the request is barred, refused by the heat account unit, or accepted, and an accepted one leaves the train
begun, the claim granted and the reservation joined. -/
theorem startRequests : Obligations.StartRequests := by
  have taken {h : Header} {i : Item} {s : State} {src : Source} {t : TrainId} {m : RunMode} (hd : s.dispatches h src)
      (hq : wantsReply h = false) (hc : s.controls src i t) (hk : i.kind = kStart)
      (hm : i.auxA = match m with | .charge => 1 | .generate => 2) (hreach : s.reachable t = true) :
      exec (.dispatch h [i]) s = .next (s.requestStart t m (controlRequest src i t)).1 := by
    rw [← command_start hk hm]
    refine exec_control hd hq hc hk (by decide) nofun (fun _ => ?_) fun _ => hreach
    cases m with
    | charge => exact .inl hm
    | generate => exact .inr hm
  refine ⟨fun h i s src t m hd hq hc hk hm hreach hst hkind hline hpermits hdir => ?_,
    fun h i s src t m hd hq hc hk hm hreach => ?_⟩
  · intro k ratio amount hheat
    have hg : s.gateOpen = true := hc.1
    have hbar : s.startBar t m = none := startBar_none_iff.2 ⟨hst, hkind, hline, hpermits, hdir⟩
    obtain ⟨x, hgrant, hzero, hsome⟩ : ∃ x, s.grantHeat (s.foundAsk t m) = .ok { s with reservations := x } ∧
        (ratio = 0 → x = s.reservations) ∧
        (ratio ≠ 0 → x = s.reservations ++ [s.grantRecord (s.foundAsk t m) amount]) := by
      by_cases hr : ratio = 0
      · exact ⟨s.reservations, grantHeat_of_ratio_zero hr, fun _ => rfl, fun h => absurd hr h⟩
      · obtain ⟨hconfigured, hsighted, hroom, hcapacity, havail⟩ := hheat.resolve_left hr
        exact ⟨_, grantHeat_whole (a := s.foundAsk t m) hr hconfigured hsighted hroom hcapacity rfl havail,
          fun h => absurd h hr, fun _ => rfl⟩
    obtain ⟨htrains, hcaverns, hreservations⟩ := requestStart_accepted (q := controlRequest src i t) hg rfl hbar hgrant
    have hrun := run_of_trainsMod htrains
    obtain ⟨hmode, hfailures, hengaged⟩ := begun_keeps (s.run t) (s.cfg t) m
    refine ⟨_, taken hd hq hc hk hm hreach, othersKept_of_trainsMod htrains,
      (tablesFrame s).requestStart (tablesKept_refl s) t m _, ?_, ?_, ?_, fun he => ?_, fun he => ?_, ?_, ?_,
      fun hr => ?_, fun hr => ?_⟩
    · rw [hrun, hmode]
    · rw [hrun, hfailures]
    · rw [hrun, hengaged]
    · rw [hrun]; exact begun_engaged he _
    · rw [hrun]; exact begun_disengaged he _
    · rw [State.cavern, hcaverns, claimed_direction]
    · rw [State.cavern, hcaverns, claimed_holders]
    · rw [hreservations, hzero hr]
    · exact ⟨_, hreservations.trans (hsome hr), rfl, rfl, rfl, rfl, rfl, rfl, rfl⟩
  · intro d refused ask first c hfirst
    rw [taken hd hq hc hk hm hreach]
    have hg : s.gateOpen = true := hc.1
    have hchain : first = (s.startBar t m).or (s.heatBar (s.foundAsk t m)) := (startBar_or s t m _).symm
    suffices hr : s.requestStart t m (controlRequest src i t) = s.seqRefuse t (controlRequest src i t) c by
      rw [hr, seqRefuse_control]
    rcases Option.or_eq_some_iff.1 (hchain.symm.trans hfirst) with hb | ⟨hb, hheat⟩
    · exact requestStart_barred hg rfl hb
    · exact requestStart_noHeat hg rfl hb (heatBar_some hheat)

end Sys2Proof.Machine
end

section
/-! PROOF. TRIP requests: the DRIVE sent at once, and a moving train taken down (O23). -/

namespace Sys2Proof.Machine

/-! ### The end of an event: pacing timers and held polls (R78, R82, R88) -/

theorem releasePolls_queue (s : State) : s.releasePolls.queue =
    { s.queue with polls := s.queue.polls.filter fun p => s.queue.ahead p.train p.stamp != 0 } := by
  rw [State.releasePolls, handPolls_queue]
  rfl

theorem releasePolls_pacing (s : State) : s.releasePolls.queue.pacing = s.queue.pacing := by rw [releasePolls_queue]

theorem refillHold_pacing (q : Queue) (t : TrainId) : (q.refillHold t).pacing = q.pacing := by
  unfold Queue.refillHold
  split
  · split <;> rfl
  · rfl

theorem refillPending_pacing (q : Queue) (t : TrainId) : (q.refillPending t).pacing = q.pacing := by
  unfold Queue.refillPending
  split
  · split <;> rfl
  · rfl

theorem refill_pacing (q : Queue) : q.refill.pacing = q.pacing :=
  foldl_keeps (P := fun r : Queue => r.pacing = q.pacing) (fun r t h => (refillPending_pacing r t).trans h) _ _
    (foldl_keeps (P := fun r : Queue => r.pacing = q.pacing) (fun r t h => (refillHold_pacing r t).trans h) _ _ rfl)

/-- A train whose pacing timer runs sends nothing, so a departure leaves its timer (R78, R79). -/
theorem departOne_pacing {s u : State} {t : TrainId} {n : Nat} (hn : s.queue.pacing.get t = some n)
    (h : s.departOne = some u) : u.queue.pacing.get t = some n := by
  unfold State.departOne at h
  split at h
  · cases h
  next e he =>
    cases h
    have hne : t ≠ e.train := by
      rintro rfl
      have heligible : s.eligible e.train = true := by simpa using List.find?_some he
      simp [State.eligible, hn] at heligible
    rw [sendDrive_queue]
    exact (upd_get_ne _ _ _ _ hne).trans hn

theorem drain_pacing {t : TrainId} {n : Nat} (k : Nat) {s : State} (hn : s.queue.pacing.get t = some n) :
    (s.drain k).queue.pacing.get t = some n := by
  induction k generalizing s with
  | zero => exact hn
  | succ k ih =>
    have hrefilled : (s.modQueue Queue.refill).queue.pacing.get t = some n := by
      rw [State.modQueue_queue, refill_pacing, hn]
    unfold State.drain
    dsimp only
    split
    · exact hrefilled
    next u hu => exact ih (departOne_pacing hrefilled hu)

/-- A pacing timer that runs is left by the end of an event. -/
theorem settle_pacing {s : State} {t : TrainId} {n : Nat} (hn : s.queue.pacing.get t = some n) :
    s.settle.queue.pacing.get t = some n := by
  rw [State.settle, releasePolls_pacing]
  exact drain_pacing 7 (by rw [releasePolls_pacing, hn])

/-- Nothing stands ahead of a poll for a train with nothing in the queue (R86). -/
theorem ahead_of_clear {q : Queue} {t : TrainId} (h : q.clearOf t) (n : Nat) : q.ahead t n = 0 := by
  simp [Queue.ahead, h.entries, h.hold]

theorem releasePolls_of_clear {s : State} {t : TrainId} (h : s.queue.clearOf t) :
    ∀ p ∈ s.releasePolls.queue.polls, p.train ≠ t := by
  rw [releasePolls_queue]
  rintro p hp rfl
  have hahead := (List.mem_filter.1 hp).2
  rw [ahead_of_clear h] at hahead
  cases hahead

/-- The held polls of a train with nothing in the queue leave at the end of the event (R82, R88). -/
theorem settle_polls {s : State} {t : TrainId} (h : s.queue.clearOf t) : ∀ p ∈ s.settle.queue.polls, p.train ≠ t := by
  have hdrained : (s.releasePolls.drain 7).queue.clearOf t :=
    (clearOf_settleKeeps t).drain 7 ((clearOf_settleKeeps t).releasePolls h)
  rw [State.settle]
  exact releasePolls_of_clear hdrained

/-! ### A train taken down (R61) -/

section
variable (s : State) (t : TrainId)

theorem takeDown_caverns : (s.takeDown t).caverns =
    if (s.run t).state.holdsClaim then unclaimed s.caverns (s.cfg t).cavern t else s.caverns := by
  simp only [State.takeDown, State.modRun_caverns, cancelTimer_frame, enter_caverns, holdsClaim_tripped, Bool.not_false,
    Bool.and_true, dropTrain_run]
  rfl

theorem takeDown_queue_pacing : (s.takeDown t).queue.pacing = s.queue.pacing := by
  simp only [State.takeDown, State.modRun_queue, cancelTimer_frame, enter_queue]
  split <;> rfl

@[simp] theorem emit_cfg (p : Port) (c : Byte) (dst : HWord) (items : List Item) :
    (s.emit p c dst items).cfg t = s.cfg t := cfg_of_trains (by rw [emit_frame]) t

end

theorem takenDown_fields (r : TrainRun) : r.takenDown.state = .tripped ∧ r.takenDown.mode = none ∧
    r.takenDown.reset = false ∧ r.takenDown.timer = none ∧ r.takenDown.failures = r.failures :=
  ⟨rfl, rfl, rfl, rfl, entered_failures r .tripped⟩

/-! ### The request (R61, R62, R80) -/

section
variable (s : State) (t : TrainId) (src : Source) (i : Item)

/-- A TRIP sent for an admitted request: its station and sequence travel in aux B and aux C. -/
theorem sendTrip_admitted : s.sendTrip t .admitted (some src.address) (some src.seq) i.tag =
    (s.emit .d 0x02 (s.controller t).address
      [{ kind := 0x06, refKind := 1, refId := BitVec.ofNat 16 t.val, value := 0, auxA := 0,
         auxB := src.address.setWidth 32, auxC := src.seq.setWidth 32, flags := 0, tag := i.tag }]).modQueue
      fun q => { q with pacing := upd q.pacing t (some (s.cfg t).pacingGap) } := by
  have hvalue : num 0 = 0 := by decide
  have horigin : code originListing Origin.admitted = 0 := by decide
  simp only [State.sendTrip, State.sendDrive, State.startPacing, emit_cfg, driveItem, hvalue, horigin]
  rfl

/-- The state after the TRIP is sent. -/
def State.tripSent (s : State) (t : TrainId) (src : Source) (i : Item) : State :=
  s.sendTrip t .admitted (some src.address) (some src.seq) i.tag

theorem requestTrip_resting (h : (s.run t).state.holdsClaim = false) :
    (s.requestTrip t (controlRequest src i t)).1 = s.tripSent t src i := by
  simp only [State.requestTrip, h, Bool.false_eq_true, if_false]
  rfl

theorem requestTrip_moving (h : (s.run t).state.holdsClaim = true) : (s.requestTrip t (controlRequest src i t)).1 =
    ((s.tripSent t src i).takeDown t).settle.seqRaise t (s.tripInfo t (controlRequest src i t).item Cause.trip) := by
  simp only [State.requestTrip, h, if_true]
  rfl

end

section
variable {s : State} {h : Header} {src : Source} {i : Item} {t : TrainId}

/-- A TRIP by a TRAIN reference is judged by its level or the map alone, in either gate state (R24, R39). -/
theorem exec_trip (hd : s.dispatches h src) (hq : wantsReply h = false) (hk : i.kind = kTrip) (hr : i.refKind = 1)
    (ht : i.refId.toNat = t.val) (hcfg : (s.cfg t).configured = true)
    (hallowed : src.level ≤ 1 ∨ s.permits src.entry t kTrip = true) :
    exec (.dispatch h [i]) s = .next (s.requestTrip t (controlRequest src i t)).1 := by
  have hB : stepB s.gateOpen i = none := if_neg fun h => h.1 hk
  have hC : stepC src.level i = none := by rw [stepC, if_pos hr, if_pos (.inl hk)]
  have hD : stepD src.level i = none := by rw [stepD, hk]; rfl
  have hH : stepH s src i t = none := by
    rcases hallowed with hl | hp
    · simp [stepH, hk, hl]
    · rw [stepH, hk, hp, Bool.or_true]; rfl
  rw [← command_trip hk]
  exact exec_command hd hq (by rw [hk]; decide) (by rw [hk]; decide) hr ht hcfg hB hC hD (by rw [hk]; nofun) hH
    (stepI_control (by rw [hk]; nofun) (by rw [hk]; decide))

end

/-- Settles O23: the DRIVE is `sendTrip`'s, and a moving train is then taken down, settled and its fault raised. -/
theorem tripRequests : Obligations.TripRequests := by
  refine ⟨fun h i s src t hd hq hk hr ht hcfg hallowed hrest => ?_,
    fun h i s src t hd hq hk hr ht hcfg hallowed hmoving hholds => ?_⟩
  · rw [exec_trip hd hq hk hr ht hcfg hallowed, requestTrip_resting s t src i hrest]
    exact congrArg Host.Outcome.next (sendTrip_admitted s t src i)
  · have htables := (tablesFrame s).requestTrip (tablesKept_refl s) t (controlRequest src i t)
    rw [exec_trip hd hq hk hr ht hcfg hallowed]
    rw [requestTrip_moving s t src i hmoving] at htables ⊢
    set v := s.tripSent t src i
    have hvtrains : v.trains = s.trains := sendTrip_trains s t _ _ _ _
    have hvrun : v.run t = s.run t := run_of_trains hvtrains t
    have hvcfg : v.cfg t = s.cfg t := cfg_of_trains hvtrains t
    have hvqueue : v.queue = { s.queue with pacing := upd s.queue.pacing t (some (s.cfg t).pacingGap) } :=
      sendTrip_queue s t _ _ _ _
    have hclear : (v.takeDown t).queue.clearOf t := takeDown_clearOf v t (by rw [hvqueue]; exact holds_own hholds)
    have hsettled := (clearOf_settleKeeps t).settle hclear
    have htrains : ((v.takeDown t).settle.seqRaise t (s.tripInfo t (controlRequest src i t).item Cause.trip)).trains =
        trainsMod s.trains t fun r => { r.takenDown with lastCause := some Cause.trip } := by
      rw [seqRaise_trains, settle_trains, takeDown_trains, trainsMod_trainsMod, hvtrains]
      rfl
    have hrun := run_of_trainsMod htrains
    obtain ⟨hstate, hmode, hreset, htimer, hfailures⟩ := takenDown_fields (s.run t)
    refine ⟨_, rfl, othersKept_of_trainsMod htrains, htables, ?_, ?_, ?_, ?_, ?_, ?_, ?_, ?_, ?_, ?_, ?_,
      fun hst => ?_, ?_, ?_⟩
    · rw [hrun]; exact hstate
    · rw [hrun]; exact hmode
    · rw [hrun]; exact hreset
    · rw [hrun]; exact htimer
    · rw [hrun]; exact hfailures
    · rw [hrun]
    · rw [seqRaise_queue]; exact hsettled.entries
    · rw [seqRaise_queue]; exact hsettled.hold
    · rw [seqRaise_queue]; exact hsettled.pending
    · rw [seqRaise_queue]; exact settle_polls hclear
    · rw [seqRaise_queue]
      refine settle_pacing ?_
      rw [takeDown_queue_pacing, hvqueue]
      exact upd_get_same _ _ _
    · have hheat : (s.run t).state.holdsHeat = true := by
        revert hmoving hst
        cases (s.run t).state <;> simp [TrainState.holdsClaim, TrainState.holdsHeat]
      rw [seqRaise_reservations, settle_reservations, takeDown_reservations, hvrun, if_pos hheat]
      exact not_mem_released _ t
    · rw [State.cavern, seqRaise_caverns, settle_caverns, takeDown_caverns, hvrun, hvcfg, if_pos hmoving]
      exact unclaimed_holders _ _ t
    · rw [State.seqRaise, raise_faults, add_getLast]
      rfl

end Sys2Proof.Machine
end

section
/-! PROOF. The timers of a train and the waiting stop requests (O29). -/

namespace Sys2Proof.Machine

/-! ### What a queue lacks of a train (R55, R75, R81) -/

/-- No entry or held command of train `t` has a kind of `bad`, and no pending dispatch of it could bring one. -/
structure Queue.lacks (q : Queue) (t : TrainId) (bad : DriveKind → Prop) : Prop where
  entries : ∀ e ∈ q.entries, e.train = t → ¬ bad e.kind
  holds   : ∀ u e, q.holds.get u = some e → e.train = t → ¬ bad e.kind
  pending : bad .power → q.pendings.get t = none

theorem lacks_entriesOf {q : Queue} {t : TrainId} {bad : DriveKind → Prop} (h : q.lacks t bad) :
    ∀ e ∈ q.entriesOf t, ¬ bad e.kind := by
  intro e he
  obtain ⟨hmem, htrain⟩ := List.mem_filter.1 he
  exact h.entries e hmem (eq_of_beq htrain)

section
variable {t : TrainId} {bad : DriveKind → Prop}

theorem lacks_refillHold {q : Queue} (u : TrainId) (h : q.lacks t bad) : (q.refillHold u).lacks t bad := by
  unfold Queue.refillHold
  split
  next e he =>
    split
    · refine ⟨fun x hx => ?_, fun v x hx => h.holds v x (upd_none_some hx), h.pending⟩
      rcases List.mem_append.1 hx with hx | hx
      · exact h.entries x hx
      · rw [List.mem_singleton.1 hx]
        exact h.holds u e he
    · exact h
  next => exact h

theorem lacks_refillPending {q : Queue} (u : TrainId) (h : q.lacks t bad) : (q.refillPending u).lacks t bad := by
  unfold Queue.refillPending
  split
  next p hp =>
    split
    · refine ⟨fun x hx htrain hbad => ?_, h.holds, fun hbad => upd_none_none u (h.pending hbad)⟩
      rcases List.mem_append.1 hx with hx | hx
      · exact h.entries x hx htrain hbad
      · rw [List.mem_singleton] at hx
        subst hx
        subst htrain
        rw [h.pending hbad] at hp
        cases hp
    · exact h
  next => exact h

theorem lacks_settleKeeps (t : TrainId) (bad : DriveKind → Prop) : SettleKeeps fun q => q.lacks t bad where
  polls _ _ h := ⟨h.entries, h.holds, h.pending⟩
  refill _ h :=
    foldl_keeps (P := fun q : Queue => q.lacks t bad) (f := Queue.refillPending) (fun _ u => lacks_refillPending u) _ _
      (foldl_keeps (P := fun q : Queue => q.lacks t bad) (f := Queue.refillHold) (fun _ u => lacks_refillHold u) _ _ h)
  erase _ _ h := ⟨fun x hx => h.entries x (List.mem_of_mem_erase hx), h.holds, h.pending⟩
  pacing _ _ h := ⟨h.entries, h.holds, h.pending⟩

theorem lacks_dropQuantities {s : State} (u : TrainId) (h : s.queue.lacks t bad) :
    (s.dropQuantities u).queue.lacks t bad where
  entries x hx := h.entries x (List.mem_of_mem_filter hx)
  holds := h.holds
  pending hbad := upd_none_none u (h.pending hbad)

theorem lacks_enter {s : State} (u : TrainId) (new : TrainState) (h : s.queue.lacks t bad) :
    (s.enter u new).queue.lacks t bad := by
  rw [enter_queue]
  split
  · exact lacks_dropQuantities u h
  · exact h

theorem lacks_enterRest {s : State} (u : TrainId) (h : s.queue.lacks t bad) : (s.enterRest u).queue.lacks t bad := by
  unfold State.enterRest
  dsimp only
  split
  · rw [seqRaise_queue]
    exact lacks_enter u .locked h
  · split
    · exact lacks_enter u .locked h
    · exact lacks_enter u .standstill h

/-- A command placed of a kind that is none of `bad`. -/
theorem lacks_placeCommand {s : State} {k : DriveKind} (hk : ¬ bad k) (v : Int) (ref : Option ItemRef)
    (h : s.queue.lacks t bad) : (s.placeCommand t k v ref).1.queue.lacks t bad := by
  unfold State.placeCommand
  dsimp only
  split
  · refine ⟨fun x hx htrain => ?_, fun u x hx => h.holds u x (upd_none_some hx), h.pending⟩
    rcases List.mem_append.1 hx with hx | hx
    · exact h.entries x (List.mem_of_mem_filter hx) htrain
    · rw [List.mem_singleton.1 hx]
      exact hk
  · refine ⟨fun x hx => h.entries x (List.mem_of_mem_filter hx), fun u x hx => ?_, h.pending⟩
    dsimp only [State.modQueue] at hx
    rw [upd_get] at hx
    split at hx
    · cases hx
      exact fun _ => hk
    · exact h.holds u x (upd_none_some hx)

end

/-- Every operation of the sequencer leaves holds of their own train's commands (R75). -/
theorem holdsCommandsKept : KeepsPlant fun s => s.queue.holdsCommands where
  link _ _ _ h := h
  faults _ _ _ h := h
  tiers _ _ _ h := h
  queue _ _ _ _ hh _ h := hh h
  trains _ _ h := h
  caverns _ _ _ h := h
  reservations _ _ _ h := h
  slots _ _ _ h := h
  stopRequests _ _ h := h

/-- The hold of a train whose command of a kind is withdrawn. -/
theorem withdrawKind_hold {s : State} {t : TrainId} {k : DriveKind} {e : Entry}
    (h : (s.withdrawKind t k).queue.holds.get t = some e) : e.kind ≠ k := by
  dsimp only [State.withdrawKind, State.modQueue] at h
  split at h
  next x hx =>
    split at h
    · rw [upd_get_same] at h
      cases h
    next hk =>
      rw [hx] at h
      cases h
      exact hk
  next hnone =>
    rw [hnone] at h
    cases h

/-- R55: a command kind withdrawn waits no more. -/
theorem lacks_withdrawKind {s : State} (t : TrainId) {k : DriveKind} (hk : k ≠ .power) (hq : s.queue.holdsCommands) :
    (s.withdrawKind t k).queue.lacks t (· = k) where
  entries x hx htrain hkind := by
    have hkept := (List.mem_filter.1 hx).2
    simp [htrain, hkind] at hkept
  holds u x hx htrain hkind := by
    have hown : x.train = u := (holdsCommandsKept.withdrawKind hq t k u x hx).1
    subst htrain
    subst hown
    exact withdrawKind_hold hx hkind
  pending hpower := absurd hpower.symm hk

/-- R81: a train that drops its quantities has none in the queue, nor a pending dispatch. -/
theorem dropQuantities_lacks {s : State} (t : TrainId) (hq : s.queue.holdsCommands) :
    (s.dropQuantities t).queue.lacks t (fun k => k.isQuantity = true) where
  entries x hx htrain hkind := by
    have hkept := (List.mem_filter.1 hx).2
    simp [htrain, hkind] at hkept
  holds u x hx _ hkind := by
    rw [(hq u x hx).2] at hkind
    cases hkind
  pending _ := upd_get_same _ _ _

/-! ### The expiries (R55, R56, R59) -/

section
variable {s : State} {t : TrainId}

theorem timerRuns_of_timer {k : TrainTimer} {n : Nat} (h : (s.run t).timer = some (k, n)) : s.timerRuns t k = true := by
  simp [State.timerRuns, h]

theorem timerRuns_of_other {k : TrainTimer} (h : ∀ n, (s.run t).timer ≠ some (k, n)) : s.timerRuns t k = false := by
  unfold State.timerRuns
  split
  next j n hj =>
    rw [beq_eq_false_iff_ne]
    rintro rfl
    exact h n hj
  next => rfl

/-- R55: a failed start counted, at most 7. -/
theorem countFailure_trains (s : State) (t : TrainId) : (s.countFailure t).trains =
    trainsMod s.trains t fun r => { r with failures := min (r.failures + 1) 7 } := by
  rw [State.countFailure, modRun_trains]
  refine trainsMod_congr ?_
  have hcount (n : Nat) : (if n < 7 then n + 1 else 7) = min (n + 1) 7 := by
    split <;> omega
  simp only [hcount]

@[simp] theorem countFailure_part (s : State) (t : TrainId) : (s.countFailure t).part = s.part := rfl
@[simp] theorem withdrawKind_trains (s : State) (t : TrainId) (k : DriveKind) : (s.withdrawKind t k).trains = s.trains := rfl
@[simp] theorem withdrawKind_part (s : State) (t : TrainId) (k : DriveKind) : (s.withdrawKind t k).part = s.part := rfl

theorem rested_unlocked (r : TrainRun) (n : Nat) (hn : r.failures < n) (hl : r.lock = false) :
    (r.rested n).lock = false := by
  rw [TrainRun.rested, if_neg (Nat.not_le.2 hn), if_neg (by simp [hl]), entered_lock, hl]

/-- The running condition after an engage timer's expiry. -/
def TrainRun.engageFailed (r : TrainRun) (limit : Nat) : TrainRun :=
  { { r with timer := none, failures := min (r.failures + 1) 7 }.rested limit with lastCause := some Cause.engageTimeout }

theorem expireEngage_trains (h : s.timerRuns t .engage = true) : (s.expireEngage t).trains =
    trainsMod s.trains t fun r => r.engageFailed s.part.failureLimit := by
  rw [State.expireEngage, if_pos h, seqRaise_trains, settle_trains, enterRest_trains, countFailure_trains,
    countFailure_part, withdrawKind_trains, withdrawKind_part, cancelTimer_frame]
  dsimp only
  rw [trainsMod_trainsMod, trainsMod_trainsMod, trainsMod_trainsMod]
  rfl

theorem expireEngage_lacks (h : s.timerRuns t .engage = true) (hq : s.queue.holdsCommands) :
    (s.expireEngage t).queue.lacks t (· = .engage) := by
  rw [State.expireEngage, if_pos h, seqRaise_queue]
  exact (lacks_settleKeeps t _).settle (lacks_enterRest t (s := ((s.cancelTimer t).withdrawKind t .engage).countFailure t)
    (lacks_withdrawKind (s := s.cancelTimer t) t (by decide) hq))

theorem expireStart_trains (h : s.timerRuns t .start = true) : (s.expireStart t).trains =
    trainsMod s.trains t fun r =>
      { { r with failures := min (r.failures + 1) 7 }.stopped (s.cfg t).stopTimeout with
        lastCause := some Cause.startTimeout } := by
  have hcounted := countFailure_trains s t
  rw [State.expireStart, if_pos h, seqRaise_trains, beginStop_trains, hcounted, cfg_of_trainsMod hcounted,
    trainsMod_trainsMod, trainsMod_trainsMod]

theorem expireStop_trains (h : s.timerRuns t .stop = true) : (s.expireStop t).trains =
    trainsMod s.trains t fun r => { r.takenDown with lastCause := some Cause.stopTimeout } := by
  rw [State.expireStop, if_pos h, settle_trains, tripBySequencer_trains]
  rfl

theorem expireStop_clearOf (h : s.timerRuns t .stop = true) (hq : s.queue.holdsCommands) :
    (s.expireStop t).queue.clearOf t := by
  rw [State.expireStop, if_pos h]
  exact (clearOf_settleKeeps t).settle (tripBySequencer_clearOf s t _ hq)

/-- The engage timer expires (R55, R60): rest, STANDSTILL or LOCKED by the failures counted and the lock. -/
theorem engageTimer_expires {n : Nat} (hn : (s.run t).timer = some (.engage, n)) (hq : s.queue.holdsCommands) :
    let u := s.expireEngage t
    let failures := min ((s.run t).failures + 1) 7
    othersKept s u t ∧ tablesKept s u ∧ (u.run t).failures = failures ∧ (u.run t).timer = none ∧
      (u.run t).lastCause = some Cause.engageTimeout ∧ (u.run t).mode = none ∧
      (failures < s.part.failureLimit → (s.run t).lock = false →
        (u.run t).state = .standstill ∧ (u.run t).lock = false) ∧
      (s.part.failureLimit ≤ failures ∨ (s.run t).lock = true → (u.run t).state = .locked ∧ (u.run t).lock = true) ∧
      (∀ e ∈ u.queue.entriesOf t, e.kind ≠ .engage) := by
  intro u failures
  have hruns := timerRuns_of_timer hn
  have htrains := expireEngage_trains hruns
  let r : TrainRun := { s.run t with timer := none, failures := failures }
  have hrun : u.run t = { r.rested s.part.failureLimit with lastCause := some Cause.engageTimeout } :=
    run_of_trainsMod htrains
  refine ⟨othersKept_of_trainsMod htrains, (tablesFrame s).expireEngage (tablesKept_refl s) t, ?_, ?_, ?_, ?_,
    fun hf hl => ?_, fun hlocks => ?_, lacks_entriesOf (expireEngage_lacks hruns hq)⟩
  · rw [hrun]; exact rested_failures r _
  · rw [hrun]; exact rested_timer r _
  · rw [hrun]
  · rw [hrun]; exact rested_mode r _
  · rw [hrun]
    exact ⟨rested_standstill r _ hf hl, rested_unlocked r _ hf hl⟩
  · rw [hrun]; exact rested_locked r _ hlocks

end

/-! ### A waiting stop request taken (R58) -/

section
variable {s : State} {t : TrainId}

theorem seqRaise_stopRequests (s : State) (t : TrainId) (f : FaultInfo) :
    (s.seqRaise t f).stopRequests = s.stopRequests := by
  rw [State.seqRaise, raise_frame]
  rfl

theorem beginStop_stopRequests (s : State) (t : TrainId) (ref : Option ItemRef) :
    (s.beginStop t ref).1.stopRequests = s.stopRequests := by
  unfold State.beginStop
  dsimp only
  rw [settle_frame, placeCommand_frame _ t _ _ _ rfl, startTimer_frame, enter_frame]

/-- R81: a train that leaves RUNNING to stop has no quantity waiting at the end of the event. -/
theorem beginStop_lacks (hst : (s.run t).state = .running) (hq : s.queue.holdsCommands) (ref : Option ItemRef) :
    (s.beginStop t ref).1.queue.lacks t (fun k => k.isQuantity = true) := by
  have hentered : (s.enter t .stopping).queue.lacks t (fun k => k.isQuantity = true) := by
    rw [enter_queue, if_pos ⟨hst, by decide⟩]
    exact dropQuantities_lacks t hq
  have hplaced : (((s.enter t .stopping).startTimer t .stop (s.cfg t).stopTimeout).placeCommand t .stop 0
      ref).1.queue.lacks t (fun k => k.isQuantity = true) := lacks_placeCommand (by decide) 0 ref hentered
  unfold State.beginStop
  dsimp only
  exact (lacks_settleKeeps t _).settle hplaced

theorem takeStopRequest_cons {x : StopRequest} {rest : List StopRequest} (h : s.stopRequests = x :: rest) :
    s.takeStopRequest = (State.requestStopNow { s with stopRequests := rest } x.train (some x.cause) {}).1 := by
  simp only [State.takeStopRequest, h]

/-- A stop request that moves its train (R58). -/
theorem requestStopNow_stops (hst : (s.run t).state.stoppable) (hq : s.queue.holdsCommands) (c : Cause) (q : Request) :
    let u := (s.requestStopNow t (some c) q).1
    u.stopRequests = s.stopRequests ∧ othersKept s u t ∧ tablesKept s u ∧ u.caverns = s.caverns ∧
      (u.run t).state = .stopping ∧ (u.run t).timer = some (.stop, (s.cfg t).stopTimeout * 1000) ∧
      (u.run t).lastCause = some c ∧ (u.run t).failures = (s.run t).failures ∧ (∀ r ∈ u.reservations, r.train ≠ t) ∧
      ((s.run t).state = .running → (u.run t).power = 0 ∧ (u.run t).reactive = 0 ∧ (u.run t).reheat = 0 ∧
        u.queue.pendings.get t = none ∧ ∀ e ∈ u.queue.entriesOf t, e.kind.isQuantity = false) := by
  intro u
  have hu : u = (s.beginStop t q.ref).1.seqRaise t { cause := c } := requestStopNow_caused hst c q
  have htrains : u.trains = trainsMod s.trains t fun r =>
      { r.stopped (s.cfg t).stopTimeout with lastCause := some c } := by
    rw [hu, seqRaise_trains, beginStop_trains, trainsMod_trainsMod]
  have hrun := run_of_trainsMod htrains
  rw [stopped_eq] at hrun
  refine ⟨?_, othersKept_of_trainsMod htrains, (tablesFrame s).requestStopNow (tablesKept_refl s) t (some c) q, ?_, ?_,
    ?_, ?_, ?_, ?_, fun hrunning => ⟨?_, ?_, ?_, ?_, ?_⟩⟩
  · rw [hu, seqRaise_stopRequests, beginStop_stopRequests]
  · rw [hu, seqRaise_caverns, beginStop_caverns]
  · rw [hrun]
  · rw [hrun]
  · rw [hrun]
  · rw [hrun]
  · rw [hu, seqRaise_reservations, beginStop_releases hst]
    exact not_mem_released _ t
  · rw [hrun]; exact if_pos hrunning
  · rw [hrun]; exact if_pos hrunning
  · rw [hrun]; exact if_pos hrunning
  · rw [hu, seqRaise_queue]
    exact (beginStop_lacks hrunning hq _).pending rfl
  · rw [hu, seqRaise_queue]
    intro e he
    exact Bool.eq_false_iff.2 (lacks_entriesOf (beginStop_lacks hrunning hq _) e he)

end

/-- Settles O29: each expiry by what it writes in its train's record and leaves in the queue, and a waiting request as the
STOP it is. -/
theorem trainTimersAndStopRequests : Obligations.TrainTimersAndStopRequests := by
  refine ⟨fun t s hq => ?_, fun s x rest hs hq => ?_⟩
  · intro r failures
    refine ⟨fun n hn => ⟨_, rfl, engageTimer_expires hn hq⟩, fun n hn => ?_, fun n hn => ?_, fun h => ?_, fun h => ?_,
      fun h => ?_⟩
    · have htrains := expireStart_trains (timerRuns_of_timer hn)
      have hrun := run_of_trainsMod htrains
      rw [stopped_eq] at hrun
      refine ⟨_, rfl, othersKept_of_trainsMod htrains, (tablesFrame s).expireStart (tablesKept_refl s) t, ?_, ?_, ?_, ?_⟩
      all_goals rw [hrun]
    · have hruns := timerRuns_of_timer hn
      have htrains := expireStop_trains hruns
      have hrun := run_of_trainsMod htrains
      obtain ⟨hstate, hmode, hreset, htimer, hfailures⟩ := takenDown_fields (s.run t)
      refine ⟨_, rfl, othersKept_of_trainsMod htrains, (tablesFrame s).expireStop (tablesKept_refl s) t, ?_, ?_, ?_, ?_,
        ?_, ?_, (expireStop_clearOf hruns hq).entries⟩
      · rw [hrun]; exact hfailures
      · rw [hrun]; exact hstate
      · rw [hrun]; exact htimer
      · rw [hrun]; exact hmode
      · rw [hrun]; exact hreset
      · rw [hrun]
    · exact congrArg Host.Outcome.next (if_neg (by rw [timerRuns_of_other h]; decide))
    · exact congrArg Host.Outcome.next (if_neg (by rw [timerRuns_of_other h]; decide))
    · exact congrArg Host.Outcome.next (if_neg (by rw [timerRuns_of_other h]; decide))
  · intro t st
    have hexec : exec .trainStopRequest s =
        .next (State.requestStopNow { s with stopRequests := rest } t (some x.cause) {}).1 :=
      congrArg Host.Outcome.next (takeStopRequest_cons hs)
    rw [hexec]
    refine ⟨fun hst => ?_, fun hst => ?_, fun hst => ?_⟩
    · exact congrArg Host.Outcome.next (requestStopNow_rests (s := { s with stopRequests := rest }) hst _ _)
    · exact ⟨_, rfl, requestStopNow_stops (s := { s with stopRequests := rest }) hst hq x.cause {}⟩
    · rw [requestStopNow_refused (s := { s with stopRequests := rest }) hst]
      rfl

end Sys2Proof.Machine
end

section
/-! PROOF. The trip line asserted and deasserted (O30). -/

namespace Sys2Proof.Machine

/-! ### One event over the trains in number order -/

theorem fins_nodup (n : Nat) : (fins n).Nodup := (fins_pairwise n).imp fun h => Fin.ne_of_lt h

section
variable {f : State → TrainId → State} {F : TrainCfg → TrainRun → TrainRun}
  (hf : ∀ s t, (f s t).trains = trainsMod s.trains t (F (s.cfg t)))
include hf

theorem foldl_eachTrain_cfg (l : List TrainId) (s : State) (t : TrainId) : (l.foldl f s).cfg t = s.cfg t :=
  foldl_keeps (P := fun u : State => u.cfg t = s.cfg t) (fun u v h => (cfg_of_trainsMod (hf u v) t).trans h) l s rfl

theorem foldl_eachTrain_other {l : List TrainId} {t : TrainId} (ht : t ∉ l) (s : State) :
    (l.foldl f s).run t = s.run t := by
  induction l generalizing s with
  | nil => rfl
  | cons u l ih =>
    obtain ⟨htu, ht⟩ := not_or.1 (mt List.mem_cons.2 ht)
    rw [List.foldl_cons, ih ht, (othersKept_of_trainsMod (hf s u)).2 t htu]

/-- An event that takes each train of a list once leaves each with what it does to that train alone. -/
theorem foldl_eachTrain_run {l : List TrainId} (hl : l.Nodup) {t : TrainId} (ht : t ∈ l) (s : State) :
    (l.foldl f s).run t = F (s.cfg t) (s.run t) := by
  induction l generalizing s with
  | nil => cases ht
  | cons u l ih =>
    obtain ⟨hu, hl⟩ := List.nodup_cons.1 hl
    rw [List.foldl_cons]
    by_cases htu : t = u
    · subst htu
      rw [foldl_eachTrain_other hf hu, run_of_trainsMod (hf s t)]
    · rw [ih hl (List.mem_of_ne_of_mem htu ht), cfg_of_trainsMod (hf s u), (othersKept_of_trainsMod (hf s u)).2 t htu]

end

/-! ### The trip line at one train (R63) -/

/-- The running condition of a train at which the trip line is asserted. -/
def TrainRun.lineDown (c : TrainCfg) (r : TrainRun) : TrainRun :=
  if c.configured = true ∧ r.state.holdsClaim = true then
    { { r with tripLine := true }.takenDown with lastCause := some Cause.tripLineActive }
  else { r with tripLine := true, reset := if r.state = .tripped then false else r.reset }

/-- A train the trip line takes down. -/
def State.moving (s : State) (t : TrainId) : Prop := (s.cfg t).configured = true ∧ (s.run t).state.holdsClaim = true

/-- A train TRIPPED with a reset requested. -/
def State.resetting (s : State) (t : TrainId) : Prop := (s.run t).state = .tripped ∧ (s.run t).reset = true

/-- The trip line field of one train set. -/
def State.lineSet (s : State) (t : TrainId) : State := s.modRun t fun r => { r with tripLine := true }

theorem lineDown_moving {c : TrainCfg} {r : TrainRun} (h : c.configured = true ∧ r.state.holdsClaim = true) :
    (r.lineDown c).tripLine = true ∧ (r.lineDown c).state = .tripped ∧ (r.lineDown c).timer = none ∧
      (r.lineDown c).mode = none ∧ (r.lineDown c).reset = false ∧
      (r.lineDown c).lastCause = some Cause.tripLineActive := by
  obtain ⟨_, _, _, e⟩ := entered_cases { r with tripLine := true } .tripped
  rw [TrainRun.lineDown, if_pos h, TrainRun.takenDown, e]
  exact ⟨rfl, rfl, rfl, rfl, rfl, rfl⟩

theorem lineDown_standing {c : TrainCfg} {r : TrainRun} (h : ¬ (c.configured = true ∧ r.state.holdsClaim = true)) :
    r.lineDown c = { r with tripLine := true, reset := if r.state = .tripped then false else r.reset } := if_neg h

section
variable (s : State) (t : TrainId)

/-- What the trip line does at one train. -/
theorem ptripTrain_cases :
    (s.moving t ∧ s.ptripTrain t = (s.lineSet t).tripBySequencer t (s.tripInfo t noItem Cause.tripLineActive)) ∨
    (¬ s.moving t ∧ s.resetting t ∧
      s.ptripTrain t = ((s.lineSet t).withdrawKind t .tripReset).modRun t fun r => { r with reset := false }) ∨
    (¬ s.moving t ∧ ¬ s.resetting t ∧ s.ptripTrain t = s.lineSet t) := by
  unfold State.ptripTrain
  dsimp only
  split
  next h => exact .inl ⟨Bool.and_eq_true_iff.1 h, rfl⟩
  next h =>
    have hstands : ¬ s.moving t := mt Bool.and_eq_true_iff.2 h
    split
    next hr => exact .inr (.inl ⟨hstands, hr, rfl⟩)
    next hr => exact .inr (.inr ⟨hstands, hr, rfl⟩)

theorem ptripTrain_trains : (s.ptripTrain t).trains = trainsMod s.trains t (TrainRun.lineDown (s.cfg t)) := by
  rcases ptripTrain_cases s t with ⟨hm, e⟩ | ⟨hm, hr, e⟩ | ⟨hm, hr, e⟩ <;> rw [e]
  · rw [tripBySequencer_trains, State.lineSet, modRun_trains, trainsMod_trainsMod]
    exact trainsMod_congr (if_pos hm).symm
  · rw [modRun_trains, withdrawKind_trains, State.lineSet, modRun_trains, trainsMod_trainsMod]
    refine trainsMod_congr (Eq.trans ?_ (if_neg hm).symm)
    show ({ s.run t with tripLine := true, reset := false } : TrainRun) = { s.run t with
      tripLine := true, reset := if (s.run t).state = .tripped then false else (s.run t).reset }
    rw [if_pos hr.1]
  · rw [State.lineSet, modRun_trains]
    refine trainsMod_congr (Eq.trans ?_ (if_neg hm).symm)
    show ({ s.run t with tripLine := true } : TrainRun) =
      { s.run t with tripLine := true, reset := if (s.run t).state = .tripped then false else (s.run t).reset }
    by_cases hst : (s.run t).state = .tripped
    · have hreset : (s.run t).reset = false := Bool.eq_false_iff.2 fun h => hr ⟨hst, h⟩
      rw [if_pos hst, ← hreset]
    · rw [if_neg hst]

/-! ### What the trip line leaves in the queue -/

theorem withdrawKind_keeps_clearOf {u : TrainId} (k : DriveKind) (h : s.queue.clearOf t) :
    (s.withdrawKind u k).queue.clearOf t := by
  have hpart (v : TrainId) : (s.withdrawKind u k).queue.holds.get v = none ∨
      (s.withdrawKind u k).queue.holds.get v = s.queue.holds.get v := by
    dsimp only [State.withdrawKind, State.modQueue]
    split
    · split
      · exact upd_none _ _ _
      · exact .inr rfl
    · exact .inr rfl
  refine ⟨?_, ?_, h.pending, fun v e he => ?_⟩
  · have hentries := h.entries
    rw [entriesOf_eq_nil] at hentries ⊢
    exact fun e he => hentries e (List.mem_of_mem_filter he)
  · rcases hpart t with hnone | hsame
    · exact hnone
    · rw [hsame, h.hold]
  · rcases hpart v with hnone | hsame
    · rw [hnone] at he
      cases he
    · rw [hsame] at he
      exact h.ownHolds v e he

theorem takeDown_keeps_clearOf (u : TrainId) (h : s.queue.clearOf t) : (s.takeDown u).queue.clearOf t := by
  have hentered := enter_clearOf u .tripped (dropTrain_keeps_clearOf s u h)
  exact hentered

theorem tripBySequencer_keeps_clearOf (u : TrainId) (f : FaultInfo) (h : s.queue.clearOf t) :
    (s.tripBySequencer u f).queue.clearOf t := by
  have hsent : (s.sendTrip u .sequencer none none 0).queue.clearOf t := by
    rw [sendTrip_queue]
    exact ⟨h.entries, h.hold, h.pending, h.ownHolds⟩
  rw [State.tripBySequencer, seqRaise_queue]
  exact takeDown_keeps_clearOf _ t u hsent

theorem ptripTrain_keeps_clearOf (u : TrainId) (h : s.queue.clearOf t) : (s.ptripTrain u).queue.clearOf t := by
  rcases ptripTrain_cases s u with ⟨-, e⟩ | ⟨-, -, e⟩ | ⟨-, -, e⟩ <;> rw [e]
  · exact tripBySequencer_keeps_clearOf _ t u _ h
  · exact withdrawKind_keeps_clearOf (s.lineSet u) t _ h
  · exact h

theorem ptripTrain_clearOf (hm : s.moving t) (hq : s.queue.holdsCommands) : (s.ptripTrain t).queue.clearOf t := by
  rcases ptripTrain_cases s t with ⟨-, e⟩ | ⟨hn, -⟩ | ⟨hn, -⟩
  · rw [e]
    exact tripBySequencer_clearOf (s.lineSet t) t _ hq
  · exact absurd hm hn
  · exact absurd hm hn

end

/-- Every train of a list that the trip line takes down has nothing left in the queue. -/
theorem foldl_ptripTrain_clearOf {l : List TrainId} {t : TrainId} (ht : t ∈ l) (s : State) (hm : s.moving t)
    (hq : s.queue.holdsCommands) : (l.foldl State.ptripTrain s).queue.clearOf t := by
  induction l generalizing s with
  | nil => cases ht
  | cons u l ih =>
    rw [List.foldl_cons]
    by_cases htu : t = u
    · subst htu
      exact foldl_keeps (P := fun s : State => s.queue.clearOf t) (fun s u => ptripTrain_keeps_clearOf s t u) l _
        (ptripTrain_clearOf s t hm hq)
    · have htrains := ptripTrain_trains s u
      refine ih (List.mem_of_ne_of_mem htu ht) _ ?_ (holdsCommandsKept.ptripTrain hq u)
      rw [State.moving, cfg_of_trainsMod htrains, (othersKept_of_trainsMod htrains).2 t htu]
      exact hm

/-- Settles O30: one fold over the trains, each left with what the line does to it alone, then the end of the event. -/
theorem tripLineTakesTrainsDown : Obligations.TripLineTakesTrainsDown := by
  intro s hq
  refine ⟨?_, rfl⟩
  let v : State := { s with ptrip := true }
  let w := (fins 6).foldl State.ptripTrain v
  have hexec : exec .ptripAsserted s = .next w.settle := rfl
  have hrun (t : TrainId) : w.settle.run t = (s.run t).lineDown (s.cfg t) :=
    (settle_run w t).trans (foldl_eachTrain_run ptripTrain_trains (fins_nodup 6) (mem_fins t) v)
  have hcfg (t : TrainId) : w.settle.cfg t = s.cfg t :=
    (settle_cfg w t).trans (foldl_eachTrain_cfg ptripTrain_trains _ v t)
  have htables : tablesKept v w := foldl_keeps (P := tablesKept v) (f := State.ptripTrain)
    (fun _ t h => (tablesFrame v).ptripTrain h t) _ _ (tablesKept_refl v)
  refine ⟨w.settle, hexec, (tablesFrame v).settle htables, hcfg, fun t => ?_⟩
  intro r moving
  rw [hrun]
  refine ⟨?_, fun hm => ?_, fun hm => lineDown_standing hm⟩
  · by_cases hm : moving
    · exact (lineDown_moving hm).1
    · rw [lineDown_standing hm]
  · obtain ⟨-, hstate, htimer, hmode, hreset, hcause⟩ := lineDown_moving hm
    have hclear : w.queue.clearOf t := foldl_ptripTrain_clearOf (mem_fins t) v hm hq
    exact ⟨hstate, htimer, hmode, hreset, hcause, ((clearOf_settleKeeps t).settle hclear).entries⟩

end Sys2Proof.Machine
end

section
/-! PROOF. Writes of TRAINS: refused IN_USE, stored, or making the train UNKNOWN (O49). -/

namespace Sys2Proof.Machine

/-! ### One field judged (R47, R179) -/

/-- Whether a configuration field takes a value does not depend on the record it is written to. -/
theorem putTrainCfg_isSome (n : Nat) (w : Word) (e e' : TrainCfg) :
    (putTrainCfg n w e).isSome = (putTrainCfg n w e').isSome := by
  unfold putTrainCfg
  split <;> simp

theorem putTrainCfg_number {n : Nat} {w : Word} {e x : TrainCfg} (h : putTrainCfg n w e = some x) : n < 20 := by
  by_contra hn
  obtain ⟨k, rfl⟩ := Nat.exists_eq_add_of_le' (Nat.not_lt.1 hn)
  exact nomatch (show none = some x from h)

section
variable {s : State} {f : Field} {t : TrainId} {x : TrainCfg} (ht : f.index.toNat = t.val)
include ht

theorem writtenFields_single : writtenFields [f] t = [f.number.toNat] := by
  simp [writtenFields, ht]

section
variable (hx : putTrainCfg f.number.toNat f.value (s.cfg t) = some x)
include hx

/-- One accepted field: the table with the field stored. -/
theorem judge_trainField : ∃ l, trainTable.judge s.trains [f] = .ok (upd s.trains t { s.train t with cfg := x }, l) := by
  have hput (e : Train) {y : TrainCfg} (hy : putTrainCfg f.number.toNat f.value e.cfg = some y) :
      trainTable.put t f.number.toNat f.value e = some { e with cfg := y } := by
    show (putTrainCfg _ _ _).map _ = _
    rw [hy]
    rfl
  obtain ⟨y, hy⟩ : ∃ y, putTrainCfg f.number.toNat f.value x = some y := by
    rw [← Option.isSome_iff_exists, putTrainCfg_isSome _ _ x (s.cfg t), hx]
    rfl
  refine judge_single trainTable ht (putTrainCfg_number hx) (hput (s.train t) hx) ?_ rfl
  rw [show trainTable.fix [f.number.toNat] { s.train t with cfg := x } = { s.train t with cfg := x } from rfl,
    hput { s.train t with cfg := x } hy]
  nofun

/-! ### What an accepted field comes to (R47) -/

/-- A train record with its configuration replaced, before what the write does to the train. -/
def State.trainStored (s : State) (t : TrainId) (x : TrainCfg) : State := s.setTrain t { s.train t with cfg := x }

theorem writeTrains_busy (hb : (s.train t).busy = true) : s.writeTrains [f] = .error (refusal .inUse) := by
  obtain ⟨l, hjudge⟩ := judge_trainField ht hx
  refine judged_inconsistent _ hjudge ?_
  rw [writtenEntries_single ht]
  simp [hb]

theorem writeTrains_accepted (hb : (s.train t).busy = false) : ∃ l, s.writeTrains [f] =
    .ok ((s.trainStored t x).trainsWritten [f] ([t].filter (trainUnknown s.trains (s.trainStored t x).trains [f])), l) := by
  obtain ⟨l, hjudge⟩ := judge_trainField ht hx
  refine ⟨l, ?_⟩
  rw [← writtenEntries_single (n := 6) ht]
  refine judged_accepted _ hjudge ?_
  rw [writtenEntries_single ht]
  simp [hb]

end

theorem trainUnknown_iff (v w : Vector Train 6) : trainUnknown v w [f] t = true ↔
    f.number.toNat = 1 ∨ f.number.toNat = 2 ∨
      (f.number.toNat = 0 ∧ (w.get t).cfg.configured ≠ (v.get t).cfg.configured) := by
  simp only [trainUnknown, writtenFields_single ht, List.contains_cons, List.contains_nil, Bool.or_false, Bool.or_eq_true,
    Bool.and_eq_true, beq_iff_eq, bne_iff_ne]
  tauto

end

section
variable (s : State) (t : TrainId) (x : TrainCfg)

theorem trainStored_cfg_same : (s.trainStored t x).cfg t = x := by
  simp [State.cfg, State.train, State.trainStored]

theorem trainStored_run (v : TrainId) : (s.trainStored t x).run v = s.run v := by
  simp only [State.run, State.train, State.trainStored, State.setTrain_trains, upd_get]
  split
  next h => rw [h]
  next => rfl

theorem trainStored_cfg_other {v : TrainId} (hv : v ≠ t) : (s.trainStored t x).cfg v = s.cfg v := by
  simp only [State.cfg, State.train, State.trainStored, State.setTrain_trains, upd_get, if_neg hv]

end

/-! ### A train made UNKNOWN by a write (R47, R68) -/

/-- The running condition of a train a write makes UNKNOWN; `kind` where its kind was written. -/
def TrainRun.rewritten (r : TrainRun) (kind : Option TrainKind) : TrainRun :=
  match kind with
  | some k => { r.lostSight with engaged := k.engagedAtReset }
  | none => r.lostSight

section
variable {s : State} {f : Field} {t : TrainId} (ht : f.index.toNat = t.val)
include ht

theorem trainWritten_trains : (State.trainWritten [f] s t).trains = trainsMod s.trains t fun r =>
    r.rewritten (if f.number.toNat = 2 then some (s.cfg t).kind else none) := by
  unfold State.trainWritten
  rw [writtenFields_single ht]
  by_cases h : f.number.toNat = 2
  · simp [h, TrainRun.rewritten]
  · have h' : 2 ≠ f.number.toNat := Ne.symm h
    simp [h, h', TrainRun.rewritten]

end

theorem trainsWritten_one (s : State) (fs : List Field) (t : TrainId) :
    s.trainsWritten fs [t] = (State.trainWritten fs s t).settle := by
  rw [State.trainsWritten, List.isEmpty_cons, if_neg Bool.false_ne_true, List.foldl_cons, List.foldl_nil]

theorem trainWritten_queue (s : State) (fs : List Field) (t : TrainId) :
    (State.trainWritten fs s t).queue = (s.toUnknown t).queue := by
  unfold State.trainWritten
  dsimp only
  split <;> rfl

theorem trainWritten_faults (s : State) (fs : List Field) (t : TrainId) : (State.trainWritten fs s t).faults = s.faults := by
  unfold State.trainWritten
  dsimp only
  split
  · rw [State.modRun_faults, toUnknown_faults]
  · exact toUnknown_faults s t

theorem rewritten_fields (r : TrainRun) (k : Option TrainKind) : (r.rewritten k).state = .unknown ∧
    (r.rewritten k).timer = none ∧ (r.rewritten k).reset = false ∧ (r.rewritten k).mode = none ∧
    (r.rewritten k).auto = r.auto ∧ (r.rewritten k).failures = r.failures ∧ (r.rewritten k).lock = r.lock := by
  obtain ⟨_, _, _, e⟩ := entered_cases r .unknown
  cases k <;> rw [TrainRun.rewritten, TrainRun.lostSight, e] <;> exact ⟨rfl, rfl, rfl, rfl, rfl, rfl, rfl⟩

theorem exec_writeTrains {h : Header} {fs : List Field} {s : State} {m : Manager} (hm : s.managerOf h = some m)
    (hfs : fs.length ≤ 15) (hl : m.level ≤ 1) :
    exec (.writeTrains h fs) s = .next (s.finishWrite m (s.writeTrains fs)) :=
  congrArg Host.Outcome.next (arriveManage_accepted hm (by omega) (by omega) nofun hl)

/-- Settles O49: one field is judged by its value alone; a busy train refuses it, and else the field decides whether the
stored train also becomes UNKNOWN. -/
theorem trainWritesMakeUnknown : Obligations.TrainWritesMakeUnknown := by
  intro h f s m t x hm hl hq ht hx here n busy
  have hexec : here = .next (s.finishWrite m (s.writeTrains [f])) := exec_writeTrains hm (by simp) hl
  have hbusy : (s.train t).busy = true ↔ busy := by
    simp only [Train.busy, Bool.and_eq_true, Bool.or_eq_true, beq_iff_eq]
    rfl
  have hafter : (s.trainStored t x).trains.get t = { s.train t with cfg := x } := upd_get_same _ _ _
  have hunknown : trainUnknown s.trains (s.trainStored t x).trains [f] t = true ↔
      n = 1 ∨ n = 2 ∨ (n = 0 ∧ x.configured ≠ (s.cfg t).configured) := by
    rw [trainUnknown_iff ht, hafter]
    rfl
  have accepted (hb : ¬ busy) : ∃ l, here = .next (State.replyWrite ((s.trainStored t x).trainsWritten [f]
      ([t].filter (trainUnknown s.trains (s.trainStored t x).trains [f]))) m l) := by
    obtain ⟨l, hw⟩ := writeTrains_accepted ht hx (Bool.eq_false_iff.2 (mt hbusy.1 hb))
    exact ⟨l, by rw [hexec, hw]; rfl⟩
  have stored (hb : ¬ busy) (hu : ¬ (n = 1 ∨ n = 2 ∨ (n = 0 ∧ x.configured ≠ (s.cfg t).configured))) :
      ∃ l, here = .next (State.replyWrite (s.trainStored t x) m l) := by
    obtain ⟨l, hw⟩ := accepted hb
    rw [List.filter_cons_of_neg (mt hunknown.1 hu), List.filter_nil, State.trainsWritten_nil] at hw
    exact ⟨l, hw⟩
  refine ⟨fun hb => ?_, fun hb hn => stored hb (by omega), fun hb hn hsame => stored hb ?_, fun hb hn => ?_⟩
  · rw [hexec, writeTrains_busy ht hx (hbusy.2 hb)]
    rfl
  · rintro (h1 | h2 | ⟨-, hchanged⟩)
    · omega
    · omega
    · exact hchanged hsame
  · obtain ⟨l, hw⟩ := accepted hb
    rw [List.filter_cons_of_pos (hunknown.2 hn), List.filter_nil, trainsWritten_one] at hw
    let v := s.trainStored t x
    have htrains := trainWritten_trains (s := v) ht
    have hothers := othersKept_of_trainsMod htrains
    have hclear : (State.trainWritten [f] v t).queue.clearOf t := by
      rw [trainWritten_queue]
      exact toUnknown_clearOf v t (holds_own hq)
    have hsettled := (clearOf_settleKeeps t).settle hclear
    have htables : tablesKept s (State.trainWritten [f] v t) :=
      (tablesFrame s).trainWritten (s := v) (tablesKept_refl s) [f] t
    have hrun : (State.trainWritten [f] v t).settle.run t =
        (s.run t).rewritten (if n = 2 then some x.kind else none) := by
      rw [settle_run, run_of_trainsMod htrains, trainStored_run, trainStored_cfg_same]
    obtain ⟨hstate, htimer, hreset, hmode, hauto, hfailures, hlock⟩ :=
      rewritten_fields (s.run t) (if n = 2 then some x.kind else none)
    refine ⟨(State.trainWritten [f] v t).settle, l, hw, ?_, fun u hu => ⟨?_, ?_⟩,
      (tablesFrame s).settle htables, ?_, ?_, ?_, ?_, ?_, ?_, ?_,
      ?_, hsettled.entries, hsettled.hold, hsettled.pending, fun h2 => ?_⟩
    · rw [settle_cfg, hothers.1, trainStored_cfg_same]
    · rw [settle_cfg, hothers.1, trainStored_cfg_other s t x hu]
    · rw [settle_run, hothers.2 u hu, trainStored_run]
    · rw [settle_faults, trainWritten_faults]
      rfl
    · rw [hrun, hstate]
    · rw [hrun, htimer]
    · rw [hrun, hreset]
    · rw [hrun, hmode]
    · rw [hrun, hauto]
    · rw [hrun, hfailures]
    · rw [hrun, hlock]
    · rw [hrun, if_pos h2]
      rfl

end Sys2Proof.Machine
end

section
/-! PROOF. The drive queue: the quiet closed gate, the placing of offers and commands, and the expiry of a pacing timer
(O58, O25, O26). -/

namespace Sys2Proof.Machine

/-! ### The quiet closed gate (R75, R84) -/

theorem emptyQueue_quiet : Queue.quiet {} := ⟨fun _ h => absurd h List.not_mem_nil, replicate_none_get⟩

theorem emptyQueue_holdsCommands : Queue.holdsCommands {} := fun t e h => by
  rw [replicate_none_get t] at h
  cases h

/-- A state whose queue is empty. -/
theorem gateQuiet_of_empty {s : State} (h : s.queue = {}) : s.gateQuiet :=
  ⟨h ▸ emptyQueue_holdsCommands, fun _ => h ▸ emptyQueue_quiet⟩

/-- What the units change with the gate as it stands: of it the queue alone is read. -/
theorem gateQuietKeepsSchedule : KeepsSchedule State.gateQuiet where
  link := fun _ _ _ h => h
  faults := fun _ _ _ h => h
  tiers := fun _ _ _ h => h
  queue := fun s q _ _ hholds hquiet h => by
    refine ⟨hholds h.1, fun hshut => ?_⟩
    rcases hquiet with hopen | hquiet
    · exact absurd (hshut.symm.trans hopen) Bool.false_ne_true
    · exact hquiet h.1 (h.2 hshut)
  trains := fun _ _ h => h
  caverns := fun _ _ _ h => h
  reservations := fun _ _ _ h => h
  slots := fun _ _ _ h => h
  stopRequests := fun _ _ h => h
  cache := fun _ _ _ h => h
  lru := fun _ _ h => h
  free := fun _ _ h => h
  engine := fun _ _ h => h
  act := fun _ _ h => h
  shares := fun _ _ h => h
  history := fun _ _ _ h => h

theorem holdsCommandsKeepsSchedule : KeepsSchedule fun s => s.queue.holdsCommands where
  toKeepsPlant := holdsCommandsKept
  cache := fun _ _ _ h => h
  lru := fun _ _ h => h
  free := fun _ _ h => h
  engine := fun _ _ h => h
  act := fun _ _ h => h
  shares := fun _ _ h => h
  history := fun _ _ _ h => h

/-- R84: the flush takes every quantity and every pending dispatch, and the refill after it brings in commands only. -/
theorem flushGate_gateQuiet {s : State} (h : s.queue.holdsCommands) : s.flushGate.gateQuiet := by
  have flushed : State.gateQuiet (s.modQueue fun q =>
      { q with entries := q.entries.filter (fun e => !e.kind.isQuantity)
               pendings := Vector.replicate 6 none
               polls := [] }) :=
    ⟨h, fun _ => ⟨fun e he => by simpa using (List.mem_filter.1 he).2, replicate_none_get⟩⟩
  exact gateQuietKeepsSchedule.settle (gateQuietKeepsSchedule.handPolls flushed _)

/-- R183, R84: the gate's closing leaves the queue quiet, whatever waited while it was OPEN. -/
theorem shutGate_gateQuiet {s : State} (h : s.queue.holdsCommands) : s.shutGate.gateQuiet :=
  gateQuietKeepsSchedule.invalidate
    (flushGate_gateQuiet (holdsCommandsKeepsSchedule.clearActivation (s := { s with gateOpen := false }) h)) _

theorem gateQuietKeepsAll : KeepsAll State.gateQuiet where
  toKeepsSchedule := gateQuietKeepsSchedule
  stations := fun _ _ h => h
  roll := fun _ _ h => h
  stores := fun _ _ h => h
  layers := fun _ _ h => h
  points := fun _ _ h => h
  bus := fun _ _ h => h
  part := fun _ _ _ h => h
  openGate := fun _ h => ⟨h.1, fun hshut => absurd hshut.symm Bool.false_ne_true⟩
  shutGate := fun _ h => shutGate_gateQuiet h.1
  ptrip := fun _ _ h => h
  permissions := fun _ _ h => h
  positions := fun _ _ h => h
  duties := fun _ _ h => h
  bands := fun _ _ h => h
  scan := fun _ _ h => h
  routes := fun _ _ _ h => h
  masks := fun _ _ _ h => h
  pending := fun _ _ h => h
  powerOn := fun _ _ _ => gateQuiet_of_empty rfl
  warmRestart := fun _ _ => gateQuiet_of_empty rfl

/-- Settles O58: quantities enter the queue while the gate is OPEN only, its closing flushes them, and a refill moves in
held commands. -/
theorem stepKeepsClosedGateQuiet : Obligations.StepKeepsClosedGateQuiet :=
  fun _ _ h e => gateQuietKeepsAll.step h e

/-! ### An offer of a quantity placed (R71 to R74, R76) -/

section
variable (s : State) (o : Offer)

theorem Offer.matches_iff (e : Entry) : o.matches e = true ↔ e.train = o.train ∧ e.kind = o.kind := by
  simp [Offer.matches]

theorem any_matches_iff :
    s.queue.entries.any o.matches = true ↔ ∃ e ∈ s.queue.entries, e.train = o.train ∧ e.kind = o.kind := by
  simp [Offer.matches_iff]

/-- R72: a merge keeps the place and the stamp of the entry, and takes all else from the offer. -/
theorem merge_of_matches {e : Entry} (h : e.train = o.train ∧ e.kind = o.kind) :
    e.merge o = { o.entry e.stamp with merges := min (e.merges + 1) 255 } := by
  have hcount : count255 (e.merges + 1) = min (e.merges + 1) 255 := by
    unfold count255
    split <;> omega
  simp [Entry.merge, Offer.entry, hcount, h]

/-- Places from which an origin finds no new one (R73). -/
def Origin.room (x : Origin) : Nat := if x = .admitted then admittedDepth else queueDepth

theorem placeOffer_notRunning (h : (s.run o.train).state ≠ .running) :
    s.placeOffer o = (s, .refused Cause.trainState) := if_pos h

variable (hr : (s.run o.train).state = .running)
include hr

theorem placeOffer_shut (h : s.gateOpen = false) : s.placeOffer o = (s, .refused Cause.gateClosed) := by
  unfold State.placeOffer
  rw [if_neg (not_not_intro hr), h]
  rfl

variable (hg : s.gateOpen = true) (hm : ¬ s.queue.entries.any o.matches = true)
include hg hm

theorem placeOffer_new (hroom : s.queue.entries.length < o.origin.room) :
    s.placeOffer o = ((s.modRun o.train fun r => r.place o.kind o.value).modQueue fun q => q.append o, .new) := by
  by_cases ho : o.origin = .admitted
  · rw [Origin.room, if_pos ho] at hroom
    exact placeOffer_admitted s o hr hg ho hm hroom
  · rw [Origin.room, if_neg ho] at hroom
    unfold State.placeOffer
    rw [if_neg (not_not_intro hr), hg, if_neg (by decide)]
    dsimp only
    rw [if_neg hm, if_neg ho, if_pos hroom]

theorem placeOffer_full (ho : o.origin = .admitted) (hfull : o.origin.room ≤ s.queue.entries.length) :
    s.placeOffer o = (s, .refused Cause.queueFull) := by
  rw [Origin.room, if_pos ho] at hfull
  unfold State.placeOffer
  rw [if_neg (not_not_intro hr), hg, if_neg (by decide)]
  dsimp only
  rw [if_neg hm, if_pos ho, if_neg (not_lt.2 hfull)]

theorem placeOffer_pending (ho : o.origin ≠ .admitted) (hfull : o.origin.room ≤ s.queue.entries.length) :
    s.placeOffer o = ((s.modRun o.train fun r => r.place o.kind o.value).modQueue fun q =>
      { q with pendings := upd q.pendings o.train
                 (some { value := o.value.natAbs, origin := o.origin, clamped := o.clamped }) }, .pending) := by
  rw [Origin.room, if_neg ho] at hfull
  unfold State.placeOffer
  rw [if_neg (not_not_intro hr), hg, if_neg (by decide)]
  dsimp only
  rw [if_neg hm, if_neg ho, if_neg (not_lt.2 hfull)]

end

/-! ### A command placed (R75) -/

theorem upd_upd {α : Type} {n : Nat} (v : Vector α n) (i : Fin n) (x y : α) : upd (upd v i x) i y = upd v i y := by
  simp [upd]

/-- The entry a command makes. -/
def commandEntry (t : TrainId) (k : DriveKind) (value : Int) (ref : Option ItemRef) (stamp : Nat) : Entry :=
  { train := t, kind := k, value := value, origin := .sequencer, station := ref.map (·.station),
    seq := ref.map (·.seq), tag := (ref.map (·.tag)).getD 0, stamp := stamp }

section
variable (s : State) (t : TrainId) (k : DriveKind) (value : Int) (ref : Option ItemRef)

theorem placeCommand_tail (h : (s.withdraw t).queue.entries.length < queueDepth) :
    s.placeCommand t k value ref = ((s.withdraw t).modQueue fun q =>
      { q with entries := q.entries ++ [commandEntry t k value ref s.queue.stamp], stamp := q.stamp + 1 }, false) :=
  if_pos h

theorem placeCommand_hold (h : queueDepth ≤ (s.withdraw t).queue.entries.length) :
    s.placeCommand t k value ref = ((s.withdraw t).modQueue fun q =>
      { q with holds := upd s.queue.holds t (some (commandEntry t k value ref s.queue.stamp)), stamp := q.stamp + 1 },
      true) := by
  rw [← upd_upd s.queue.holds t none]
  exact if_neg (not_lt.2 h)

end

/-- Settles O25: an offer by the first test it meets, a command by whether the queue has room after the withdrawal. -/
theorem driveQueuePlacement : Obligations.DriveQueuePlacement := by
  unfold Obligations.DriveQueuePlacement
  refine ⟨fun s o hk => ?_, fun s t k value ref _ => ?_⟩
  · intro r set queued entry
    have hset : (fun x : TrainRun => x.place o.kind o.value) = set := by
      funext x
      revert hk
      unfold set
      cases o.kind <;> intro hk
      case power | reactive | reheat => rfl
      all_goals cases hk
    refine ⟨placeOffer_notRunning s o, placeOffer_shut s o, fun hr hg => ⟨fun hqueued => ?_, fun hnone => ?_⟩⟩
    · have hr' := placeOffer_merged s o hr hg ((any_matches_iff s o).2 hqueued)
      rw [hset] at hr'
      refine ⟨congrArg Prod.snd hr', _, congrArg Prod.fst hr',
        List.forall₂_map_right_iff.2 (List.forall₂_same.2 fun e _ => ?_)⟩
      refine ⟨fun he => ?_, fun he => if_neg (mt (o.matches_iff e).1 he)⟩
      rw [if_pos ((o.matches_iff e).2 he), merge_of_matches o he]
      rfl
    · have hm : ¬ s.queue.entries.any o.matches = true := by
        rw [any_matches_iff]
        rintro ⟨e, he, hqueued⟩
        exact hnone e he hqueued
      refine ⟨fun hroom => ?_, fun hfull ho => placeOffer_full s o hr hg hm ho hfull, fun hfull ho => ?_⟩
      · have hr' := placeOffer_new s o hr hg hm hroom
        rw [hset] at hr'
        exact ⟨congrArg Prod.snd hr', congrArg Prod.fst hr'⟩
      · have hr' := placeOffer_pending s o hr hg hm ho hfull
        rw [hset] at hr'
        exact ⟨congrArg Prod.snd hr', congrArg Prod.fst hr'⟩
  · exact ⟨placeCommand_tail s t k value ref, placeCommand_hold s t k value ref⟩

/-! ### The expiry of a pacing timer (R79, R78) -/

/-- Nothing waits outside the queue's places: no command hold, no pending dispatch, no held poll. -/
structure Queue.bare (q : Queue) : Prop where
  holds    : ∀ t, q.holds.get t = none
  pendings : ∀ t, q.pendings.get t = none
  polls    : q.polls = []

/-- R77: a refill finds nothing to move in. -/
theorem refill_of_bare {q : Queue} (h : q.bare) : q.refill = q := by
  have hold (t : TrainId) : q.refillHold t = q := by simp [Queue.refillHold, h.holds t]
  have pending (t : TrainId) : q.refillPending t = q := by simp [Queue.refillPending, h.pendings t]
  exact foldl_keeps (P := fun r : Queue => r = q) (f := Queue.refillPending) (fun _ t e => e ▸ pending t) _ _
    (foldl_keeps (P := fun r : Queue => r = q) (f := Queue.refillHold) (fun _ t e => e ▸ hold t) _ _ rfl)

section
variable {s : State}

/-- R86: there is no held poll to leave. -/
theorem releasePolls_of_bare (h : s.queue.bare) : s.releasePolls = s := by
  have hnone : (s.queue.polls.filter fun p => s.queue.ahead p.train p.stamp == 0) = [] := by rw [h.polls]; rfl
  have hkept : (s.queue.polls.filter fun p => s.queue.ahead p.train p.stamp != 0) = s.queue.polls := by rw [h.polls]; rfl
  unfold State.releasePolls
  dsimp only [State.modQueue]
  rw [hnone, hkept]
  rfl

theorem drain_of_still (n : Nat) (h : s.queue.bare) (hstill : s.departOne = none) : s.drain n = s := by
  have hrefill : s.modQueue Queue.refill = s := by rw [State.modQueue, refill_of_bare h]
  cases n with
  | zero => rfl
  | succ n => rw [State.drain, hrefill, hstill]

theorem drain_of_departure (n : Nat) {u : State} (h : s.queue.bare) (hdepart : s.departOne = some u) :
    s.drain (n + 1) = u.drain n := by
  have hrefill : s.modQueue Queue.refill = s := by rw [State.modQueue, refill_of_bare h]
  rw [State.drain, hrefill, hdepart]

/-- The end of an event after which nothing can depart. -/
theorem settle_of_still (h : s.queue.bare) (hstill : s.departOne = none) : s.settle = s := by
  rw [State.settle, releasePolls_of_bare h, drain_of_still 7 h hstill, releasePolls_of_bare h]

/-- The end of an event after which one entry departs. -/
theorem settle_of_departure {u : State} (h : s.queue.bare) (hdepart : s.departOne = some u) (hu : u.queue.bare)
    (hstill : u.departOne = none) : s.settle = u := by
  rw [State.settle, releasePolls_of_bare h, drain_of_departure 6 h hdepart, drain_of_still 6 hu hstill,
    releasePolls_of_bare hu]

theorem departOne_none (h : ∀ e ∈ s.queue.entries, s.eligible e.train = false) : s.departOne = none := by
  have hfind : (s.queue.entries.find? fun e => s.eligible e.train) = none := by
    simpa [List.find?_eq_none] using h
  rw [State.departOne, hfind]

/-- R79: where the entries of one train alone are eligible, its oldest departs. -/
theorem departOne_oldest {t : TrainId} {e : Entry} {rest : List Entry}
    (hoff : ∀ x ∈ s.queue.entries, s.eligible x.train = (x.train == t)) (he : s.queue.entriesOf t = e :: rest) :
    s.departOne =
      some ((s.modQueue fun q => { q with entries := q.entries.erase e }).sendDrive t (driveCode e.kind) e) := by
  have hfind : (s.queue.entries.find? fun x => s.eligible x.train) = some e := by
    rw [List.find?_congr hoff, ← List.head?_filter]
    exact congrArg List.head? he
  have htrain : e.train = t := by
    have hmem : e ∈ s.queue.entriesOf t := he ▸ List.mem_cons_self
    simpa using (List.mem_filter.1 hmem).2
  subst htrain
  rw [State.departOne, hfind]

theorem eligible_of_pacing {t : TrainId} (h : (s.queue.pacing.get t).isSome = true) : s.eligible t = false := by
  simp [State.eligible, ← Option.not_isSome, h]

theorem eligible_of_unreachable {t : TrainId} (h : s.reachable t = false) : s.eligible t = false := by
  simp [State.eligible, h]

end

section
variable (s : State) (t : TrainId)

/-- R79: the pacing timer IDLE. -/
def State.unpaced : State := s.modQueue fun q => { q with pacing := upd q.pacing t none }

theorem unpaced_bare (h : s.queue.bare) : (s.unpaced t).queue.bare := ⟨h.holds, h.pendings, h.polls⟩

theorem unpaced_pacing_ne {u : TrainId} (h : u ≠ t) : (s.unpaced t).queue.pacing.get u = s.queue.pacing.get u :=
  upd_get_ne _ _ _ _ h

theorem unpaced_eligible_same : (s.unpaced t).eligible t = s.reachable t := by
  have hidle : (s.unpaced t).queue.pacing.get t = none := upd_get_same _ _ _
  rw [State.eligible, hidle]
  rfl

/-- Every other train with entries is pacing or unreachable. -/
def State.othersWait : Prop :=
  ∀ e ∈ s.queue.entries, e.train ≠ t → (s.queue.pacing.get e.train).isSome = true ∨ s.reachable e.train = false

variable {s t}

theorem unpaced_eligible_other (h : s.othersWait t) {e : Entry} (he : e ∈ s.queue.entries) (hne : e.train ≠ t) :
    (s.unpaced t).eligible e.train = false := by
  rcases h e he hne with hpacing | hunreachable
  · exact eligible_of_pacing (by rw [unpaced_pacing_ne s t hne, hpacing])
  · exact eligible_of_unreachable hunreachable

/-- R79: nothing departs for a train that is unreachable or has no entry. -/
theorem expirePacing_idle (hbare : s.queue.bare) (hothers : s.othersWait t)
    (h : s.reachable t = false ∨ s.queue.entriesOf t = []) : s.expirePacing t = s.unpaced t := by
  have hnone : ∀ e ∈ (s.unpaced t).queue.entries, (s.unpaced t).eligible e.train = false := by
    intro e he
    by_cases htrain : e.train = t
    · rcases h with hunreachable | hempty
      · rw [htrain, unpaced_eligible_same, hunreachable]
      · exact absurd htrain (entriesOf_eq_nil.1 hempty e he)
    · exact unpaced_eligible_other hothers he htrain
  exact settle_of_still (unpaced_bare s t hbare) (departOne_none hnone)

/-- R79, R78: the oldest entry of a reachable train departs, and its pacing timer starts, which ends the departures. -/
theorem expirePacing_departs (hbare : s.queue.bare) (hothers : s.othersWait t) (hreach : s.reachable t = true)
    {e : Entry} {rest : List Entry} (he : s.queue.entriesOf t = e :: rest) :
    s.expirePacing t =
      ((s.unpaced t).modQueue fun q => { q with entries := q.entries.erase e }).sendDrive t (driveCode e.kind) e := by
  have honly : ∀ x ∈ (s.unpaced t).queue.entries, (s.unpaced t).eligible x.train = (x.train == t) := by
    intro x hx
    by_cases htrain : x.train = t
    · rw [htrain, unpaced_eligible_same, hreach, beq_self_eq_true]
    · rw [unpaced_eligible_other hothers hx htrain, beq_eq_false_iff_ne.2 htrain]
  refine settle_of_departure (unpaced_bare s t hbare) (departOne_oldest honly he) ?_ (departOne_none fun x hx => ?_)
  · rw [sendDrive_queue]
    exact ⟨hbare.holds, hbare.pendings, hbare.polls⟩
  · rw [sendDrive_queue] at hx
    by_cases htrain : x.train = t
    · refine eligible_of_pacing ?_
      rw [sendDrive_queue, htrain, upd_get_same]
      rfl
    · rcases hothers x (List.mem_of_mem_erase hx) htrain with hpacing | hunreachable
      · refine eligible_of_pacing ?_
        rw [sendDrive_queue, upd_get_ne _ _ _ _ htrain]
        exact (congrArg Option.isSome (unpaced_pacing_ne s t htrain)).trans hpacing
      · refine eligible_of_unreachable ?_
        rw [sendDrive_frame]
        exact hunreachable

/-- What sending leaves to the ports does not read the queue. -/
theorem unpaced_sendDrive (e : Entry) (k : Byte) :
    ((s.unpaced t).modQueue fun q => { q with entries := q.entries.erase e }).sendDrive t k e =
      (s.emit .d cDrive (s.controller t).address [driveItem t k e]).modQueue fun q =>
        { q with entries := q.entries.erase e, pacing := upd q.pacing t (some (s.cfg t).pacingGap) } := by
  have hstarts (q : Queue) :
      upd (upd q.pacing t none) t (some (s.cfg t).pacingGap) = upd q.pacing t (some (s.cfg t).pacingGap) :=
    upd_upd _ _ _ _
  simp only [← hstarts]
  rfl

end

/-- Settles O26: the expiry changes the ports and the queue alone; what departs is the train's oldest entry. -/
theorem pacingExpirySendsTheOldestEntry : Obligations.PacingExpirySendsTheOldestEntry := by
  unfold Obligations.PacingExpirySendsTheOldestEntry
  intro t s
  obtain ⟨l, q, hframe⟩ : ∃ l q, s.expirePacing t = { s with link := l, queue := q } :=
    ⟨_, _, (driveFrame s).expirePacing rfl t⟩
  refine ⟨⟨s.expirePacing t, rfl, ?_, ?_, ?_⟩, fun hholds hpendings hpolls hothers =>
    ⟨fun h => ?_, fun e rest hreach he => ?_⟩⟩
  · rw [hframe]
    exact fun _ => ⟨rfl, rfl⟩
  · exact (tablesFrame s).expirePacing (tablesKept_refl s) t
  · rw [hframe]
    exact ⟨rfl, rfl, rfl⟩
  · exact congrArg Host.Outcome.next (expirePacing_idle ⟨hholds, hpendings, hpolls⟩ hothers h)
  · refine congrArg Host.Outcome.next ?_
    rw [expirePacing_departs ⟨hholds, hpendings, hpolls⟩ hothers hreach he, unpaced_sendDrive]
    rfl

end Sys2Proof.Machine
end

section
/-! PROOF. The cavern envelope: the directions and their holders (O57), claims and the cap on POWER (O31). -/

namespace Sys2Proof.Machine

/-! ### The directions held (R103, R104) -/

theorem State.directed_iff (s : State) : s.directed = true ↔ cavernsDirected s.caverns := by
  have each (c : CavernId) : ((s.cavern c).run.direction.isNone == ((s.cavern c).run.holders == 0)) = true ↔
      ((s.cavern c).run.direction = none ↔ (s.cavern c).run.holders = 0) := by
    rw [beq_iff_eq, Bool.eq_iff_iff, Option.isNone_iff_eq_none, beq_iff_eq]
  unfold State.directed
  rw [List.all_eq_true]
  exact ⟨fun h c => (each c).1 (h c (mem_fins c)), fun h c _ => (each c).2 (h c)⟩

/-- What the units change: of it the caverns alone are read. -/
theorem directedKeepsSchedule : KeepsSchedule fun s => cavernsDirected s.caverns where
  link := fun _ _ _ h => h
  faults := fun _ _ _ h => h
  tiers := fun _ _ _ h => h
  queue := fun _ _ _ _ _ _ h => h
  trains := fun _ _ h => h
  caverns := fun _ _ hv h => hv h
  reservations := fun _ _ _ h => h
  slots := fun _ _ _ h => h
  stopRequests := fun _ _ h => h
  cache := fun _ _ _ h => h
  lru := fun _ _ h => h
  free := fun _ _ h => h
  engine := fun _ _ h => h
  act := fun _ _ h => h
  shares := fun _ _ h => h
  history := fun _ _ _ h => h

theorem powerOn_directed (s : State) (x : BitVec 4) : cavernsDirected (s.powerOn x).caverns := by
  intro c
  simp [State.powerOn, Vector.get]

theorem warmRestart_directed (s : State) : cavernsDirected s.warmRestart.caverns := by
  intro c
  rw [State.warmRestart, tabMap_get]
  exact iff_of_true rfl rfl

theorem directedKeepsAll : KeepsAll fun s => cavernsDirected s.caverns where
  toKeepsSchedule := directedKeepsSchedule
  stations := fun _ _ h => h
  roll := fun _ _ h => h
  stores := fun _ _ h => h
  layers := fun _ _ h => h
  points := fun _ _ h => h
  bus := fun _ _ h => h
  part := fun _ _ _ h => h
  openGate := fun _ h => h
  shutGate := directedKeepsSchedule.shutGate fun _ _ h => h
  ptrip := fun _ _ h => h
  permissions := fun _ _ h => h
  positions := fun _ _ h => h
  duties := fun _ _ h => h
  bands := fun _ _ h => h
  scan := fun _ _ h => h
  routes := fun _ _ _ h => h
  masks := fun _ _ _ h => h
  pending := fun _ _ h => h
  powerOn := fun s x _ => powerOn_directed s x
  warmRestart := fun s _ => warmRestart_directed s

/-- Settles O57: a claim sets the direction with its holder, the last removal clears it, nothing else writes either. -/
theorem stepKeepsDirectionsHeld : Obligations.StepKeepsDirectionsHeld := by
  intro s t h e
  rw [State.directed_iff] at h ⊢
  exact directedKeepsAll.step h e

/-! ### Claims and removals (R103, R104) -/

section
variable (s : State) (t : TrainId)

/-- R103: a grant of train `t`, with `h` as the holders of its cavern, and the stop request of R94 that follows it. -/
def State.claimGranted (m : RunMode) (h : TrainSet) : State :=
  let c := (s.cfg t).cavern
  { s.modCavern c (fun r => { r with direction := some m, holders := h }) with
    stopRequests := s.stopRequests ++
      (if (s.cavern c).run.blindTimer = .expired then [{ train := t, cause := Cause.blindStop }] else []) }

/-- A stop request made where a condition holds, as one list appended. -/
theorem requestStop_if (b : Prop) [Decidable b] (u : State) :
    (if b then u.requestStop t Cause.blindStop else u) =
      { u with stopRequests := u.stopRequests ++ (if b then [{ train := t, cause := Cause.blindStop }] else []) } := by
  split
  · rfl
  · rw [List.append_nil]

theorem claim_of_idle (m : RunMode) (h : (s.cavern (s.cfg t).cavern).run.direction = none) :
    s.claim t m = some (s.claimGranted t m (BitVec.twoPow 6 t.val)) := by
  have halone : addBit (0 : TrainSet) t.val = BitVec.twoPow 6 t.val := BitVec.zero_or
  simp only [State.claim, h, requestStop_if, halone]
  rfl

theorem claim_of_same (m : RunMode) (h : (s.cavern (s.cfg t).cavern).run.direction = some m) :
    s.claim t m = some (s.claimGranted t m ((s.cavern (s.cfg t).cavern).run.holders ||| BitVec.twoPow 6 t.val)) := by
  have hjoins : s.modCavern (s.cfg t).cavern (fun r => { r with holders := addBit r.holders t.val }) =
      s.modCavern (s.cfg t).cavern fun r => { r with
        direction := some m, holders := (s.cavern (s.cfg t).cavern).run.holders ||| BitVec.twoPow 6 t.val } :=
    modCavern_congr s _ (by rw [← h]; rfl)
  simp only [State.claim, h, if_true, requestStop_if, hjoins]
  rfl

theorem unclaim_of_holder (h : (s.cavern (s.cfg t).cavern).run.holders.getLsbD t.val = true) :
    s.unclaim t = s.modCavern (s.cfg t).cavern fun r => r.drop t := if_pos h

theorem unclaim_of_other (h : (s.cavern (s.cfg t).cavern).run.holders.getLsbD t.val = false) : s.unclaim t = s :=
  if_neg (by rw [h]; exact Bool.false_ne_true)

/-! ### The cap on POWER (R99) -/

theorem powerCap_of_other (h : (s.cavern (s.cfg t).cavern).run.holders.getLsbD t.val = false) : s.powerCap t = 0 := by
  simp only [State.powerCap, h, Bool.not_false, if_true]

theorem powerCap_of_blind (h : (s.cavern (s.cfg t).cavern).run.holders.getLsbD t.val = true)
    (hblind : (s.cavern (s.cfg t).cavern).run.condition = .blind) : s.powerCap t = (s.run t).power := by
  simp only [State.powerCap, h, hblind, Bool.not_true, Bool.false_eq_true, if_false, if_true]

/-- A holder's cap outside BLIND: the remainder of the allowance, lowered to the set value by a bar. -/
theorem powerCap_of_holder {d : RunMode} (h : (s.cavern (s.cfg t).cavern).run.holders.getLsbD t.val = true)
    (hsees : (s.cavern (s.cfg t).cavern).run.condition ≠ .blind)
    (hd : (s.cavern (s.cfg t).cavern).run.direction = some d) :
    s.powerCap t =
      if (s.cavern (s.cfg t).cavern).run.barred d then
        min (s.allowance (s.cfg t).cavern d - s.othersPower (s.cfg t).cavern t) (s.run t).power
      else s.allowance (s.cfg t).cavern d - s.othersPower (s.cfg t).cavern t := by
  simp only [State.powerCap, h, hsees, hd, Bool.not_true, Bool.false_eq_true, if_false]

theorem othersPower_eq (c : CavernId) : s.othersPower c t =
    (((fins 6).filter fun u => (s.cavern c).run.holders.getLsbD u.val && u != t).map fun u => (s.run u).power).sum := by
  simp only [State.othersPower, trainsOf, List.filter_filter, Bool.and_comm]

end

theorem barred_iff (r : CavernRun) (d : RunMode) : r.barred d = true ↔
    r.condition = .disagreed ∨ (d = .charge ∧ r.riseHold = true) ∨ (d = .generate ∧ r.fallHold = true) := by
  simp only [CavernRun.barred, Bool.or_eq_true, Bool.and_eq_true, beq_iff_eq, or_assoc]

/-- Settles O31: the cap by its cases, a claim by the cavern's direction, a removal by the train's bit. -/
theorem directionClaimsAndPowerCap : Obligations.DirectionClaimsAndPowerCap := by
  refine ⟨fun s t d => ⟨powerCap_of_other s t, powerCap_of_blind s t, fun h hsees hd => ?_⟩,
    fun s t m => ⟨claim_of_idle s t m, claim_of_same s t m, fun d hd => claim_refused s t m hd, unclaim_of_other s t,
      fun h => ?_⟩⟩
  · rw [powerCap_of_holder s t h hsees hd, othersPower_eq]
    refine ⟨fun hfree => ?_, fun hbarred => ?_⟩
    · rw [if_neg (mt (barred_iff _ d).1 hfree)]
      cases d <;> rfl
    · rw [if_pos ((barred_iff _ d).2 hbarred)]
      cases d <;> rfl
  · rw [unclaim_of_holder s t h]
    exact modCavern_congr s _ rfl

end Sys2Proof.Machine
end

section
/-! PROOF. What a recomputation of a cavern writes in its record before the hard limits are tested. -/

namespace Sys2Proof.Machine

/-! ### One cavern's record written (R92) -/

/-- `u` is `s` with the running condition of cavern `c` become `r`, as far as trains, queue, bands and that cavern go. -/
structure Reworked (s : State) (c : CavernId) (r : CavernRun) (u : State) : Prop where
  trains : u.trains = s.trains
  queue  : u.queue = s.queue
  bands  : u.bands = s.bands
  cavern : u.cavern c = { s.cavern c with run := r }

section
variable {s u v : State} {c : CavernId} {r r' : CavernRun}

theorem Reworked.trans (h : Reworked s c r u) (h' : Reworked u c r' v) : Reworked s c r' v where
  trains := h'.trains.trans h.trains
  queue := h'.queue.trans h.queue
  bands := h'.bands.trans h.bands
  cavern := by rw [h'.cavern, h.cavern]

theorem Reworked.run (h : Reworked s c r u) : (u.cavern c).run = r := by rw [h.cavern]

theorem Reworked.cfg (h : Reworked s c r u) : (u.cavern c).cfg = (s.cavern c).cfg := by rw [h.cavern]

end

section
variable (s : State) (c : CavernId)

theorem reworked_refl : Reworked s c (s.cavern c).run s := ⟨rfl, rfl, rfl, rfl⟩

end

section
variable {s u : State} {c : CavernId} {r : CavernRun} (h : Reworked s c r u)
include h

theorem Reworked.modCavern (f : CavernRun → CavernRun) : Reworked s c (f r) (u.modCavern c f) :=
  h.trans ⟨rfl, rfl, rfl, by rw [State.cavern_modCavern, if_pos rfl, h.run]⟩

theorem Reworked.raise (f : FaultInfo) : Reworked s c r (u.raise f) :=
  h.trans ⟨raise_trains u f, raise_queue u f, by rw [raise_frame], by rw [raise_cavern, ← h.run]⟩

theorem Reworked.compareHold (old new : Bool) (rate : Nat) : Reworked s c r (u.compareHold c old new rate) := by
  unfold State.compareHold
  split
  · exact h
  · exact h.raise _

end

section
variable (s : State) (c : CavernId)

/-! ### The condition (R93) -/

/-- The running condition of a cavern found outside BLIND: where it leaves BLIND its blind timer becomes IDLE. -/
def CavernRun.sighted (r : CavernRun) (old : Condition) : CavernRun :=
  { r with blindTimer := if old = .blind then .idle else r.blindTimer }

theorem sighted_of_ne (r : CavernRun) {old : Condition} (h : old ≠ .blind) : r.sighted old = r := by
  rw [CavernRun.sighted, if_neg h]

/-- A condition other than BLIND entered or kept. -/
theorem conditionChange_seen {old new : Condition} (hnew : new ≠ .blind) (d : Nat) :
    Reworked s c ((s.cavern c).run.sighted old) (s.conditionChange c old new d) := by
  have left : Reworked s c ((s.cavern c).run.sighted old)
      (if old = .blind then s.modCavern c fun r => { r with blindTimer := .idle } else s) := by
    by_cases hold : old = .blind
    · subst hold
      exact (reworked_refl s c).modCavern fun r => { r with blindTimer := .idle }
    · rw [sighted_of_ne _ hold, if_neg hold]
      exact reworked_refl s c
  unfold State.conditionChange
  by_cases hsame : old = new
  · rw [if_pos hsame, sighted_of_ne _ (hsame ▸ hnew)]
    exact reworked_refl s c
  · rw [if_neg hsame]
    split
    next => exact absurd rfl hnew
    next =>
      dsimp only
      split
      · exact left.raise _
      · exact left

/-- BLIND entered or kept: on becoming BLIND the blind timer starts and the window is given up. -/
theorem conditionChange_blind (old : Condition) (d : Nat) :
    Reworked s c (if old = .blind then (s.cavern c).run else
        { (s.cavern c).run with blindTimer := .running (seconds (s.cavern c).cfg.blindLimit), windowAge := none,
                                windowHigh := none, windowLow := none })
      (s.conditionChange c old .blind d) := by
  unfold State.conditionChange
  split
  · exact reworked_refl s c
  · exact ((reworked_refl s c).modCavern fun r => { r with
      blindTimer := .running (seconds (s.cavern c).cfg.blindLimit), windowAge := none, windowHigh := none,
      windowLow := none }).raise _

/-! ### The rates (R97, R98) -/

/-- The limit of the rise rate in force for a running condition. -/
def State.riseLimit (s : State) (c : CavernId) (r : CavernRun) : Nat :=
  match r.chargeBand with | some b => (s.bands.get (bandIndex c b)).maxRise | none => 0

/-- The limit of the fall rate in force for a running condition. -/
def State.fallLimit (s : State) (c : CavernId) (r : CavernRun) : Nat :=
  match r.generateBand with | some b => (s.bands.get (bandIndex c b)).maxFall | none => 0

theorem riseLimit_of_band {r : CavernRun} {b : Fin 8} (h : r.chargeBand = some b) :
    s.riseLimit c r = (s.bands.get (bandIndex c b)).maxRise := by
  rw [State.riseLimit, h]

theorem fallLimit_of_band {r : CavernRun} {b : Fin 8} (h : r.generateBand = some b) :
    s.fallLimit c r = (s.bands.get (bandIndex c b)).maxFall := by
  rw [State.fallLimit, h]

end

/-- The hold flags of a running condition compared with two limits (R98). -/
def CavernRun.held (r : CavernRun) (maxRise maxFall : Nat) : CavernRun :=
  { r with riseHold := decide (maxRise < r.rise), fallHold := decide (maxFall < r.fall) }

/-- Rates over a window of age `e`, and the window restarted where it has run out (R97, step 4). -/
def CavernRun.ratesOver (r : CavernRun) (window : Nat) (high low wh wl : Int) (e : Nat) : CavernRun :=
  let r1 := { r with rise := rateOver (high - wh) e, fall := rateOver (wl - low) e }
  if window ≤ e then r1.restartWindow high low else r1

/-- A running condition with window, rates and hold flags updated (R97, R98). -/
def CavernRun.rated (r : CavernRun) (window maxRise maxFall : Nat) (high low : Int) (changed : Bool) : CavernRun :=
  match r.windowAge, r.windowHigh, r.windowLow with
  | some e, some wh, some wl =>
    if changed then r.restartWindow high low
    else if e < 10000 then r
    else (r.ratesOver window high low wh wl e).held maxRise maxFall
  | _, _, _ => r.restartWindow high low

/-- A rate window that stands: its age and its start pressures. -/
structure CavernRun.Window (r : CavernRun) (e : Nat) (wh wl : Int) : Prop where
  age  : r.windowAge = some e
  high : r.windowHigh = some wh
  low  : r.windowLow = some wl

section
variable (r : CavernRun) (window maxRise maxFall : Nat) (high low : Int) (changed : Bool)

theorem ratesOver_frame (wh wl : Int) (e : Nat) : r.ratesOver window high low wh wl e =
    { r with
      rise := rateOver (high - wh) e
      fall := rateOver (wl - low) e
      windowAge := if window ≤ e then some 0 else r.windowAge
      windowHigh := if window ≤ e then some high else r.windowHigh
      windowLow := if window ≤ e then some low else r.windowLow } := by
  unfold CavernRun.ratesOver
  split <;> rfl

theorem rated_of_window {e : Nat} {wh wl : Int} (h : r.Window e wh wl) :
    r.rated window maxRise maxFall high low changed =
      if changed then r.restartWindow high low
      else if e < 10000 then r
      else (r.ratesOver window high low wh wl e).held maxRise maxFall := by
  simp only [CavernRun.rated, h.age, h.high, h.low]

theorem rated_of_none (h : ∀ e wh wl, ¬ r.Window e wh wl) :
    r.rated window maxRise maxFall high low changed = r.restartWindow high low := by
  unfold CavernRun.rated
  split
  next hage hhigh hlow => exact absurd ⟨hage, hhigh, hlow⟩ (h _ _ _)
  next => rfl

/-- Outside the window, the rates and the hold flags an update of the rates writes nothing. -/
theorem rated_frame : ∃ age wh wl rise fall riseHold fallHold, r.rated window maxRise maxFall high low changed =
    { r with windowAge := age, windowHigh := wh, windowLow := wl, rise := rise, fall := fall, riseHold := riseHold,
             fallHold := fallHold } := by
  unfold CavernRun.rated
  split
  · split
    · exact ⟨_, _, _, _, _, _, _, rfl⟩
    · split
      · exact ⟨_, _, _, _, _, _, _, rfl⟩
      · rw [ratesOver_frame]
        exact ⟨_, _, _, _, _, _, _, rfl⟩
  · exact ⟨_, _, _, _, _, _, _, rfl⟩

theorem rated_restarts (h : r.windowAge = none ∨ changed = true) :
    r.rated window maxRise maxFall high low changed = r.restartWindow high low := by
  by_cases hwindow : ∃ e wh wl, r.Window e wh wl
  · obtain ⟨e, wh, wl, hw⟩ := hwindow
    rw [rated_of_window _ _ _ _ _ _ _ hw]
    rcases h with hnone | hchanged
    · exact nomatch hnone.symm.trans hw.age
    · exact if_pos hchanged
  · exact rated_of_none _ _ _ _ _ _ _ fun e wh wl hw => hwindow ⟨e, wh, wl, hw⟩

end

section
variable (s : State) (c : CavernId) (high low : Int) (changed : Bool)

theorem updateRates_of_window {e : Nat} {wh wl : Int} (h : (s.cavern c).run.Window e wh wl) :
    s.updateRates c high low changed =
      if changed then s.modCavern c fun r => r.restartWindow high low
      else if e < 10000 then s
      else (s.modCavern c fun r =>
        r.ratesOver (seconds (s.cavern c).cfg.rateWindow) high low wh wl e).updateHolds c := by
  simp only [State.updateRates, h.age, h.high, h.low]
  rfl

theorem updateRates_of_none (h : ∀ e wh wl, ¬ (s.cavern c).run.Window e wh wl) :
    s.updateRates c high low changed = s.modCavern c fun r => r.restartWindow high low := by
  unfold State.updateRates
  dsimp only
  split
  next hage hhigh hlow => exact absurd ⟨hage, hhigh, hlow⟩ (h _ _ _)
  next => rfl

end

section
variable {s u : State} {c : CavernId} {r : CavernRun} (h : Reworked s c r u)
include h

theorem Reworked.riseLimit (r' : CavernRun) : u.riseLimit c r' = s.riseLimit c r' := by
  rw [State.riseLimit, h.bands]
  rfl

theorem Reworked.fallLimit (r' : CavernRun) : u.fallLimit c r' = s.fallLimit c r' := by
  rw [State.fallLimit, h.bands]
  rfl

theorem Reworked.updateHolds : Reworked s c (r.held (s.riseLimit c r) (s.fallLimit c r)) (u.updateHolds c) := by
  rw [← h.riseLimit, ← h.fallLimit]
  obtain rfl := h.run
  exact ((h.modCavern fun r => { r with
    riseHold := decide (u.riseLimit c (u.cavern c).run < (u.cavern c).run.rise)
    fallHold := decide (u.fallLimit c (u.cavern c).run < (u.cavern c).run.fall) }).compareHold _ _ _).compareHold _ _ _

/-- What an update of the rates writes. -/
theorem Reworked.updateRates (high low : Int) (changed : Bool) : Reworked s c
    (r.rated (seconds (s.cavern c).cfg.rateWindow) (s.riseLimit c r) (s.fallLimit c r) high low changed)
      (u.updateRates c high low changed) := by
  by_cases hwindow : ∃ e wh wl, r.Window e wh wl
  · obtain ⟨e, wh, wl, hw⟩ := hwindow
    rw [rated_of_window _ _ _ _ _ _ _ hw, updateRates_of_window _ _ _ _ _ (h.run.symm ▸ hw), h.cfg]
    split
    · exact h.modCavern fun r => r.restartWindow high low
    · split
      · exact h
      · have hheld := (h.modCavern fun r =>
          r.ratesOver (seconds (s.cavern c).cfg.rateWindow) high low wh wl e).updateHolds
        have hrise : s.riseLimit c (r.ratesOver (seconds (s.cavern c).cfg.rateWindow) high low wh wl e) =
            s.riseLimit c r := by rw [ratesOver_frame]; rfl
        have hfall : s.fallLimit c (r.ratesOver (seconds (s.cavern c).cfg.rateWindow) high low wh wl e) =
            s.fallLimit c r := by rw [ratesOver_frame]; rfl
        rw [hrise, hfall] at hheld
        exact hheld
  · have hnone : ∀ e wh wl, ¬ r.Window e wh wl := fun e wh wl hw => hwindow ⟨e, wh, wl, hw⟩
    rw [rated_of_none _ _ _ _ _ _ _ hnone, updateRates_of_none _ _ _ _ _ (h.run.symm ▸ hnone)]
    exact h.modCavern fun r => r.restartWindow high low

end

end Sys2Proof.Machine
end

section
/-! PROOF. The faults of the hold flags, the trips at a hard limit, and what a recomputation of a cavern comes to. -/

namespace Sys2Proof.Machine

/-! ### The faults of the hold flags (R98) -/

/-- The last fault on record is RATE_HOLD for cavern `c` with a rate. -/
def State.rateHoldLast (u : State) (c : CavernId) (rate : Nat) : Prop :=
  (u.faults.ring.getLast?.map fun x => (x.cause, x.place, x.detail)) = some (Cause.rateHold, some c.val, some (nat rate))

/-- One hold flag changed from `old` to `new` is the last fault of `u`, with the rate it was compared at. -/
structure HoldFaults (c : CavernId) (old new : CavernRun) (u : State) : Prop where
  rise : new.riseHold ≠ old.riseHold → new.fallHold = old.fallHold → u.rateHoldLast c new.rise
  fall : new.riseHold = old.riseHold → new.fallHold ≠ old.fallHold → u.rateHoldLast c new.fall

theorem HoldFaults.of_same {c : CavernId} {old new : CavernRun} {u : State} (hrise : new.riseHold = old.riseHold)
    (hfall : new.fallHold = old.fallHold) : HoldFaults c old new u :=
  ⟨fun h => absurd hrise h, fun _ h => absurd hfall h⟩

section
variable (u : State) (c : CavernId)

theorem compareHold_same (old : Bool) (rate : Nat) : u.compareHold c old old rate = u := if_pos rfl

theorem compareHold_last {old new : Bool} (h : new ≠ old) (rate : Nat) :
    (u.compareHold c old new rate).rateHoldLast c rate := by
  rw [State.compareHold, if_neg h.symm, State.rateHoldLast, raise_faults, add_getLast]
  rfl

theorem updateHolds_faults : HoldFaults c (u.cavern c).run
    ((u.cavern c).run.held (u.riseLimit c (u.cavern c).run) (u.fallLimit c (u.cavern c).run)) (u.updateHolds c) := by
  let r := (u.cavern c).run
  let r' := r.held (u.riseLimit c r) (u.fallLimit c r)
  have hholds : u.updateHolds c =
      ((u.modCavern c fun r => { r with riseHold := r'.riseHold, fallHold := r'.fallHold }).compareHold c r.riseHold
        r'.riseHold r'.rise).compareHold c r.fallHold r'.fallHold r'.fall := rfl
  rw [hholds]
  refine ⟨fun hrise hfall => ?_, fun _ hfall => compareHold_last _ c hfall r'.fall⟩
  rw [show r'.fallHold = r.fallHold from hfall, compareHold_same]
  exact compareHold_last _ c hrise r'.rise

end

theorem Reworked.updateRates_faults {s u : State} {c : CavernId} {r : CavernRun} (h : Reworked s c r u) (high low : Int)
    (changed : Bool) : HoldFaults c r
      (r.rated (seconds (s.cavern c).cfg.rateWindow) (s.riseLimit c r) (s.fallLimit c r) high low changed)
      (u.updateRates c high low changed) := by
  by_cases hwindow : ∃ e wh wl, r.Window e wh wl
  · obtain ⟨e, wh, wl, hw⟩ := hwindow
    rw [rated_of_window _ _ _ _ _ _ _ hw, updateRates_of_window _ _ _ _ _ (h.run.symm ▸ hw), h.cfg]
    split
    · exact .of_same rfl rfl
    · split
      · exact .of_same rfl rfl
      · have hmod := h.modCavern fun r => r.ratesOver (seconds (s.cavern c).cfg.rateWindow) high low wh wl e
        have hfaults := updateHolds_faults
          (u.modCavern c fun r => r.ratesOver (seconds (s.cavern c).cfg.rateWindow) high low wh wl e) c
        rw [hmod.run, hmod.riseLimit, hmod.fallLimit] at hfaults
        rw [ratesOver_frame] at hfaults ⊢
        exact ⟨hfaults.rise, hfaults.fall⟩
  · have hnone : ∀ e wh wl, ¬ r.Window e wh wl := fun e wh wl hw => hwindow ⟨e, wh, wl, hw⟩
    rw [rated_of_none _ _ _ _ _ _ _ hnone]
    exact .of_same rfl rfl

/-! ### The hard limits (R102) -/

/-- The running condition of a train that trips at a hard limit. -/
def TrainRun.limitTripped (r : TrainRun) : TrainRun :=
  if r.state.holdsClaim then { r.takenDown with lastCause := some Cause.envelopeTrip } else r

section
variable (s : State) (c : CavernId) (t : TrainId) (p : Int)

theorem tripEnvelope_trains : (s.tripEnvelope t p).trains = trainsMod s.trains t TrainRun.limitTripped := by
  unfold State.tripEnvelope
  split
  next h =>
    rw [tripBySequencer_trains]
    exact trainsMod_congr (if_pos h).symm
  next h =>
    have hstands : (s.run t).limitTripped = s.run t := if_neg h
    exact (trainsMod_id s.trains t).symm.trans (trainsMod_congr hstands.symm)

/-- A cavern's running condition apart from its direction and its holders. -/
def CavernRun.sameBut (r r' : CavernRun) : Prop := ∃ d h, r' = { r with direction := d, holders := h }

theorem sameBut_refl (r : CavernRun) : r.sameBut r := ⟨_, _, rfl⟩

theorem CavernRun.sameBut.trans {a b d : CavernRun} (h : a.sameBut b) (h' : b.sameBut d) : a.sameBut d := by
  obtain ⟨_, _, rfl⟩ := h
  obtain ⟨_, _, rfl⟩ := h'
  exact ⟨_, _, rfl⟩

theorem unclaimed_sameBut (v : Vector Cavern 2) (d : CavernId) :
    (v.get c).run.sameBut ((unclaimed v d t).get c).run := by
  unfold unclaimed
  split
  · rw [modAt_get]
    split
    next h =>
      subst h
      exact ⟨_, _, rfl⟩
    next => exact sameBut_refl _
  · exact sameBut_refl _

theorem tripEnvelope_sameBut : (s.cavern c).run.sameBut ((s.tripEnvelope t p).cavern c).run := by
  unfold State.tripEnvelope
  split
  · rw [State.tripBySequencer, State.cavern, State.cavern, seqRaise_caverns, takeDown_caverns, sendTrip_frame]
    split
    · exact unclaimed_sameBut c t _ _
    · exact sameBut_refl _
  · exact sameBut_refl _

theorem tripHolders_sameBut : (s.cavern c).run.sameBut ((s.tripHolders c p).cavern c).run :=
  foldl_keeps (P := fun u : State => (s.cavern c).run.sameBut (u.cavern c).run)
    (f := fun u t => u.tripEnvelope t p) (fun u t h => h.trans (tripEnvelope_sameBut u c t p)) _ s (sameBut_refl _)

theorem mem_trainsOf (h : TrainSet) : t ∈ trainsOf h ↔ h.getLsbD t.val = true := by
  simp [trainsOf, mem_fins]

theorem tripHolders_run_holder (h : (s.cavern c).run.holders.getLsbD t.val = true) :
    (s.tripHolders c p).run t = (s.run t).limitTripped :=
  foldl_eachTrain_run (f := fun u t => u.tripEnvelope t p) (F := fun _ => TrainRun.limitTripped)
    (fun u v => tripEnvelope_trains u v p) ((fins_nodup 6).filter _) ((mem_trainsOf t _).2 h) s

theorem tripHolders_run_other (h : (s.cavern c).run.holders.getLsbD t.val = false) :
    (s.tripHolders c p).run t = s.run t :=
  foldl_eachTrain_other (f := fun u t => u.tripEnvelope t p) (F := fun _ => TrainRun.limitTripped)
    (fun u v => tripEnvelope_trains u v p) (by rw [mem_trainsOf, h]; exact Bool.false_ne_true) s

end

/-- A cavern worked in a direction at its hard limit, for a high and a low pressure. -/
def Cavern.atLimit (k : Cavern) (high low : Int) : Prop :=
  (k.run.direction = some .charge ∧ (k.cfg.hardMax : Int) ≤ high) ∨
    (k.run.direction = some .generate ∧ low ≤ (k.cfg.hardMin : Int))

section
variable (s : State) (c : CavernId) (high low : Int)

theorem testHardLimits_trips (h : (s.cavern c).atLimit high low) :
    ∃ p, s.testHardLimits c high low = s.tripHolders c p := by
  rcases h with ⟨hdir, hlimit⟩ | ⟨hdir, hlimit⟩
  · exact ⟨high, by simp only [State.testHardLimits, hdir, if_pos hlimit]⟩
  · exact ⟨low, by simp only [State.testHardLimits, hdir, if_pos hlimit]⟩

theorem testHardLimits_stands (h : ¬ (s.cavern c).atLimit high low) : s.testHardLimits c high low = s := by
  unfold State.testHardLimits
  dsimp only
  split
  next hdir => exact if_neg fun hlimit => h (.inl ⟨hdir, hlimit⟩)
  next hdir => exact if_neg fun hlimit => h (.inr ⟨hdir, hlimit⟩)
  next => rfl

theorem testHardLimits_sameBut : (s.cavern c).run.sameBut ((s.testHardLimits c high low).cavern c).run := by
  by_cases h : (s.cavern c).atLimit high low
  · obtain ⟨p, e⟩ := testHardLimits_trips s c high low h
    rw [e]
    exact tripHolders_sameBut s c p
  · rw [testHardLimits_stands s c high low h]
    exact sameBut_refl _

theorem testHardLimits_run_tripped (h : (s.cavern c).atLimit high low) {t : TrainId}
    (ht : (s.cavern c).run.holders.getLsbD t.val = true) :
    (s.testHardLimits c high low).run t = (s.run t).limitTripped := by
  obtain ⟨p, e⟩ := testHardLimits_trips s c high low h
  rw [e, tripHolders_run_holder s c t p ht]

theorem testHardLimits_run_other {t : TrainId} (h : ¬ (s.cavern c).atLimit high low ∨
    (s.cavern c).run.holders.getLsbD t.val = false ∨ (s.run t).state.holdsClaim = false) :
    (s.testHardLimits c high low).run t = s.run t := by
  by_cases hlimit : (s.cavern c).atLimit high low
  · by_cases ht : (s.cavern c).run.holders.getLsbD t.val = true
    · rw [testHardLimits_run_tripped s c high low hlimit ht]
      have hrests : (s.run t).state.holdsClaim = false := by
        rcases h with h | h | h
        · exact absurd hlimit h
        · exact nomatch ht.symm.trans h
        · exact h
      exact if_neg (by rw [hrests]; exact Bool.false_ne_true)
    · obtain ⟨p, e⟩ := testHardLimits_trips s c high low hlimit
      rw [e, tripHolders_run_other s c t p (Bool.eq_false_iff.2 ht)]
  · rw [testHardLimits_stands s c high low hlimit]

end

/-! ### A recomputation (R92, R93, R96) -/

/-- The table of R92: BLIND without a usable reading, else pressures. -/
theorem selectPressure_cases (tolerance : Nat) (a b : Option Int) :
    (a = none ∧ b = none) ∨
      ∃ cond high low, cond ≠ .blind ∧ selectPressure tolerance a b = (cond, some high, some low) := by
  cases a <;> cases b
  case none.none => exact .inl ⟨rfl, rfl⟩
  case none.some b => exact .inr ⟨_, _, _, by simp, rfl⟩
  case some.none a => exact .inr ⟨_, _, _, by simp, rfl⟩
  case some.some a b => exact .inr ⟨_, _, _, by split <;> simp, rfl⟩

/-- The running condition of a cavern found BLIND, its blind limit `ms` long. -/
def CavernRun.blinded (r : CavernRun) (ms : Nat) : CavernRun :=
  let r1 := { r with condition := .blind, high := none, low := none, usableA := false, usableB := false,
                     chargeBand := none, generateBand := none }
  if r.condition = .blind then r1
  else { r1 with blindTimer := .running ms, windowAge := none, windowHigh := none, windowLow := none }

/-- The running condition of a cavern found outside BLIND, before its rates are updated. -/
def CavernRun.seen (r : CavernRun) (cond : Condition) (high low : Int) (usableA usableB : Bool) (charge generate : Fin 8) :
    CavernRun :=
  { { r with condition := cond, high := some high, low := some low, usableA := usableA, usableB := usableB }.sighted
      r.condition with chargeBand := some charge, generateBand := some generate }

section
variable (s : State) (c : CavernId) (cond : Condition) (high low : Int)

/-- Whether the usable set differs from that of the previous recomputation (R97). -/
def State.usableChanged : Bool :=
  (s.cavern c).run.usableA != (s.usablePressure c .a).isSome || (s.cavern c).run.usableB != (s.usablePressure c .b).isSome

/-- The running condition of a cavern found outside BLIND, its bands in force, before its rates are updated. -/
def State.seenRun : CavernRun :=
  (s.cavern c).run.seen cond high low (s.usablePressure c .a).isSome (s.usablePressure c .b).isSome (s.bandFor c high)
    (s.bandFor c low)

/-- The running condition of a cavern found outside BLIND, its rates updated, before its hard limits are tested. -/
def State.ratedRun : CavernRun :=
  (s.seenRun c cond high low).rated (seconds (s.cavern c).cfg.rateWindow)
    (s.riseLimit c (s.seenRun c cond high low)) (s.fallLimit c (s.seenRun c cond high low)) high low (s.usableChanged c)

/-- A recomputation outside BLIND up to the update of its rates. -/
def State.sightings : State :=
  ((s.modCavern c fun r => { r with
      condition := cond, high := some high, low := some low, usableA := (s.usablePressure c .a).isSome,
      usableB := (s.usablePressure c .b).isSome }).conditionChange c (s.cavern c).run.condition cond
    (((s.usablePressure c .a).getD 0) - ((s.usablePressure c .b).getD 0)).natAbs).modCavern c fun r =>
      { r with chargeBand := some (s.bandFor c high), generateBand := some (s.bandFor c low) }

theorem sightings_reworked (hcond : cond ≠ .blind) :
    Reworked s c (s.seenRun c cond high low) (s.sightings c cond high low) := by
  have hread := (reworked_refl s c).modCavern fun r => { r with
    condition := cond, high := some high, low := some low, usableA := (s.usablePressure c .a).isSome,
    usableB := (s.usablePressure c .b).isSome }
  have hentered := hread.trans (conditionChange_seen _ c (old := (s.cavern c).run.condition) hcond
    (((s.usablePressure c .a).getD 0) - ((s.usablePressure c .b).getD 0)).natAbs)
  rw [hread.run] at hentered
  exact hentered.modCavern fun r =>
    { r with chargeBand := some (s.bandFor c high), generateBand := some (s.bandFor c low) }

theorem recomputed_unconfigured (h : (s.cavern c).cfg.configured = false) : s.recomputed c = s := by
  simp only [State.recomputed, h, Bool.not_false, if_true]

section
variable (hcfg : (s.cavern c).cfg.configured = true)
include hcfg

theorem recomputed_seen (hsel : selectPressure (s.cavern c).cfg.tolerance (s.usablePressure c .a)
      (s.usablePressure c .b) = (cond, some high, some low)) :
    s.recomputed c = ((s.sightings c cond high low).updateRates c high low (s.usableChanged c)).testHardLimits c high
      low := by
  simp only [State.recomputed, hcfg, hsel, Bool.not_true, Bool.false_eq_true, if_false]
  rfl

theorem recomputed_blind (ha : s.usablePressure c .a = none) (hb : s.usablePressure c .b = none) : s.recomputed c =
    ((s.modCavern c fun r => { r with
        condition := .blind, high := none, low := none, usableA := false, usableB := false }).conditionChange c
      (s.cavern c).run.condition .blind 0).modCavern c fun r => { r with chargeBand := none, generateBand := none } := by
  simp only [State.recomputed, hcfg, ha, hb, Bool.not_true, Bool.false_eq_true, if_false]
  rfl

theorem recomputed_blind_reworked (ha : s.usablePressure c .a = none) (hb : s.usablePressure c .b = none) :
    Reworked s c ((s.cavern c).run.blinded (seconds (s.cavern c).cfg.blindLimit)) (s.recomputed c) := by
  have hread := (reworked_refl s c).modCavern fun r => { r with
    condition := .blind, high := none, low := none, usableA := false, usableB := false }
  have hentered := hread.trans (conditionChange_blind _ c (s.cavern c).run.condition 0)
  have hbands := hentered.modCavern fun r => { r with chargeBand := none, generateBand := none }
  rw [hread.run, hread.cfg] at hbands
  rw [recomputed_blind s c hcfg ha hb]
  unfold CavernRun.blinded
  split
  next h =>
    rw [if_pos h] at hbands
    exact hbands
  next h =>
    rw [if_neg h] at hbands
    exact hbands

/-- On becoming BLIND a cavern's fault is the last on record (R93). -/
theorem recomputed_blind_fault (ha : s.usablePressure c .a = none) (hb : s.usablePressure c .b = none)
    (h : (s.cavern c).run.condition ≠ .blind) :
    ((s.recomputed c).faults.ring.getLast?.map fun x => (x.cause, x.place)) = some (Cause.cavernBlind, some c.val) := by
  rw [recomputed_blind s c hcfg ha hb, State.modCavern_faults, State.conditionChange, if_neg h, raise_faults, add_getLast]
  rfl

end

end

end Sys2Proof.Machine
end

section
/-! PROOF. The recomputation of a cavern: its rates, its bands in force, its usable transmitters and its timers (O32). -/

namespace Sys2Proof.Machine

/-! ### A recomputation settled at its end (R82, R88) -/

theorem settleSince_frame (u s : State) :
    u.settleSince s = { u with link := (u.settleSince s).link, queue := (u.settleSince s).queue } :=
  (driveFrame u).settleSince rfl s

section
variable (s : State) (c : CavernId)

theorem recomputeCavern_caverns : (s.recomputeCavern c).caverns = (s.recomputed c).caverns := by
  rw [State.recomputeCavern, settleSince_frame]

theorem recomputeCavern_trains : (s.recomputeCavern c).trains = (s.recomputed c).trains := by
  rw [State.recomputeCavern, settleSince_frame]

theorem recomputeCavern_faults : (s.recomputeCavern c).faults = (s.recomputed c).faults := by
  rw [State.recomputeCavern, settleSince_frame]

theorem recomputeCavern_unconfigured (h : (s.cavern c).cfg.configured = false) : s.recomputeCavern c = s := by
  rw [State.recomputeCavern, recomputed_unconfigured s c h, settleSince_of_queue rfl]

section
variable (hcfg : (s.cavern c).cfg.configured = true) (ha : s.usablePressure c .a = none)
  (hb : s.usablePressure c .b = none)
include hcfg ha hb

theorem recomputeCavern_blind_run : ((s.recomputeCavern c).cavern c).run =
    (s.cavern c).run.blinded (seconds (s.cavern c).cfg.blindLimit) :=
  (congrArg Cavern.run (cavern_of_caverns (recomputeCavern_caverns s c) c)).trans
    (recomputed_blind_reworked s c hcfg ha hb).run

theorem recomputeCavern_blind_trains (t : TrainId) : (s.recomputeCavern c).run t = s.run t :=
  run_of_trains ((recomputeCavern_trains s c).trans (recomputed_blind_reworked s c hcfg ha hb).trains) t

end

/-! ### The rates of a cavern outside BLIND (R97) -/

section
variable (cond : Condition) (high low : Int)

/-- What an update of the rates leaves of the readings, the bands and the blind timer. -/
theorem ratedRun_fields : (s.ratedRun c cond high low).condition = cond ∧
    (s.ratedRun c cond high low).high = some high ∧ (s.ratedRun c cond high low).low = some low ∧
    (s.ratedRun c cond high low).chargeBand = some (s.bandFor c high) ∧
    (s.ratedRun c cond high low).generateBand = some (s.bandFor c low) ∧
    ((s.cavern c).run.condition = .blind → (s.ratedRun c cond high low).blindTimer = .idle) ∧
    (s.ratedRun c cond high low).direction = (s.cavern c).run.direction ∧
    (s.ratedRun c cond high low).holders = (s.cavern c).run.holders := by
  obtain ⟨_, _, _, _, _, _, _, e⟩ := rated_frame (s.seenRun c cond high low) (seconds (s.cavern c).cfg.rateWindow)
    (s.riseLimit c (s.seenRun c cond high low)) (s.fallLimit c (s.seenRun c cond high low)) high low (s.usableChanged c)
  rw [State.ratedRun, e]
  exact ⟨rfl, rfl, rfl, rfl, rfl, fun h => if_pos h, rfl, rfl⟩

theorem ratedRun_restarts (h : (s.cavern c).run.windowAge = none ∨ s.usableChanged c = true) :
    s.ratedRun c cond high low = (s.seenRun c cond high low).restartWindow high low := rated_restarts _ _ _ _ _ _ _ h

section
variable {e : Nat} {wh wl : Int} (hw : (s.cavern c).run.Window e wh wl) (hsame : s.usableChanged c = false)
include hw hsame

theorem ratedRun_young (he : e < 10000) : s.ratedRun c cond high low = s.seenRun c cond high low := by
  rw [State.ratedRun, rated_of_window (s.seenRun c cond high low) _ _ _ _ _ _ ⟨hw.age, hw.high, hw.low⟩, hsame,
    if_neg Bool.false_ne_true, if_pos he]

theorem ratedRun_ripe (he : 10000 ≤ e) : s.ratedRun c cond high low =
    ((s.seenRun c cond high low).ratesOver (seconds (s.cavern c).cfg.rateWindow) high low wh wl e).held
      (s.bands.get (bandIndex c (s.bandFor c high))).maxRise (s.bands.get (bandIndex c (s.bandFor c low))).maxFall := by
  rw [State.ratedRun, rated_of_window (s.seenRun c cond high low) _ _ _ _ _ _ ⟨hw.age, hw.high, hw.low⟩, hsame,
    if_neg Bool.false_ne_true, if_neg (Nat.not_lt.2 he), riseLimit_of_band s c (b := s.bandFor c high) rfl,
    fallLimit_of_band s c (b := s.bandFor c low) rfl]

end

/-! ### The hard limits of a cavern outside BLIND (R102) -/

section
variable (hcfg : (s.cavern c).cfg.configured = true) (hcond : cond ≠ .blind)
  (hsel : selectPressure (s.cavern c).cfg.tolerance (s.usablePressure c .a) (s.usablePressure c .b) =
    (cond, some high, some low))
include hcond

/-- A recomputation outside BLIND up to the hard limits. -/
theorem sightings_rated : Reworked s c (s.ratedRun c cond high low)
    ((s.sightings c cond high low).updateRates c high low (s.usableChanged c)) :=
  (sightings_reworked s c cond high low hcond).updateRates high low (s.usableChanged c)

theorem sightings_atLimit : (((s.sightings c cond high low).updateRates c high low (s.usableChanged c)).cavern c).atLimit
    high low ↔ (s.cavern c).atLimit high low := by
  obtain ⟨-, -, -, -, -, -, hdir, -⟩ := ratedRun_fields s c cond high low
  rw [(sightings_rated s c cond high low hcond).cavern, Cavern.atLimit, Cavern.atLimit, hdir]

include hcfg hsel

theorem recomputeCavern_seen_run :
    (s.ratedRun c cond high low).sameBut ((s.recomputeCavern c).cavern c).run := by
  rw [cavern_of_caverns (recomputeCavern_caverns s c) c, recomputed_seen s c cond high low hcfg hsel,
    ← (sightings_rated s c cond high low hcond).run]
  exact testHardLimits_sameBut _ c high low

theorem recomputeCavern_seen_tripped (hlimit : (s.cavern c).atLimit high low) {t : TrainId}
    (ht : (s.cavern c).run.holders.getLsbD t.val = true) : (s.recomputeCavern c).run t = (s.run t).limitTripped := by
  have hrated := sightings_rated s c cond high low hcond
  obtain ⟨-, -, -, -, -, -, -, hholders⟩ := ratedRun_fields s c cond high low
  rw [run_of_trains (recomputeCavern_trains s c) t, recomputed_seen s c cond high low hcfg hsel,
    testHardLimits_run_tripped _ c high low ((sightings_atLimit s c cond high low hcond).2 hlimit)
      (by rw [hrated.run, hholders]; exact ht), run_of_trains hrated.trains t]

theorem recomputeCavern_seen_other {t : TrainId} (h : ¬ (s.cavern c).atLimit high low ∨
    (s.cavern c).run.holders.getLsbD t.val = false ∨ (s.run t).state.holdsClaim = false) :
    (s.recomputeCavern c).run t = s.run t := by
  have hrated := sightings_rated s c cond high low hcond
  obtain ⟨-, -, -, -, -, -, -, hholders⟩ := ratedRun_fields s c cond high low
  rw [run_of_trains (recomputeCavern_trains s c) t, recomputed_seen s c cond high low hcfg hsel,
    testHardLimits_run_other, run_of_trains hrated.trains t]
  rw [sightings_atLimit s c cond high low hcond, hrated.run, hholders, run_of_trains hrated.trains t]
  exact h

theorem recomputeCavern_seen_faults (h : ¬ (s.cavern c).atLimit high low) :
    HoldFaults c (s.cavern c).run (s.ratedRun c cond high low) (s.recomputeCavern c) := by
  have hfaults := (sightings_reworked s c cond high low hcond).updateRates_faults high low (s.usableChanged c)
  have hkept : (s.recomputeCavern c).faults =
      ((s.sightings c cond high low).updateRates c high low (s.usableChanged c)).faults := by
    rw [recomputeCavern_faults, recomputed_seen s c cond high low hcfg hsel,
      testHardLimits_stands _ c high low (mt (sightings_atLimit s c cond high low hcond).1 h)]
  refine ⟨fun hrise hfall => ?_, fun hrise hfall => ?_⟩
  · rw [State.rateHoldLast, hkept]
    exact hfaults.rise hrise hfall
  · rw [State.rateHoldLast, hkept]
    exact hfaults.fall hrise hfall

end

end

/-! ### The bands in force (R96) -/

/-- What a search over every index finds is the least. -/
theorem least_of_find_fins {n : Nat} {p : Fin n → Bool} {k : Fin n} (h : (fins n).find? p = some k) :
    leastIndex (fun i => p i = true) k := by
  obtain ⟨hk, as, bs, hl, has⟩ := List.find?_eq_some_iff_append.1 h
  refine ⟨hk, fun j hj => ?_⟩
  have hmem : j ∈ as ++ k :: bs := hl ▸ mem_fins j
  have hpairs := hl ▸ fins_pairwise n
  rcases List.mem_append.1 hmem with ha | hb
  · simpa using has j ha
  · rcases List.mem_cons.1 hb with rfl | hb
    · exact absurd hj (lt_irrefl _)
    · exact absurd hj (not_lt_of_gt (List.rel_of_pairwise_cons (List.pairwise_append.1 hpairs).2.1 hb))

/-- The band in force is the first whose bound is at or above the pressure, or the last where there is none. -/
theorem bandFor_least (p : Int) :
    (p ≤ (s.bands.get (bandIndex c (s.bandFor c p))).bound ∨ s.bandFor c p = 7) ∧
      ∀ a : Fin 8, a < s.bandFor c p → ¬ p ≤ (s.bands.get (bandIndex c a)).bound := by
  unfold State.bandFor
  cases hfind : (fins 8).find? fun b => decide (p ≤ ((s.bands.get (bandIndex c b)).bound : Int)) with
  | none =>
    refine ⟨.inr rfl, fun a _ => ?_⟩
    simpa using List.find?_eq_none.1 hfind a (mem_fins a)
  | some b =>
    obtain ⟨hb, hleast⟩ := least_of_find_fins hfind
    exact ⟨.inl (of_decide_eq_true hb), fun a hlt => by simpa using hleast a hlt⟩

end

theorem limitTripped_fields {r : TrainRun} (h : r.state.holdsClaim = true) : r.limitTripped.state = .tripped ∧
    r.limitTripped.mode = none ∧ r.limitTripped.timer = none ∧ r.limitTripped.lastCause = some Cause.envelopeTrip := by
  obtain ⟨hstate, hmode, -, htimer, -⟩ := takenDown_fields r
  rw [TrainRun.limitTripped, if_pos h]
  exact ⟨hstate, hmode, htimer, rfl⟩

/-! ### Usable transmitters (R91) -/

section
variable {s : State} {c : CavernId} {x : Transmitter} {i : ScanId} (hi : s.cavernPoint c x = some i)
include hi

theorem usablePressure_of_point : s.usablePressure c x =
    if (s.points.get i).readable && fresh (s.points.get i) (s.cavern c).cfg.staleness then (s.points.get i).value
    else none := by
  rw [State.usablePressure, hi]
  rfl

theorem usablePressure_unread (h : (s.points.get i).quality = .bad ∨ (s.points.get i).age = none) :
    s.usablePressure c x = none := by
  rw [usablePressure_of_point hi]
  rcases h with h | h
  · simp [Point.readable, h]
  · simp [fresh, h]

/-- A readable point with a last success is judged by how far back that lies. -/
theorem usablePressure_read {a : Nat} (hread : (s.points.get i).quality ≠ .bad) (hage : (s.points.get i).age = some a) :
    s.usablePressure c x =
      if a < seconds (s.cavern c).cfg.staleness ∨
          (a = seconds (s.cavern c).cfg.staleness ∧ (s.points.get i).staleAt ≠ some a) then (s.points.get i).value
      else none := by
  rw [usablePressure_of_point hi]
  simp [Point.readable, hread, fresh, hage]

end

/-! ### The timers of a cavern (R91, R94) -/

theorem foldl_requestStop (k : Cause) (l : List TrainId) (s : State) :
    l.foldl (fun s t => s.requestStop t k) s =
      { s with stopRequests := s.stopRequests ++ l.map fun t => { train := t, cause := k } } := by
  induction l generalizing s with
  | nil => rw [List.foldl_nil, List.map_nil, List.append_nil]
  | cons t l ih =>
    rw [List.foldl_cons, ih, List.map_cons, ← List.singleton_append, ← List.append_assoc]
    rfl

section
variable (s : State) (c : CavernId)

theorem expireBlind_running {n : Nat} (h : (s.cavern c).run.blindTimer = .running n) : s.expireBlind c =
    { s.modCavern c (fun r => { r with blindTimer := .expired }) with
      stopRequests := s.stopRequests ++
        (trainsOf (s.cavern c).run.holders).map fun t => { train := t, cause := Cause.blindStop } } := by
  rw [State.expireBlind, h]
  exact foldl_requestStop _ _ _

theorem expireBlind_stands (h : ∀ n, (s.cavern c).run.blindTimer ≠ .running n) : s.expireBlind c = s := by
  unfold State.expireBlind
  split
  next n hn => exact absurd hn (h n)
  next => rfl

section
variable (x : Transmitter)

theorem expireStaleness_idle (h : (s.cavern c).run.stale x = none) : s.expireStaleness c x = s := by
  rw [State.expireStaleness, h]

section
variable {n : Nat} (h : (s.cavern c).run.stale x = some n)
include h

theorem expireStaleness_unread (hp : s.cavernPoint c x = none) :
    s.expireStaleness c x = (s.modCavern c fun r => r.setStale x none).recomputeCavern c := by
  have hpoint : (s.modCavern c fun r => r.setStale x none).cavernPoint c x = none := hp
  simp only [State.expireStaleness, h, hpoint]

theorem expireStaleness_read {i : ScanId} (hp : s.cavernPoint c x = some i) : s.expireStaleness c x =
    ((s.modCavern c fun r => r.setStale x none).modPoint i fun p => p.expire n).recomputeCavern c := by
  have hpoint : (s.modCavern c fun r => r.setStale x none).cavernPoint c x = some i := hp
  simp only [State.expireStaleness, h, hpoint]

end

end

end

/-! ### O32 -/

theorem usableChanged_iff (s : State) (c : CavernId) : s.usableChanged c = true ↔
    (s.cavern c).run.usableA ≠ (s.usablePressure c .a).isSome ∨
      (s.cavern c).run.usableB ≠ (s.usablePressure c .b).isSome := by
  rw [State.usableChanged, Bool.or_eq_true, bne_iff_ne, bne_iff_ne]

/-- What a cavern found BLIND keeps (R92, R97, R98). -/
theorem blinded_fields (r : CavernRun) (ms : Nat) :
    (r.blinded ms).condition = .blind ∧ (r.blinded ms).high = none ∧ (r.blinded ms).low = none ∧
      (r.blinded ms).chargeBand = none ∧ (r.blinded ms).generateBand = none ∧ (r.blinded ms).rise = r.rise ∧
      (r.blinded ms).fall = r.fall ∧ (r.blinded ms).riseHold = r.riseHold ∧ (r.blinded ms).fallHold = r.fallHold := by
  unfold CavernRun.blinded
  dsimp only
  split <;> exact ⟨rfl, rfl, rfl, rfl, rfl, rfl, rfl, rfl, rfl⟩

theorem blinded_entered {r : CavernRun} (h : r.condition ≠ .blind) (ms : Nat) :
    (r.blinded ms).blindTimer = .running ms ∧ (r.blinded ms).windowAge = none := by
  rw [CavernRun.blinded]
  dsimp only
  rw [if_neg h]
  exact ⟨rfl, rfl⟩

/-- Settles O32: a recomputation finds the cavern BLIND or reads its pressures; what it then writes stands through the
trips of the hard limits, which take the holders alone. -/
theorem cavernConditionAndTimers : Obligations.CavernConditionAndTimers := by
  refine ⟨fun s c => ?_, fun s c x => ⟨fun h => congrArg Host.Outcome.next (expireStaleness_idle s c x h),
    fun n h hp => congrArg Host.Outcome.next (expireStaleness_unread s c x h hp),
    fun n i h hp => congrArg Host.Outcome.next (expireStaleness_read s c x h hp), fun i hi => ?_,
    fun n h => congrArg Host.Outcome.next (expireBlind_running s c h),
    fun h => congrArg Host.Outcome.next (expireBlind_stands s c h)⟩⟩
  · intro k u r inForce
    refine ⟨recomputeCavern_unconfigured s c, fun hcfg => ?_⟩
    rcases selectPressure_cases k.cfg.tolerance (s.usablePressure c .a) (s.usablePressure c .b) with
      ⟨ha, hb⟩ | ⟨cond, high, low, hcond, hsel⟩
    · have hrun : r = k.run.blinded (seconds k.cfg.blindLimit) := recomputeCavern_blind_run s c hcfg ha hb
      obtain ⟨hcondition, hhigh, hlow, hcharge, hgenerate, hrise, hfall, hriseHold, hfallHold⟩ :=
        blinded_fields k.run (seconds k.cfg.blindLimit)
      rw [← hrun] at hcondition hhigh hlow hcharge hgenerate hrise hfall hriseHold hfallHold
      refine ⟨fun a b h => (nomatch ha.symm.trans h), fun x h => ?_, fun _ _ => ⟨hcondition, hhigh, hlow, hcharge,
        hgenerate, hrise, hfall, hriseHold, hfallHold, fun h => ?_⟩, fun p h => (nomatch hhigh.symm.trans h),
        fun p h => (nomatch hlow.symm.trans h), fun _ h => absurd hcondition h,
        fun hi lo h => (nomatch hhigh.symm.trans h), fun t hlimit => ?_,
        fun t _ => recomputeCavern_blind_trains s c hcfg ha hb t, fun _ h => absurd hriseHold h,
        fun _ _ h => absurd hfallHold h⟩
      · rcases h with ⟨h, -⟩ | ⟨-, h⟩
        · exact nomatch ha.symm.trans h
        · exact nomatch hb.symm.trans h
      · obtain ⟨htimer, hage⟩ := blinded_entered h (seconds k.cfg.blindLimit)
        rw [hrun, show u.faults = _ from recomputeCavern_faults s c]
        exact ⟨htimer, hage, recomputed_blind_fault s c hcfg ha hb h⟩
      · rcases hlimit with ⟨-, p, hp, -⟩ | ⟨-, p, hp, -⟩
        · exact nomatch hhigh.symm.trans hp
        · exact nomatch hlow.symm.trans hp
    · obtain ⟨dir, holders, hrun⟩ : (s.ratedRun c cond high low).sameBut r :=
        recomputeCavern_seen_run s c cond high low hcfg hcond hsel
      clear_value r
      subst hrun
      obtain ⟨hcondition, hhigh, hlow, hcharge, hgenerate, htimer, -, -⟩ := ratedRun_fields s c cond high low
      have hlimit : ((k.run.direction = some .charge ∧
            ∃ hi, (s.ratedRun c cond high low).high = some hi ∧ (k.cfg.hardMax : Int) ≤ hi) ∨
          (k.run.direction = some .generate ∧
            ∃ lo, (s.ratedRun c cond high low).low = some lo ∧ lo ≤ (k.cfg.hardMin : Int))) ↔ k.atLimit high low := by
        simp only [hhigh, hlow, Option.some.injEq, exists_eq_left', Cavern.atLimit]
      have hfaults := recomputeCavern_seen_faults s c cond high low hcfg hcond hsel
      refine ⟨fun a b ha hb => ?_, fun x h => ?_, fun ha hb => ?_, fun p h => ?_, fun p h => ?_, fun h _ => htimer h,
        fun hi lo hhi hlo => ?_, fun t hl ht hclaim => ?_,
        fun t h => recomputeCavern_seen_other s c cond high low hcfg hcond hsel (h.imp_left (mt hlimit.2)),
        fun hl => (hfaults (mt hlimit.2 hl)).rise, fun hl => (hfaults (mt hlimit.2 hl)).fall⟩
      · rw [ha, hb, selectPressure, Prod.mk.injEq, Prod.mk.injEq] at hsel
        obtain ⟨rfl, rhigh, rlow⟩ := hsel
        exact ⟨hcondition, hhigh.trans rhigh.symm, hlow.trans rlow.symm⟩
      · have hone : .single = cond ∧ some x = some high ∧ some x = some low := by
          rcases h with ⟨ha, hb⟩ | ⟨ha, hb⟩ <;>
            rwa [ha, hb, selectPressure, Prod.mk.injEq, Prod.mk.injEq] at hsel
        obtain ⟨rfl, rhigh, rlow⟩ := hone
        exact ⟨hcondition, hhigh.trans rhigh.symm, hlow.trans rlow.symm⟩
      · rw [ha, hb] at hsel
        exact nomatch hsel
      · cases hhigh.symm.trans h
        exact ⟨_, hcharge, bandFor_least s c high⟩
      · cases hlow.symm.trans h
        exact ⟨_, hgenerate, bandFor_least s c low⟩
      · intro changed windowIs ratesStand
        cases hhigh.symm.trans hhi
        cases hlow.symm.trans hlo
        have hchanged : s.usableChanged c = true ↔ changed := usableChanged_iff s c
        refine ⟨fun h => ?_, fun e wh wl hage hwh hwl hsame => ?_⟩
        · dsimp only [windowIs, ratesStand]
          rw [ratedRun_restarts s c cond high low (h.imp_right hchanged.2)]
          exact ⟨⟨rfl, rfl, rfl⟩, rfl, rfl, rfl, rfl⟩
        · have hw : k.run.Window e wh wl := ⟨hage, hwh, hwl⟩
          have hstands : s.usableChanged c = false := Bool.eq_false_iff.2 (mt hchanged.1 hsame)
          refine ⟨fun he => ?_, fun he => ?_⟩
          · dsimp only [windowIs, ratesStand]
            rw [ratedRun_young s c cond high low hw hstands he]
            exact ⟨⟨hage, hwh, hwl⟩, rfl, rfl, rfl, rfl⟩
          · have hripe := ratedRun_ripe s c cond high low hw hstands he
            rw [ratesOver_frame] at hripe
            dsimp only [windowIs]
            refine ⟨?_, ?_, fun b hb => ?_, fun b hb => ?_, fun hout => ?_, fun hin => ?_⟩
            · rw [hripe]
              rfl
            · rw [hripe]
              rfl
            · cases hcharge.symm.trans hb
              rw [hripe]
              rfl
            · cases hgenerate.symm.trans hb
              rw [hripe]
              rfl
            · rw [hripe]
              exact ⟨if_pos hout, if_pos hout, if_pos hout⟩
            · rw [hripe]
              have hlasts : ¬ seconds k.cfg.rateWindow ≤ e := Nat.not_le.2 hin
              exact ⟨(if_neg hlasts).trans hage, (if_neg hlasts).trans hwh, (if_neg hlasts).trans hwl⟩
      · rw [show u.run t = _ from recomputeCavern_seen_tripped s c cond high low hcfg hcond hsel (hlimit.1 hl) ht]
        exact limitTripped_fields hclaim
  · refine ⟨usablePressure_unread hi, fun a hread hage => ?_⟩
    rw [usablePressure_read hi hread hage]
    refine ⟨fun h => if_pos (.inl h), fun h hs => if_pos (.inr ⟨h, hs⟩), fun h hs => if_neg ?_, fun h => if_neg ?_⟩
    · rintro (hlt | ⟨-, hne⟩)
      · exact absurd h (Nat.ne_of_lt hlt)
      · exact hne hs
    · rintro (hlt | ⟨heq, -⟩)
      · exact absurd h (Nat.not_lt.2 (Nat.le_of_lt hlt))
      · exact absurd heq (Nat.ne_of_gt h)

end Sys2Proof.Machine
end

section
/-! PROOF. Writes that name one entry, and the writes of CAVERNS (O50). -/

namespace Sys2Proof.Machine

/-! ### A write that names one entry (R179) -/

section
variable {n : Nat} {α : Type} {T : Table n α} {v w : Vector α n} {fs : List Field} {l : List Item}
  (hj : T.judge v fs = .ok (w, l))
include hj

/-- Entries an accepted write does not name stand. -/
theorem judge_get_other {i : Fin n} (h : ∀ f ∈ fs, f.index.toNat ≠ i.val) : w.get i = v.get i := by
  rw [Table.judge_ok T v w fs l hj]
  exact after_get_other T fun f hf => h f (mem_of_mem_lastWrites hf)

/-- An accepted write that changes an entry has an item. -/
theorem judge_nonempty {i : Fin n} (h : w.get i ≠ v.get i) : fs ≠ [] := by
  rintro rfl
  exact h (judge_get_other hj fun f hf => (nomatch hf))

section
variable {i : Fin n} (hone : fs.all (fun f => f.index.toNat == i.val) = true)
include hone

theorem judge_get_other_of_one {j : Fin n} (h : j ≠ i) : w.get j = v.get j := by
  refine judge_get_other hj fun f hf heq => h (Fin.ext ?_)
  rw [← heq, beq_iff_eq.1 (List.all_eq_true.1 hone f hf)]

end

end

section
variable {n : Nat} {fs : List Field} {i : Fin n} (hone : fs.all (fun f => f.index.toNat == i.val) = true)
include hone

theorem writtenEntries_one (hne : fs ≠ []) : writtenEntries n fs = [i] := by
  obtain ⟨f, hf⟩ := List.exists_mem_of_ne_nil fs hne
  have hindex (g : Field) (hg : g ∈ fs) : g.index.toNat = i.val := beq_iff_eq.1 (List.all_eq_true.1 hone g hg)
  have hp (j : Fin n) : (fs.any fun g => g.index.toNat == j.val) = decide (j = i) := by
    rw [Bool.eq_iff_iff, List.any_eq_true, decide_eq_true_eq]
    constructor
    · rintro ⟨g, hg, hgj⟩
      exact Fin.ext ((beq_iff_eq.1 hgj).symm.trans (hindex g hg))
    · rintro rfl
      exact ⟨f, hf, beq_iff_eq.2 (hindex f hf)⟩
  rw [writtenEntries, List.filter_congr fun j _ => hp j, fins_eq_finRange, List.filter_eq, List.count_finRange]
  rfl

theorem writtenFields_one (k : Nat) : (writtenFields fs i).contains k = true ↔ ∃ f ∈ fs, f.number.toNat = k := by
  rw [List.contains_iff_mem, mem_writtenFields]
  constructor
  · rintro ⟨f, hf, -, hk⟩
    exact ⟨f, hf, hk⟩
  · rintro ⟨f, hf, hk⟩
    exact ⟨f, hf, beq_iff_eq.1 (List.all_eq_true.1 hone f hf), hk⟩

end

/-! ### Whole-table refusals of CAVERNS (R90) -/

theorem ordered_iff (k : CavernCfg) :
    k.ordered = true ↔ k.hardMin ≤ k.minOp ∧ k.minOp < k.maxOp ∧ k.maxOp ≤ k.hardMax := by
  simp [CavernCfg.ordered, and_assoc]

section
variable {v w : Vector Cavern 2}

theorem cavernsWhole_disordered {c : CavernId} (h : leastIndex (fun c => ¬ (w.get c).cfg.ordered = true) c) :
    cavernsWhole v w = some (inconsistent tCaverns c.val) := by
  have hfind : ((fins 2).find? fun c => !(w.get c).cfg.ordered) = some c :=
    find_fins_of_least (by simpa [leastIndex] using h)
  rw [cavernsWhole, hfind]

/-- A configured cavern with holders that a write would unconfigure. -/
def heldCavern (v w : Vector Cavern 2) (c : CavernId) : Prop :=
  (v.get c).cfg.configured = true ∧ (w.get c).cfg.configured = false ∧ (v.get c).run.holders ≠ 0

theorem cavernsWhole_ordered (h : ∀ c, (w.get c).cfg.ordered = true) :
    cavernsWhole v w = if (fins 2).any fun c =>
        (v.get c).cfg.configured && !(w.get c).cfg.configured && (v.get c).run.holders != 0 then some (refusal .inUse)
      else none := by
  have hfind : ((fins 2).find? fun c => !(w.get c).cfg.ordered) = none := find_fins_none fun c => by simp [h c]
  rw [cavernsWhole, hfind]

theorem heldCavern_test : ((fins 2).any fun c =>
    (v.get c).cfg.configured && !(w.get c).cfg.configured && (v.get c).run.holders != 0) = true ↔
      ∃ c, heldCavern v w c := by
  simp only [List.any_eq_true, mem_fins, true_and, Bool.and_eq_true, Bool.not_eq_true', bne_iff_ne, heldCavern,
    and_assoc, ne_eq]

theorem cavernsWhole_inUse (h : ∀ c, (w.get c).cfg.ordered = true) (hheld : ∃ c, heldCavern v w c) :
    cavernsWhole v w = some (refusal .inUse) := by
  rw [cavernsWhole_ordered h, if_pos (heldCavern_test.2 hheld)]

theorem cavernsWhole_accepted (h : ∀ c, (w.get c).cfg.ordered = true) (hfree : ∀ c, ¬ heldCavern v w c) :
    cavernsWhole v w = none := by
  rw [cavernsWhole_ordered h, if_neg (mt heldCavern_test.1 (not_exists.2 hfree))]

end

/-! ### What a write does to one cavern (R90) -/

section
variable (v : Vector Cavern 2) (fs : List Field) (s : State) (c : CavernId)

theorem cavernWritten_configures (hwas : (v.get c).cfg.configured = false) (hnow : (s.cavern c).cfg.configured = true) :
    State.cavernWritten v fs s c = s.configureCavern c := by
  simp only [State.cavernWritten, hwas, hnow, Bool.not_false, Bool.and_true, if_true]

theorem cavernWritten_unconfigures (hwas : (v.get c).cfg.configured = true)
    (hnow : (s.cavern c).cfg.configured = false) : State.cavernWritten v fs s c = s.modCavern c fun _ => {} := by
  simp only [State.cavernWritten, hwas, hnow, Bool.not_false, Bool.not_true, Bool.and_true, Bool.and_false,
    Bool.false_eq_true, if_true, if_false]

/-- A cavern that stays configured or unconfigured is recomputed by a write of its field 7 or 8. -/
theorem cavernWritten_same (hsame : (s.cavern c).cfg.configured = (v.get c).cfg.configured) :
    State.cavernWritten v fs s c =
      if (writtenFields fs c).contains 7 || (writtenFields fs c).contains 8 then s.recomputed c else s := by
  simp only [State.cavernWritten, hsame, Bool.and_not_self, Bool.false_eq_true, if_false]

end

theorem settleSince_congr (u : State) {s v : State} (h : v.queue = s.queue) : u.settleSince s = u.settleSince v := by
  rw [State.settleSince, State.settleSince, h]

theorem settleSince_self (s : State) : s.settleSince s = s := settleSince_of_queue rfl

theorem modCavern_settled (s : State) (c : CavernId) (f : CavernRun → CavernRun) :
    (s.modCavern c f).settleSince s = s.modCavern c f := settleSince_of_queue rfl

/-- A cavern found BLIND trips no holder, so its recomputation leaves the drive queue. -/
theorem recomputed_blind_queue (s : State) (c : CavernId) (hcfg : (s.cavern c).cfg.configured = true)
    (h : ((s.recomputed c).cavern c).run.condition = .blind) :
    (s.recomputed c).queue = s.queue ∧ ((s.recomputed c).cavern c).cfg = (s.cavern c).cfg := by
  rcases selectPressure_cases (s.cavern c).cfg.tolerance (s.usablePressure c .a) (s.usablePressure c .b) with
    ⟨ha, hb⟩ | ⟨cond, high, low, hcond, hsel⟩
  · have hblind := recomputed_blind_reworked s c hcfg ha hb
    exact ⟨hblind.queue, hblind.cfg⟩
  · obtain ⟨_, _, hrun⟩ := recomputeCavern_seen_run s c cond high low hcfg hcond hsel
    obtain ⟨hcondition, -⟩ := ratedRun_fields s c cond high low
    rw [cavern_of_caverns (recomputeCavern_caverns s c) c] at hrun
    rw [hrun] at h
    exact absurd (hcondition.symm.trans h) hcond

/-- A cavern just configured, settled at the end of the write. -/
theorem configureCavern_settled (s : State) (c : CavernId) (hcfg : (s.cavern c).cfg.configured = true) :
    (s.configureCavern c).settleSince s =
      if ((s.recomputeCavern c).cavern c).run.condition = .blind then
        (s.recomputeCavern c).modCavern c fun r =>
          { r with blindTimer := .running (seconds (s.cavern c).cfg.blindLimit) }
      else s.recomputeCavern c := by
  rw [State.configureCavern, cavern_of_caverns (recomputeCavern_caverns s c) c]
  split
  next h =>
    obtain ⟨hqueue, hlimit⟩ := recomputed_blind_queue s c hcfg h
    rw [hlimit, State.recomputeCavern, settleSince_of_queue hqueue]
    exact settleSince_of_queue hqueue
  next => rfl

/-! ### The writes taken, and those of CAVERNS (R90) -/

section
variable {h : Header} {fs : List Field} {s : State} {m : Manager} (hm : s.managerOf h = some m) (hl : m.level ≤ 1)
  (hfs : fs.length ≤ 15)
include hm hl hfs

theorem exec_writeCaverns : exec (.writeCaverns h fs) s = .next (s.finishWrite m (s.writeCaverns fs)) :=
  congrArg Host.Outcome.next (arriveManage_accepted hm (by omega) (by omega) nofun hl)

theorem exec_writeStores : exec (.writeStores h fs) s = .next (s.finishWrite m (s.writeStores fs)) :=
  congrArg Host.Outcome.next (arriveManage_accepted hm (by omega) (by omega) nofun hl)

theorem exec_writeLayers : exec (.writeLayers h fs) s = .next (s.finishWrite m (s.writeLayers fs)) :=
  congrArg Host.Outcome.next (arriveManage_accepted hm (by omega) (by omega) nofun hl)

section
variable {w : Vector Cavern 2} {l : List Item} (hj : (cavernTable s).judge s.caverns fs = .ok (w, l))
include hj

theorem exec_writeCaverns_refused {r : MRefusal} (hw : cavernsWhole s.caverns w = some r) :
    exec (.writeCaverns h fs) s = .next (s.refuseManage m r) := by
  rw [exec_writeCaverns hm hl hfs, State.writeCaverns, judged_inconsistent _ hj hw]
  rfl

theorem exec_writeCaverns_accepted (hw : cavernsWhole s.caverns w = none) :
    exec (.writeCaverns h fs) s = .next (State.replyWrite
      (((writtenEntries 2 fs).foldl (State.cavernWritten s.caverns fs) { s with caverns := w }).settleSince s) m l) := by
  rw [exec_writeCaverns hm hl hfs, State.writeCaverns, judged_accepted _ hj hw]
  rfl

/-- A write that reaches no cavern's configuration, agreement or staleness stores its table. -/
theorem exec_writeCaverns_stored (hordered : ∀ c, (w.get c).cfg.ordered = true)
    (hfields : ∀ f ∈ fs, f.number ≠ 0 ∧ f.number ≠ 7 ∧ f.number ≠ 8)
    (hsame : ∀ c, (w.get c).cfg.configured = (s.cavern c).cfg.configured) :
    exec (.writeCaverns h fs) s = .next (State.replyWrite { s with caverns := w } m l) := by
  have hfree (c : CavernId) : ¬ heldCavern s.caverns w c := by
    rintro ⟨hwas, hnow, -⟩
    exact nomatch hnow.symm.trans ((hsame c).trans hwas)
  have hfold : (writtenEntries 2 fs).foldl (State.cavernWritten s.caverns fs) { s with caverns := w } =
      { s with caverns := w } := by
    refine foldl_keeps (P := fun u => u = { s with caverns := w }) (fun u c hu => ?_) _ _ rfl
    subst hu
    rw [cavernWritten_same s.caverns fs { s with caverns := w } c (hsame c)]
    refine if_neg fun hany => ?_
    rw [Bool.or_eq_true, List.contains_iff_mem, List.contains_iff_mem, mem_writtenFields, mem_writtenFields] at hany
    rcases hany with ⟨f, hf, -, h7⟩ | ⟨f, hf, -, h8⟩
    · exact (hfields f hf).2.1 (BitVec.eq_of_toNat_eq h7)
    · exact (hfields f hf).2.2 (BitVec.eq_of_toNat_eq h8)
  rw [exec_writeCaverns_accepted hm hl hfs hj (cavernsWhole_accepted hordered hfree), hfold,
    settleSince_congr _ (s := s) (v := { s with caverns := w }) rfl, settleSince_self]

section
variable {c : CavernId} (hone : fs.all (fun f => f.index.toNat == c.val) = true)
  (hordered : ∀ c, (w.get c).cfg.ordered = true)
include hone hordered

/-- An accepted write that names one cavern comes to what it does to that cavern. -/
theorem exec_writeCaverns_one (hne : fs ≠ []) (hc : ¬ heldCavern s.caverns w c) :
    exec (.writeCaverns h fs) s = .next (State.replyWrite
      ((State.cavernWritten s.caverns fs { s with caverns := w } c).settleSince { s with caverns := w }) m l) := by
  have hfree (d : CavernId) : ¬ heldCavern s.caverns w d := by
    by_cases hd : d = c
    · exact hd ▸ hc
    · rintro ⟨hwas, hnow, -⟩
      rw [judge_get_other_of_one hj hone hd] at hnow
      exact nomatch hnow.symm.trans hwas
  rw [exec_writeCaverns_accepted hm hl hfs hj (cavernsWhole_accepted hordered hfree), writtenEntries_one hone hne,
    List.foldl_cons, List.foldl_nil, settleSince_congr _ (s := s) (v := { s with caverns := w }) rfl]

theorem exec_writeCaverns_unconfigures (hwas : (s.cavern c).cfg.configured = true)
    (hnow : (w.get c).cfg.configured = false) (hholders : (s.cavern c).run.holders = 0) :
    exec (.writeCaverns h fs) s =
      .next (State.replyWrite { s with caverns := upd w c { w.get c with run := {} } } m l) := by
  have hne : fs ≠ [] := judge_nonempty hj (i := c) fun hw => by
    rw [hw] at hnow
    exact nomatch hnow.symm.trans hwas
  rw [exec_writeCaverns_one hm hl hfs hj hone hordered hne fun ⟨_, _, hheld⟩ => hheld hholders,
    cavernWritten_unconfigures s.caverns fs { s with caverns := w } c hwas hnow, modCavern_settled]
  rfl

section
variable (hnow : (w.get c).cfg.configured = true)
include hnow

theorem exec_writeCaverns_configures (hwas : (s.cavern c).cfg.configured = false) :
    let t := State.recomputeCavern { s with caverns := w } c
    exec (.writeCaverns h fs) s = .next (State.replyWrite
      (if (t.cavern c).run.condition = .blind then
        t.modCavern c fun r => { r with blindTimer := .running (seconds (w.get c).cfg.blindLimit) }
       else t) m l) := by
  have hne : fs ≠ [] := judge_nonempty hj (i := c) fun hw => by
    rw [hw] at hnow
    exact nomatch hwas.symm.trans hnow
  rw [exec_writeCaverns_one hm hl hfs hj hone hordered hne fun ⟨_, hcleared, _⟩ =>
      (nomatch hcleared.symm.trans hnow),
    cavernWritten_configures s.caverns fs { s with caverns := w } c hwas hnow,
    configureCavern_settled { s with caverns := w } c hnow]
  rfl

theorem exec_writeCaverns_recomputes (hwas : (s.cavern c).cfg.configured = true)
    (hfield : ∃ f ∈ fs, f.number = 7 ∨ f.number = 8) :
    exec (.writeCaverns h fs) s =
      .next (State.replyWrite (State.recomputeCavern { s with caverns := w } c) m l) := by
  obtain ⟨f, hf, hnumber⟩ := hfield
  have hany : ((writtenFields fs c).contains 7 || (writtenFields fs c).contains 8) = true := by
    rw [Bool.or_eq_true, writtenFields_one hone, writtenFields_one hone]
    exact hnumber.imp (fun h => ⟨f, hf, congrArg BitVec.toNat h⟩) fun h => ⟨f, hf, congrArg BitVec.toNat h⟩
  rw [exec_writeCaverns_one hm hl hfs hj hone hordered (List.ne_nil_of_mem hf) fun ⟨_, hcleared, _⟩ =>
      (nomatch hcleared.symm.trans hnow),
    cavernWritten_same s.caverns fs { s with caverns := w } c (hnow.trans hwas.symm), if_pos hany]
  rfl

end

end

end

end

end Sys2Proof.Machine
end

section
/-! PROOF. Writes of STORES and LAYERS, and O50. -/

namespace Sys2Proof.Machine

/-! ### Whole-table refusals of STORES (R106) -/

/-- A configured store with reservations that a write would unconfigure. -/
def reservedStore (s : State) (w : Vector Store 4) (k : StoreId) : Prop :=
  (s.store k).cfg.configured = true ∧ (w.get k).cfg.configured = false ∧ ∃ r ∈ s.reservations, r.store = k

section
variable {s : State} {w : Vector Store 4}

theorem storesWhole_disordered {k : StoreId}
    (h : leastIndex (fun k => (w.get k).cfg.capacity < (w.get k).cfg.minReserve) k) :
    storesWhole s w = some (inconsistent tStores k.val) := by
  have hfind : ((fins 4).find? fun k => decide ((w.get k).cfg.capacity < (w.get k).cfg.minReserve)) = some k :=
    find_fins_of_least (by simpa [leastIndex] using h)
  rw [storesWhole, hfind]

theorem reservedStore_test : ((fins 4).any fun k => (s.store k).cfg.configured && !(w.get k).cfg.configured &&
    s.reservations.any fun r => r.store == k) = true ↔ ∃ k, reservedStore s w k := by
  simp only [List.any_eq_true, mem_fins, true_and, Bool.and_eq_true, Bool.not_eq_true', beq_iff_eq, reservedStore,
    and_assoc]

section
variable (h : ∀ k, (w.get k).cfg.minReserve ≤ (w.get k).cfg.capacity)
include h

theorem storesWhole_ordered : storesWhole s w = if (fins 4).any fun k => (s.store k).cfg.configured &&
    !(w.get k).cfg.configured && s.reservations.any fun r => r.store == k then some (refusal .inUse) else none := by
  have hfind : ((fins 4).find? fun k => decide ((w.get k).cfg.capacity < (w.get k).cfg.minReserve)) = none :=
    find_fins_none fun k hk => Nat.not_le.2 (of_decide_eq_true hk) (h k)
  rw [storesWhole, hfind]

theorem storesWhole_inUse (hreserved : ∃ k, reservedStore s w k) : storesWhole s w = some (refusal .inUse) := by
  rw [storesWhole_ordered h, if_pos (reservedStore_test.2 hreserved)]

theorem storesWhole_accepted (hfree : ∀ k, ¬ reservedStore s w k) : storesWhole s w = none := by
  rw [storesWhole_ordered h, if_neg (mt reservedStore_test.1 (not_exists.2 hfree))]

end

end

/-! ### What a write does to one store (R106) -/

section
variable (v : Vector Store 4) (fs : List Field) (s : State) (k : StoreId)

theorem storeWritten_unconfigures (hwas : (v.get k).cfg.configured = true)
    (hnow : (s.store k).cfg.configured = false) : State.storeWritten v fs s k = s.unconfigureStore k := by
  simp only [State.storeWritten, hwas, hnow, Bool.not_false, Bool.and_true, if_true]

theorem storeWritten_configured (hnow : (s.store k).cfg.configured = true)
    (h : (v.get k).cfg.configured = false ∨ ∃ n, 1 ≤ n ∧ n ≤ 4 ∧ (writtenFields fs k).contains n = true) :
    State.storeWritten v fs s k = s.recomputeStore k := by
  have htest : (((s.store k).cfg.configured && !(v.get k).cfg.configured) || (writtenFields fs k).contains 1 ||
      (writtenFields fs k).contains 2 || (writtenFields fs k).contains 3 || (writtenFields fs k).contains 4) = true := by
    simp only [Bool.or_eq_true]
    rcases h with hwas | ⟨n, h1, h4, hn⟩
    · simp [hwas, hnow]
    · interval_cases n <;> simp only [hn, or_true, true_or]
  unfold State.storeWritten
  dsimp only
  rw [if_neg (by simp [hnow]), if_pos htest]

theorem storeWritten_stands (hsame : (s.store k).cfg.configured = (v.get k).cfg.configured)
    (h : ∀ n, 1 ≤ n → n ≤ 4 → (writtenFields fs k).contains n = false) : State.storeWritten v fs s k = s := by
  simp only [State.storeWritten, hsame, Bool.and_not_self, h 1, h 2, h 3, h 4, Nat.reduceLeDiff, Bool.or_self,
    Bool.false_eq_true, if_false]

/-! ### A store no longer configured (R106) -/

/-- A layer whose staleness timer is cancelled. -/
def Layer.unstaled (l : Layer) : Layer := { l with stale := none }

theorem foldl_unstaled_get (l : List LayerId) (v : Vector Layer 64) (i : LayerId) :
    (l.foldl (fun v i => modAt v i Layer.unstaled) v).get i = if i ∈ l then (v.get i).unstaled else v.get i := by
  induction l generalizing v with
  | nil => rfl
  | cons j l ih =>
    rw [List.foldl_cons, ih, modAt_get]
    by_cases hij : i = j
    · subst hij
      simp [Layer.unstaled]
    · simp [hij]

theorem foldl_modLayer (f : Layer → Layer) (l : List LayerId) (s : State) :
    l.foldl (fun s i => s.modLayer i f) s = { s with layers := l.foldl (fun v i => modAt v i f) s.layers } := by
  induction l generalizing s with
  | nil => rfl
  | cons i l ih => exact ih _

theorem mem_layerIndex (i : LayerId) : i ∈ (fins 16).map (layerIndex k) ↔ i.val / 16 = k.val := by
  rw [List.mem_map]
  constructor
  · rintro ⟨l, -, rfl⟩
    simp only [layerIndex]
    omega
  · intro h
    exact ⟨⟨i.val % 16, Nat.mod_lt _ (by decide)⟩, mem_fins _, Fin.ext (by simp only [layerIndex]; omega)⟩

theorem ofFn_get {n : Nat} {α : Type} (f : Fin n → α) (i : Fin n) : (Vector.ofFn f).get i = f i := by
  show (Vector.ofFn f)[i.val] = f i
  simp

theorem unconfigureStore_frame : s.unconfigureStore k =
    { s with
      stores := upd s.stores k { s.store k with run := {} }
      layers := Vector.ofFn fun i : LayerId =>
        if i.val / 16 = k.val then { s.layer i with stale := none } else s.layer i } := by
  have hlayers : ((fins 16).map (layerIndex k)).foldl (fun v i => modAt v i Layer.unstaled) s.layers =
      Vector.ofFn fun i : LayerId => if i.val / 16 = k.val then { s.layer i with stale := none } else s.layer i := by
    refine vector_ext_get fun i => ?_
    rw [foldl_unstaled_get, ofFn_get]
    simp only [mem_layerIndex]
    rfl
  rw [← hlayers]
  exact foldl_modLayer Layer.unstaled _ _

end

/-! ### Writes of STORES (R106) -/

section
variable {h : Header} {fs : List Field} {s : State} {m : Manager} (hm : s.managerOf h = some m) (hl : m.level ≤ 1)
  (hfs : fs.length ≤ 15) {w : Vector Store 4} {l : List Item} (hj : storeTable.judge s.stores fs = .ok (w, l))
include hm hl hfs hj

theorem exec_writeStores_refused {r : MRefusal} (hw : storesWhole s w = some r) :
    exec (.writeStores h fs) s = .next (s.refuseManage m r) := by
  rw [exec_writeStores hm hl hfs, State.writeStores, judged_inconsistent _ hj hw]
  rfl

theorem exec_writeStores_accepted (hw : storesWhole s w = none) : exec (.writeStores h fs) s = .next (State.replyWrite
    ((writtenEntries 4 fs).foldl (State.storeWritten s.stores fs) { s with stores := w }) m l) := by
  rw [exec_writeStores hm hl hfs, State.writeStores, judged_accepted _ hj hw]
  rfl

variable (hordered : ∀ k, (w.get k).cfg.minReserve ≤ (w.get k).cfg.capacity)
include hordered

/-- A write that reaches no store's configuration or account stores its table. -/
theorem exec_writeStores_stored (hfields : ∀ f ∈ fs, f.number = 5 ∨ f.number = 6)
    (hsame : ∀ k, (w.get k).cfg.configured = (s.store k).cfg.configured) :
    exec (.writeStores h fs) s = .next (State.replyWrite { s with stores := w } m l) := by
  have hfree (k : StoreId) : ¬ reservedStore s w k := by
    rintro ⟨hwas, hnow, -⟩
    exact nomatch hnow.symm.trans ((hsame k).trans hwas)
  have hfold : (writtenEntries 4 fs).foldl (State.storeWritten s.stores fs) { s with stores := w } =
      { s with stores := w } := by
    refine foldl_keeps (P := fun u => u = { s with stores := w }) (fun u k hu => ?_) _ _ rfl
    subst hu
    refine storeWritten_stands s.stores fs { s with stores := w } k (hsame k) fun n h1 h4 => ?_
    rw [Bool.eq_false_iff, ne_eq, List.contains_iff_mem, mem_writtenFields]
    rintro ⟨f, hf, -, rfl⟩
    rcases hfields f hf with h5 | h6
    · rw [h5] at h4
      exact absurd h4 (by decide)
    · rw [h6] at h4
      exact absurd h4 (by decide)
  rw [exec_writeStores_accepted hm hl hfs hj (storesWhole_accepted hordered hfree), hfold]

section
variable {k : StoreId} (hone : fs.all (fun f => f.index.toNat == k.val) = true)
include hone

/-- An accepted write that names one store comes to what it does to that store. -/
theorem exec_writeStores_one (hne : fs ≠ []) (hk : ¬ reservedStore s w k) : exec (.writeStores h fs) s =
    .next (State.replyWrite (State.storeWritten s.stores fs { s with stores := w } k) m l) := by
  have hfree (d : StoreId) : ¬ reservedStore s w d := by
    by_cases hd : d = k
    · exact hd ▸ hk
    · rintro ⟨hwas, hnow, -⟩
      rw [judge_get_other_of_one hj hone hd] at hnow
      exact nomatch hnow.symm.trans hwas
  rw [exec_writeStores_accepted hm hl hfs hj (storesWhole_accepted hordered hfree), writtenEntries_one hone hne,
    List.foldl_cons, List.foldl_nil]

theorem exec_writeStores_recomputes (hnow : (w.get k).cfg.configured = true)
    (hreach : (s.store k).cfg.configured = false ∨ ∃ f ∈ fs, 1 ≤ f.number.toNat ∧ f.number.toNat ≤ 4) :
    exec (.writeStores h fs) s =
      .next (State.replyWrite (State.recomputeStore { s with stores := w } k) m l) := by
  have hne : fs ≠ [] := by
    rcases hreach with hwas | ⟨f, hf, -⟩
    · exact judge_nonempty hj (i := k) fun hw => by
        rw [hw] at hnow
        exact nomatch hwas.symm.trans hnow
    · exact List.ne_nil_of_mem hf
  rw [exec_writeStores_one hm hl hfs hj hordered hone hne fun ⟨_, hcleared, _⟩ => (nomatch hcleared.symm.trans hnow),
    storeWritten_configured s.stores fs { s with stores := w } k hnow]
  exact hreach.imp_right fun ⟨f, hf, h1, h4⟩ => ⟨_, h1, h4, (writtenFields_one hone _).2 ⟨f, hf, rfl⟩⟩

theorem exec_writeStores_unconfigures (hnow : (w.get k).cfg.configured = false)
    (hwas : (s.store k).cfg.configured = true) (hfree : ∀ r ∈ s.reservations, r.store ≠ k) :
    exec (.writeStores h fs) s = .next (State.replyWrite
      { s with stores := upd w k { w.get k with run := {} }
               layers := Vector.ofFn fun i : LayerId =>
                 if i.val / 16 = k.val then { s.layer i with stale := none } else s.layer i } m l) := by
  have hne : fs ≠ [] := judge_nonempty hj (i := k) fun hw => by
    rw [hw] at hnow
    exact nomatch hnow.symm.trans hwas
  rw [exec_writeStores_one hm hl hfs hj hordered hone hne fun ⟨_, _, r, hr, hrk⟩ => hfree r hr hrk,
    storeWritten_unconfigures s.stores fs { s with stores := w } k hwas hnow, unconfigureStore_frame]
  rfl

end

end

/-! ### What a store's recomputation leaves (R110, R117, R118) -/

/-- A property kept by what a trim changes. -/
structure KeepsTrim (P : State → Prop) : Prop extends KeepsFault P where
  reservations : ∀ (s : State) (l : List Reservation), P s → P { s with reservations := l }
  stopRequests : ∀ (s : State) (l : List StopRequest), P s → P { s with stopRequests := l }

section
variable {P : State → Prop} (K : KeepsTrim P) {s : State} (hs : P s)
include K hs

theorem KeepsTrim.trimOne {n : Nat} (r : Reservation) : P (State.trimOne (s, n) r).1 := by
  unfold State.trimOne
  dsimp only
  split
  · exact hs
  · split
    · split
      · exact K.raise (K.reservations s _ hs) _
      · exact K.raise (K.reservations s _ hs) _
    · split
      · exact hs
      · exact K.raise (K.reservations s _ hs) _

theorem KeepsTrim.exhausted (r : Reservation) : P (s.exhausted r) := by
  unfold State.exhausted
  dsimp only
  split
  · exact K.reservations s _ hs
  · exact K.stopRequests s _ hs

end

theorem KeepsTrim.trim {P : State → Prop} (K : KeepsTrim P) {s : State} (hs : P s) (k : StoreId) : P (s.trim k) := by
  have hkind (s : State) (hs : P s) (d : HeatKind) : P (s.trimKind k d) :=
    foldl_keeps (P := fun x : State × Nat => P x.1) (fun x r hx => KeepsTrim.trimOne K hx r) _ _ hs
  exact foldl_keeps (P := P) (fun u r hu => KeepsTrim.exhausted K hu r) _ _ (hkind _ (hkind _ hs _) _)

/-- What every recomputation of a store leaves: trains, queue, and of each layer its settings and last temperature. -/
structure LayersStand (s u : State) : Prop where
  trains : u.trains = s.trains
  queue  : u.queue = s.queue
  layer  : ∀ i, (u.layer i).coefficient = (s.layer i).coefficient ∧ (u.layer i).base = (s.layer i).base ∧
    (u.layer i).last = (s.layer i).last

theorem layersStand_refl (s : State) : LayersStand s s := ⟨rfl, rfl, fun _ => ⟨rfl, rfl, rfl⟩⟩

theorem layersStand_keepsTrim (s : State) : KeepsTrim (LayersStand s) where
  link := fun _ _ _ h => ⟨h.trains, h.queue, h.layer⟩
  faults := fun _ _ _ h => ⟨h.trains, h.queue, h.layer⟩
  tiers := fun _ _ _ h => ⟨h.trains, h.queue, h.layer⟩
  reservations := fun _ _ h => ⟨h.trains, h.queue, h.layer⟩
  stopRequests := fun _ _ h => ⟨h.trains, h.queue, h.layer⟩

section
variable {s u : State} (hu : LayersStand s u)
include hu

theorem LayersStand.contribution (i : LayerId) :
    LayersStand s (u.modLayer i fun l => { l with contribution := l.heat }) := by
  refine ⟨hu.trains, hu.queue, fun j => ?_⟩
  rw [State.layer, State.modLayer, modAt_get]
  split
  next h => exact h ▸ hu.layer i
  next => exact hu.layer j

theorem LayersStand.setStoreRun (k : StoreId) (r : StoreRun) : LayersStand s (u.setStoreRun k r) :=
  ⟨hu.trains, hu.queue, hu.layer⟩

theorem LayersStand.account (k : StoreId) : LayersStand s (u.account k) := by
  unfold State.account
  exact (foldl_keeps (P := LayersStand s) (fun _ i hx => hx.contribution i) _ u hu).setStoreRun k _

theorem LayersStand.recomputeStore (k : StoreId) : LayersStand s (u.recomputeStore k) := by
  unfold State.recomputeStore
  split
  · exact (layersStand_keepsTrim s).trim (hu.account k) k
  · exact hu

end

theorem recomputeStore_unconfigured (s : State) (k : StoreId) (h : (s.store k).cfg.configured = false) :
    s.recomputeStore k = s := by
  rw [State.recomputeStore, if_neg (by simp [h])]

/-! ### Writes of LAYERS (R107) -/

/-- Fields other than 0 and 1 reach no store's account. -/
theorem layerReaches_other (s : State) {fs : List Field} (hfields : ∀ f ∈ fs, f.number = 2) (k : StoreId) :
    layerReaches s fs k = false := by
  have hread (i : LayerId) : ((writtenFields fs i).any fun f => f != 2) = false := by
    rw [List.any_eq_false]
    intro n hn
    obtain ⟨f, hf, -, rfl⟩ := (mem_writtenFields fs i n).1 hn
    simp [hfields f hf]
  simp [layerReaches, hread]

section
variable {s : State} {fs : List Field} {i : LayerId} (hone : fs.all (fun f => f.index.toNat == i.val) = true)
  (hfield : ∃ f ∈ fs, f.number = 0 ∨ f.number = 1)
include hone hfield

/-- A write of field 0 or 1 of one layer below the layer count reaches its store alone. -/
theorem layerReaches_one {k : StoreId} (hk : i.val / 16 = k.val) (hcount : i.val % 16 < (s.store k).cfg.layerCount)
    (d : StoreId) : layerReaches s fs d = decide (d = k) := by
  obtain ⟨f, hf, hnumber⟩ := hfield
  have hany : ((writtenFields fs i).any fun n => n != 2) = true := by
    refine List.any_eq_true.2 ⟨f.number.toNat, List.contains_iff_mem.1 ((writtenFields_one hone _).2 ⟨f, hf, rfl⟩), ?_⟩
    rcases hnumber with h | h <;> rw [h] <;> rfl
  have hstore : layerStore i = k := Fin.ext hk
  rw [layerReaches, writtenEntries_one hone (List.ne_nil_of_mem hf), List.any_cons, List.any_nil, Bool.or_false, hany,
    Bool.and_true, hstore, Bool.eq_iff_iff, Bool.and_eq_true, beq_iff_eq, decide_eq_true_eq, decide_eq_true_eq]
  constructor
  · exact fun ⟨h, _⟩ => h.symm
  · rintro rfl
    exact ⟨rfl, hcount⟩

end

section
variable {h : Header} {fs : List Field} {s : State} {m : Manager} (hm : s.managerOf h = some m) (hl : m.level ≤ 1)
  (hfs : fs.length ≤ 15) {w : Vector Layer 64} {l : List Item} (hj : (layerTable s).judge s.layers fs = .ok (w, l))
include hm hl hfs hj

theorem exec_writeLayers_accepted : exec (.writeLayers h fs) s = .next (State.replyWrite
    (((fins 4).filter (layerReaches s fs)).foldl State.recomputeStore { s with layers := w }) m l) := by
  rw [exec_writeLayers hm hl hfs, State.writeLayers, judged_accepted _ hj rfl]
  rfl

theorem exec_writeLayers_stored (hnone : (∀ f ∈ fs, f.number = 2) ∨ ∀ k, (s.store k).cfg.configured = false) :
    exec (.writeLayers h fs) s = .next (State.replyWrite { s with layers := w } m l) := by
  have hfold : ((fins 4).filter (layerReaches s fs)).foldl State.recomputeStore { s with layers := w } =
      { s with layers := w } := by
    rcases hnone with hfields | hfree
    · rw [List.filter_eq_nil_iff.2 fun k _ => by rw [layerReaches_other s hfields k]; exact Bool.false_ne_true]
      rfl
    · refine foldl_keeps (P := fun u => u = { s with layers := w }) (fun u k hu => ?_) _ _ rfl
      subst hu
      exact recomputeStore_unconfigured { s with layers := w } k (hfree k)
  rw [exec_writeLayers_accepted hm hl hfs hj, hfold]

theorem exec_writeLayers_recomputes {k : StoreId} {i : LayerId} (hk : i.val / 16 = k.val)
    (hcount : i.val % 16 < (s.store k).cfg.layerCount) (hone : fs.all (fun f => f.index.toNat == i.val) = true)
    (hfield : ∃ f ∈ fs, f.number = 0 ∨ f.number = 1) : exec (.writeLayers h fs) s =
      .next (State.replyWrite (State.recomputeStore { s with layers := w } k) m l) := by
  rw [exec_writeLayers_accepted hm hl hfs hj,
    List.filter_congr fun d _ => layerReaches_one hone hfield hk hcount d, fins_eq_finRange, List.filter_eq,
    List.count_finRange]
  rfl

theorem exec_writeLayers_stands : ∃ u : State, exec (.writeLayers h fs) s = .next (u.replyWrite m l) ∧
    LayersStand { s with layers := w } u :=
  ⟨_, exec_writeLayers_accepted hm hl hfs hj,
    foldl_keeps (P := LayersStand { s with layers := w }) (f := State.recomputeStore)
      (fun _ k hu => hu.recomputeStore k) _ _ (layersStand_refl _)⟩

end

/-- Settles O50: a write refused on its whole table, or its table stored and then what it does to each entry it
reaches; where it names one entry, to that entry. -/
theorem plantTableWrites : Obligations.PlantTableWrites := by
  intro h fs s m hm hl hfs
  refine ⟨fun w l hj => ?_, fun w l hj => ?_, fun w l hj => ?_⟩
  · intro ordered
    have hall (hord : ∀ c, ordered c) (c : CavernId) : (w.get c).cfg.ordered = true := (ordered_iff _).2 (hord c)
    refine ⟨fun c hc => exec_writeCaverns_refused hm hl hfs hj (cavernsWhole_disordered ?_),
      fun hord hheld => exec_writeCaverns_refused hm hl hfs hj (cavernsWhole_inUse (hall hord) hheld),
      fun hord => exec_writeCaverns_stored hm hl hfs hj (hall hord),
      fun c hord hwas hnow hholders hone =>
        exec_writeCaverns_unconfigures hm hl hfs hj hone (hall hord) hwas hnow hholders,
      fun c hord hnow hone => ⟨exec_writeCaverns_configures hm hl hfs hj hone (hall hord) hnow,
        exec_writeCaverns_recomputes hm hl hfs hj hone (hall hord) hnow⟩⟩
    simpa only [leastIndex, ordered_iff] using hc
  · exact ⟨fun k hk => exec_writeStores_refused hm hl hfs hj (storesWhole_disordered hk),
      fun hord hreserved => exec_writeStores_refused hm hl hfs hj (storesWhole_inUse hord hreserved),
      fun hord => exec_writeStores_stored hm hl hfs hj hord,
      fun k hord hone => ⟨exec_writeStores_recomputes hm hl hfs hj hord hone,
        exec_writeStores_unconfigures hm hl hfs hj hord hone⟩⟩
  · obtain ⟨u, hu, htrains, hqueue, hlayer⟩ := exec_writeLayers_stands hm hl hfs hj
    exact ⟨exec_writeLayers_stored hm hl hfs hj,
      fun k i hk hcount hone hfield => exec_writeLayers_recomputes hm hl hfs hj hk hcount hone hfield,
      u, hu, htrains, hqueue, hlayer⟩

end Sys2Proof.Machine
end

section
/-! PROOF. A store's account worked out, and the expiry of a layer's staleness timer (O33). -/

namespace Sys2Proof.Machine

/-! ### The layers of a store (R109) -/

theorem layersOf_ascending (s : State) (h : StoreId) : (s.layersOf h).Pairwise (· < ·) := by
  unfold State.layersOf
  refine ((fins_pairwise 16).filter _).map (layerIndex h) fun a b hab => ?_
  show h.val * 16 + a.val < h.val * 16 + b.val
  exact Nat.add_lt_add_left hab _

theorem mem_layersOf {s : State} {h : StoreId} {i : LayerId} :
    i ∈ s.layersOf h ↔ i.val / 16 = h.val ∧ i.val % 16 < (s.store h).cfg.layerCount := by
  simp only [State.layersOf, List.mem_map, List.mem_filter, mem_fins, true_and, decide_eq_true_eq]
  constructor
  · rintro ⟨l, hl, rfl⟩
    have hlt := l.isLt
    have hdiv : (h.val * 16 + l.val) / 16 = h.val := by omega
    have hmod : (h.val * 16 + l.val) % 16 = l.val := by omega
    exact ⟨hdiv, hmod.symm ▸ hl⟩
  · rintro ⟨hdiv, hmod⟩
    refine ⟨⟨i.val % 16, Nat.mod_lt _ (by decide)⟩, hmod, Fin.ext ?_⟩
    show h.val * 16 + i.val % 16 = i.val
    omega

/-- The layers of a store, as a selection of all layers in index order. -/
theorem layersOf_eq_filter (s : State) (h : StoreId) : s.layersOf h =
    (fins 64).filter fun i => i.val / 16 == h.val && i.val % 16 < (s.store h).cfg.layerCount := by
  refine List.Perm.eq_of_pairwise (le := (· < ·)) (fun a b _ _ hab hba => absurd hab (lt_asymm hba))
    (layersOf_ascending s h) ((fins_pairwise 64).filter _) ?_
  refine (List.perm_ext_iff_of_nodup ?_ ?_).2 fun i => ?_
  · exact (layersOf_ascending s h).imp fun hab => ne_of_lt hab
  · exact ((fins_pairwise 64).filter _).imp fun hab => ne_of_lt hab
  · simp [mem_layersOf, mem_fins]

/-! ### Contributions worked out (R110, 2) -/

/-- A layer with its contribution worked out. -/
def Layer.worked (l : Layer) : Layer := { l with contribution := l.heat }

theorem worked_worked (l : Layer) : l.worked.worked = l.worked := rfl

theorem foldl_worked_layer (ls : List LayerId) (s : State) (i : LayerId) :
    (ls.foldl (fun s i => s.modLayer i Layer.worked) s).layer i =
      if i ∈ ls then (s.layer i).worked else s.layer i := by
  induction ls generalizing s with
  | nil => simp
  | cons j ls ih =>
    rw [List.foldl_cons, ih]
    have hread : (s.modLayer j Layer.worked).layer i = if i = j then (s.layer j).worked else s.layer i :=
      modAt_get _ _ _ _
    rw [hread]
    by_cases hj : i = j
    · subst hj
      simp [worked_worked]
    · simp [hj]

theorem foldl_worked_frame (ls : List LayerId) (s : State) :
    ls.foldl (fun s i => s.modLayer i Layer.worked) s =
      { s with layers := (ls.foldl (fun s i => s.modLayer i Layer.worked) s).layers } :=
  foldl_keeps (P := fun u : State => u = { s with layers := u.layers }) (f := fun s i => s.modLayer i Layer.worked)
    (fun _ i h => congrArg (fun v : State => v.modLayer i Layer.worked) h) ls s rfl

/-! ### The account (R110) -/

/-- The running condition an account gives a store, from its layers' sum and its count of usable layers. -/
def StoreCfg.accountOf (k : StoreCfg) (stored usable : Nat) : StoreRun :=
  { condition := storeConditionFor k.layerCount usable, stored := stored, reservable := stored - k.minReserve,
    headroom := k.capacity - stored, usable := usable }

section
variable (s : State) (h : StoreId)

theorem account_eq : s.account h =
    ((s.layersOf h).foldl (fun s i => s.modLayer i Layer.worked) s).setStoreRun h
      ((s.store h).cfg.accountOf (storedHeat (((s.layersOf h).map fun i => (s.layer i).heat).sum))
        ((s.layersOf h).filter s.layerUsable).length) := rfl

theorem account_run : ((s.account h).store h).run =
    (s.store h).cfg.accountOf (storedHeat (((s.layersOf h).map fun i => (s.layer i).heat).sum))
      ((s.layersOf h).filter s.layerUsable).length := by
  rw [account_eq, foldl_worked_frame]
  simp [State.store, State.setStoreRun]

theorem account_contribution {i : LayerId} (hi : i ∈ s.layersOf h) :
    ((s.account h).layer i).contribution = (s.layer i).heat := by
  have hlayer : (s.account h).layer i =
      ((s.layersOf h).foldl (fun s i => s.modLayer i Layer.worked) s).layer i := rfl
  rw [hlayer, foldl_worked_layer, if_pos hi]
  rfl

theorem trim_stores_layers (u : State) : (u.trim h).stores = u.stores ∧ (u.trim h).layers = u.layers := by
  obtain ⟨-, -, -, -, -, -, -, -, -, -, -, -, hstores, hlayers, -, -⟩ := (tablesFrame u).trim (tablesKept_refl u) h
  exact ⟨hstores, hlayers⟩

theorem recomputeStore_of_configured (hk : (s.store h).cfg.configured = true) :
    s.recomputeStore h = (s.account h).trim h := if_pos hk

theorem recomputeStore_run (hk : (s.store h).cfg.configured = true) :
    ((s.recomputeStore h).store h).run = ((s.account h).store h).run := by
  rw [recomputeStore_of_configured s h hk]
  simp only [State.store, (trim_stores_layers h (s.account h)).1]

theorem recomputeStore_layer (hk : (s.store h).cfg.configured = true) (i : LayerId) :
    (s.recomputeStore h).layer i = (s.account h).layer i := by
  rw [recomputeStore_of_configured s h hk]
  simp only [State.layer, (trim_stores_layers h (s.account h)).2]

end

/-! ### The condition (R110, 5) -/

theorem storeConditionFor_good {n u : Nat} (h : u = n) : storeConditionFor n u = .good := if_pos h

theorem storeConditionFor_degraded {n u : Nat} (hlt : u < n) (hhalf : n < 2 * u) :
    storeConditionFor n u = .degraded := by
  rw [storeConditionFor, if_neg (Nat.ne_of_lt hlt), if_pos ⟨hlt, hhalf⟩]

theorem storeConditionFor_blind {n u : Nat} (hne : u ≠ n) (hhalf : 2 * u ≤ n) : storeConditionFor n u = .blind := by
  rw [storeConditionFor, if_neg hne, if_neg fun h => absurd h.2 (Nat.not_lt.2 hhalf)]

/-! ### The staleness timer of a layer (R109) -/

section
variable {s : State} {h : StoreId} {l : LayerId}

theorem expireLayer_idle (hst : (s.layer l).stale = none) : s.expireLayer l = s := by
  unfold State.expireLayer
  rw [hst]

theorem layerChanged_of_store (u : State) (hl : l.val / 16 = h.val) (hn : l.val % 16 < (u.store h).cfg.layerCount) :
    u.layerChanged l = u.recomputeStore h := by
  have hstore : layerStore l = h := Fin.ext hl
  unfold State.layerChanged
  rw [hstore]
  exact if_pos hn

/-- A layer's staleness timer stopped. -/
def State.unstaled (s : State) (l : LayerId) : State := s.modLayer l fun x => { x with stale := none }

variable {n : Nat} (hst : (s.layer l).stale = some n)
include hst

theorem expireLayer_unread (hp : s.pointFor .layer l.val = none) :
    s.expireLayer l = (s.unstaled l).layerChanged l := by
  have hp' : (s.unstaled l).pointFor .layer l.val = none := hp
  unfold State.expireLayer
  rw [hst]
  simp only [State.unstaled] at hp' ⊢
  rw [hp']

theorem expireLayer_read {i : ScanId} (hp : s.pointFor .layer l.val = some i) :
    s.expireLayer l = ((s.unstaled l).modPoint i fun p => p.expire n).layerChanged l := by
  have hp' : (s.unstaled l).pointFor .layer l.val = some i := hp
  unfold State.expireLayer
  rw [hst]
  simp only [State.unstaled] at hp' ⊢
  rw [hp']

end

/-- Settles O33: the account is read off its own equation, which the trim after it leaves; an expiry stops the timer, ages
the point and recomputes the store. -/
theorem storeRecomputation : Obligations.StoreRecomputation := by
  intro s h l k u r layers heat stored usable
  have hlayers : s.layersOf h = layers := layersOf_eq_filter s h
  have hheat : ∀ i, (s.layer i).heat = heat i := fun i => rfl
  refine ⟨fun hk => ?_, fun hk hsum => ?_, fun hst => ?_, fun n hst hp hl hn => ?_, fun n i hst hp hl hn => ?_⟩
  · exact if_neg (by rw [hk]; exact Bool.false_ne_true)
  · have hstored : storedHeat (((s.layersOf h).map fun i => (s.layer i).heat).sum) = stored := by
      rw [hlayers]
      exact if_pos hsum
    have hrun : r = k.accountOf stored usable := by
      rw [← hstored, ← show ((s.layersOf h).filter s.layerUsable).length = usable by rw [hlayers]]
      exact (recomputeStore_run s h hk).trans (account_run s h)
    rw [hrun]
    refine ⟨rfl, rfl, rfl, rfl, storeConditionFor_good, storeConditionFor_degraded, storeConditionFor_blind,
      fun i hi => ?_⟩
    rw [recomputeStore_layer s h hk]
    exact account_contribution s h (hlayers ▸ hi)
  · exact congrArg Host.Outcome.next (expireLayer_idle hst)
  · exact congrArg Host.Outcome.next ((expireLayer_unread hst hp).trans (layerChanged_of_store _ hl hn))
  · exact congrArg Host.Outcome.next ((expireLayer_read hst hp).trans (layerChanged_of_store _ hl hn))

end Sys2Proof.Machine
end

section
/-! PROOF. The heat available, and a grant decided (O34). -/

namespace Sys2Proof.Machine

/-- The record of a grant, written out by the run mode asked for (R111, R114). -/
theorem grantRecord_eq (s : State) (a : HeatAsk) (n : Nat) : s.grantRecord a n =
    { train := a.train, store := (s.cfg a.train).store, kind := a.mode.heatKind, phase := a.phase, slot := a.slot,
      granted := n, consumed := 0, basis := a.basis,
      counter := if a.phase = .current then (s.run a.train).report.counter a.mode else none } := by
  unfold State.grantRecord
  cases a.phase <;> rfl

section
variable {s : State} {a : HeatAsk} (hratio : (s.cfg a.train).heatRatio a.mode ≠ 0)
include hratio

/-- R114, test 1. -/
theorem grantHeat_unsighted (h : (s.store (s.cfg a.train).store).cfg.configured = false ∨
    (s.store (s.cfg a.train).store).run.condition = .blind) : s.grantHeat a = .error Cause.heatShort := by
  have htest : (!(s.store (s.cfg a.train).store).cfg.configured ||
      (s.store (s.cfg a.train).store).run.condition == .blind) = true := by
    rcases h with h | h <;> simp [h]
  unfold State.grantHeat
  rw [if_neg hratio, if_pos htest]

variable (hconfigured : (s.store (s.cfg a.train).store).cfg.configured = true)
  (hsighted : (s.store (s.cfg a.train).store).run.condition ≠ .blind)
include hconfigured hsighted

/-- R114: a grant past test 1. -/
theorem grantHeat_sighted : s.grantHeat a =
    if reservationDepth ≤ s.reservations.length then .error Cause.reservationFull
    else if (s.store (s.cfg a.train).store).overfull a.mode.heatKind then .error Cause.heatShort
    else
      let n := grantAmount a.basis ((s.cfg a.train).heatRatio a.mode) (s.store (s.cfg a.train).store).cfg.minGrant
      let free := s.available (s.cfg a.train).store a.mode.heatKind
      if n ≤ free then .ok (s.modReservations fun l => l ++ [s.grantRecord a n])
      else if (s.store (s.cfg a.train).store).cfg.minGrant ≤ free then
        .ok (s.modReservations fun l => l ++ [s.grantRecord a free])
      else .error Cause.heatShort := by
  have htest : ¬ (!(s.store (s.cfg a.train).store).cfg.configured ||
      (s.store (s.cfg a.train).store).run.condition == .blind) = true := by
    simp [hconfigured, hsighted]
  unfold State.grantHeat
  rw [if_neg hratio, if_neg htest]

end

/-- Settles O34: the sums are those of the reservation list, and the tests of a grant are taken in their order. -/
theorem heatGrants : Obligations.HeatGrants := by
  refine ⟨fun s h => ⟨rfl, rfl, ?_⟩, fun s a => ?_⟩
  · have hindex : s.blockFields 3 h.val = some (s.storeFields h) := dif_pos h.isLt
    rw [hindex]
    rfl
  intro h k ratio kind amount free open_ overfull counter made
  have hr : (s.cfg a.train).heatRatio a.mode = ratio := by cases hm : a.mode <;> simp only [ratio, hm] <;> rfl
  have hkind : a.mode.heatKind = kind := by cases hm : a.mode <;> simp only [kind, hm] <;> rfl
  have hcounter : (s.run a.train).report.counter a.mode = counter := by
    cases hm : a.mode <;> simp only [counter, hm] <;> rfl
  have hoverfull : k.overfull a.mode.heatKind = true ↔ overfull := by
    cases hm : a.mode <;> simp [overfull, hm, RunMode.heatKind, Store.overfull]
  have hmade : ∀ n, (.ok (s.modReservations fun l => l ++ [s.grantRecord a n]) : Except Cause State) = made n := by
    intro n
    rw [grantRecord_eq, hcounter, hkind]
    rfl
  have hdecided : open_ → s.grantHeat a =
      if 10 ≤ s.reservations.length then .error Cause.reservationFull
      else if k.overfull a.mode.heatKind then .error Cause.heatShort
      else if amount ≤ free then made amount
      else if k.cfg.minGrant ≤ free then made free
      else .error Cause.heatShort := by
    rintro ⟨hne, hconfigured, hsighted⟩
    rw [grantHeat_sighted (hr ▸ hne) hconfigured hsighted]
    simp only [hmade, hkind, hr]
    rfl
  refine ⟨fun h0 => grantHeat_of_ratio_zero (hr.trans h0), fun hne hunsighted => ?_, fun ho hfull => ?_,
    fun ho hroom hover => ?_, fun ho hroom hover => ⟨fun hfree => ?_, fun hfree hmin => ?_, fun hfree hmin => ?_⟩⟩
  · exact grantHeat_unsighted (hr ▸ hne) hunsighted
  · rw [hdecided ho, if_pos hfull]
  · rw [hdecided ho, if_neg (Nat.not_le.2 hroom), if_pos (hoverfull.2 hover)]
  · rw [hdecided ho, if_neg (Nat.not_le.2 hroom), if_neg (hover ∘ hoverfull.1), if_pos hfree]
  · rw [hdecided ho, if_neg (Nat.not_le.2 hroom), if_neg (hover ∘ hoverfull.1), if_neg (Nat.not_le.2 hfree), if_pos hmin]
  · rw [hdecided ho, if_neg (Nat.not_le.2 hroom), if_neg (hover ∘ hoverfull.1), if_neg (Nat.not_le.2 hfree),
      if_neg (Nat.not_le.2 hmin)]

end Sys2Proof.Machine
end

section
/-! PROOF. The trim of a kind of reservations on a store (O35, R118). -/

namespace Sys2Proof.Machine

/-! ### What is set aside of a list of records -/

/-- Whether a record is of a kind on a store. -/
def Reservation.isOf (r : Reservation) (h : StoreId) (k : HeatKind) : Bool := r.store == h && r.kind == k

/-- The sum of the remaining amounts of a kind on a store. -/
def setAside (l : List Reservation) (h : StoreId) (k : HeatKind) : Nat :=
  ((l.filter fun r => r.isOf h k).map Reservation.remaining).sum

theorem reserved_eq (s : State) (h : StoreId) (k : HeatKind) : s.reserved h k = setAside s.reservations h k := rfl

section
variable {h : StoreId} {k : HeatKind}

theorem setAside_cons (r : Reservation) (l : List Reservation) :
    setAside (r :: l) h k = (if r.isOf h k then r.remaining else 0) + setAside l h k := by
  unfold setAside
  rw [List.filter_cons]
  split <;> simp

/-- Every record with something remaining stands in a list at most as often as in another. -/
def coveredBy (l m : List Reservation) (h : StoreId) (k : HeatKind) : Prop :=
  ∀ q, q.isOf h k = true → q.remaining ≠ 0 → l.count q ≤ m.count q

/-- Records with nothing remaining add nothing. -/
theorem setAside_eq_filter (l : List Reservation) : setAside l h k =
    ((l.filter fun r => r.isOf h k && r.remaining != 0).map Reservation.remaining).sum := by
  induction l with
  | nil => rfl
  | cons r l ih =>
    rw [setAside_cons, ih, List.filter_cons]
    by_cases hof : r.isOf h k = true <;> by_cases hrem : r.remaining = 0 <;> simp [hof, hrem]

theorem setAside_le_of_covered {l m : List Reservation} (hc : coveredBy l m h k) :
    setAside l h k ≤ (m.map Reservation.remaining).sum := by
  rw [setAside_eq_filter]
  have hsub : (l.filter fun r => r.isOf h k && r.remaining != 0).Subperm m := by
    refine List.subperm_ext_iff.2 fun q hq => ?_
    obtain ⟨-, hq⟩ := List.mem_filter.1 hq
    rw [List.count_filter (by exact hq)]
    simp only [Bool.and_eq_true, bne_iff_ne] at hq
    exact hc q hq.1 hq.2
  obtain ⟨l', hperm, hsublist⟩ := hsub
  rw [← (hperm.map _).sum_eq]
  exact (hsublist.map _).sum_le_sum fun _ _ => Nat.zero_le _

theorem coveredBy_erase {l m : List Reservation} {r : Reservation} (hc : coveredBy l (r :: m) h k) :
    coveredBy (l.erase r) m h k := by
  intro q hof hrem
  have hq := hc q hof hrem
  rw [List.count_cons] at hq
  rw [List.count_erase]
  simp only [beq_iff_eq] at hq ⊢
  split at hq <;> rename_i heq <;> simp_all

/-- A record whose copies all come to nothing remaining need not be covered. -/
theorem coveredBy_of_ne {l l' m : List Reservation} {r : Reservation} (hc : coveredBy l (r :: m) h k)
    (hle : ∀ q, q.remaining ≠ 0 → q ≠ r → l'.count q ≤ l.count q) (hr : r.remaining ≠ 0 → l'.count r = 0) :
    coveredBy l' m h k := by
  intro q hof hrem
  by_cases hq : q = r
  · subst hq
    rw [hr hrem]
    exact Nat.zero_le _
  · have hcover := hc q hof hrem
    rw [List.count_cons_of_ne (Ne.symm hq)] at hcover
    exact (hle q hrem hq).trans hcover

theorem count_replaceRecord_le {l : List Reservation} {r new q : Reservation} (hq : q ≠ new) :
    (replaceRecord l r new).count q ≤ l.count q := by
  induction l with
  | nil => exact Nat.le_refl _
  | cons x l ih =>
    have hcons : replaceRecord (x :: l) r new = (if x = r then new else x) :: replaceRecord l r new := rfl
    rw [hcons, List.count_cons, List.count_cons]
    by_cases hx : x = r
    · simp only [hx, if_true, beq_iff_eq, hq.symm, if_false]
      omega
    · simp only [hx, if_false]
      omega

theorem count_replaceRecord_same {l : List Reservation} {r new : Reservation} (hr : r ≠ new) :
    (replaceRecord l r new).count r = 0 := by
  refine List.count_eq_zero.2 fun hmem => ?_
  obtain ⟨x, -, hx⟩ := List.mem_map.1 hmem
  split at hx
  · exact hr hx.symm
  · next hne => exact hne hx

theorem replaceRecord_of_not_mem {l : List Reservation} {r new : Reservation} (hr : r ∉ l) : replaceRecord l r new = l := by
  refine (List.map_congr_left fun x hx => ?_).trans (List.map_id l)
  exact if_neg fun (e : x = r) => hr (e ▸ hx)

section
variable {r new : Reservation} (hof : r.isOf h k = true) (hnew : new.isOf h k = true)
  (hless : new.remaining ≤ r.remaining)
include hof hnew hless

theorem setAside_replaceRecord_le (l : List Reservation) : setAside (replaceRecord l r new) h k ≤ setAside l h k := by
  induction l with
  | nil => exact Nat.le_refl _
  | cons x l ih =>
    have hcons : replaceRecord (x :: l) r new = (if x = r then new else x) :: replaceRecord l r new := rfl
    rw [hcons, setAside_cons, setAside_cons]
    by_cases hx : x = r
    · simp only [hx, if_true, hof, hnew]
      omega
    · simp only [hx, if_false]
      omega

/-- A record that stands in the list lowers the sum by what it loses. -/
theorem setAside_replaceRecord_mem {l : List Reservation} (hr : r ∈ l) :
    setAside (replaceRecord l r new) h k + (r.remaining - new.remaining) ≤ setAside l h k := by
  induction l with
  | nil => cases hr
  | cons x l ih =>
    have hcons : replaceRecord (x :: l) r new = (if x = r then new else x) :: replaceRecord l r new := rfl
    rw [hcons, setAside_cons, setAside_cons]
    by_cases hx : x = r
    · have hrest := setAside_replaceRecord_le hof hnew hless l
      simp only [hx, if_true, hof, hnew]
      omega
    · have hrest := ih ((List.mem_cons.1 hr).resolve_left (Ne.symm hx))
      simp only [hx, if_false]
      omega

end

/-! ### One record (R118, 1 and 2) -/

/-- A record cut by an amount. -/
def Reservation.cutBy (r : Reservation) (n : Nat) : Reservation := { r with granted := r.consumed + (r.remaining - n) }

@[simp] theorem cutBy_remaining (r : Reservation) (n : Nat) : (r.cutBy n).remaining = r.remaining - n := by
  simp [Reservation.cutBy, Reservation.remaining]

@[simp] theorem cutBy_isOf (r : Reservation) (n : Nat) : (r.cutBy n).isOf h k = r.isOf h k := rfl

/-- How a trim stands, with the records `rest` still to come: within the bound, or with an excess that these records cover
while no other has anything remaining. -/
def Trimming (bound : Nat) (h : StoreId) (k : HeatKind) (rest : List Reservation) (x : State × Nat) : Prop :=
  (x.2 = 0 ∧ setAside x.1.reservations h k ≤ bound) ∨
    ((rest.map Reservation.remaining).sum ≤ bound + x.2 ∧ coveredBy x.1.reservations rest h k)

theorem trimOne_of_zero (s : State) (r : Reservation) : State.trimOne (s, 0) r = (s, 0) := rfl

/-- R118: what is left of a list of records, and of the excess, after one of them. -/
theorem trimOne_reservations (s : State) (n : Nat) (r : Reservation) (hn : n ≠ 0) :
    ((r.remaining ≤ n ∧ (State.trimOne (s, n) r).2 = n - r.remaining ∧
      ((State.trimOne (s, n) r).1.reservations = s.reservations.erase r ∨
       (State.trimOne (s, n) r).1.reservations = replaceRecord s.reservations r (r.cutBy r.remaining) ∨
       (r.remaining = 0 ∧ (State.trimOne (s, n) r).1.reservations = s.reservations)))) ∨
    (n < r.remaining ∧ (State.trimOne (s, n) r).2 = 0 ∧
      (State.trimOne (s, n) r).1.reservations = replaceRecord s.reservations r (r.cutBy n)) := by
  unfold State.trimOne
  dsimp only
  rw [if_neg hn]
  cases hp : r.phase with
  | next =>
    dsimp only
    split
    · next hle => exact .inl ⟨hle, rfl, .inl (by simp)⟩
    · next hgt => exact .inr ⟨Nat.lt_of_not_le hgt, rfl, by simp [Reservation.cutBy, hp]⟩
  | current =>
    dsimp only
    rcases Nat.lt_or_ge n r.remaining with hlt | hle
    · rw [Nat.min_eq_left hlt.le, if_neg hn]
      exact .inr ⟨hlt, Nat.sub_self n, by simp [Reservation.cutBy, hp]⟩
    · rw [Nat.min_eq_right hle]
      split
      · next hzero => exact .inl ⟨hle, by rw [hzero]; rfl, .inr (.inr ⟨hzero, rfl⟩)⟩
      · exact .inl ⟨hle, rfl, .inr (.inl (by simp [Reservation.cutBy, hp]))⟩

theorem trimOne_trimming {bound : Nat} {r : Reservation} {rest : List Reservation} {x : State × Nat}
    (hof : r.isOf h k = true) (hx : Trimming bound h k (r :: rest) x) : Trimming bound h k rest (State.trimOne x r) := by
  obtain ⟨s, n⟩ := x
  rcases hx with ⟨rfl, hbound⟩ | ⟨hsum, hcover⟩
  · exact .inl ⟨rfl, hbound⟩
  rw [List.map_cons, List.sum_cons] at hsum
  dsimp only at hsum hcover
  rcases Nat.eq_zero_or_pos n with rfl | hpos
  · refine .inl ⟨rfl, (setAside_le_of_covered hcover).trans ?_⟩
    simpa using hsum
  rcases trimOne_reservations s n r hpos.ne' with ⟨hle, hexcess, hlist⟩ | ⟨hlt, hexcess, hlist⟩
  · refine .inr ⟨by rw [hexcess]; omega, ?_⟩
    rcases hlist with hlist | hlist | ⟨hzero, hlist⟩
    · rw [hlist]
      exact coveredBy_erase hcover
    · rw [hlist]
      have hempty : (r.cutBy r.remaining).remaining = 0 := by simp
      refine coveredBy_of_ne hcover (fun q hq _ => count_replaceRecord_le fun e => hq (e ▸ hempty))
        fun hr => count_replaceRecord_same fun e => hr (e ▸ hempty)
    · rw [hlist]
      exact coveredBy_of_ne hcover (fun _ _ _ => Nat.le_refl _) fun hr => absurd hzero hr
  · refine .inl ⟨hexcess, ?_⟩
    rw [hlist]
    by_cases hmem : r ∈ s.reservations
    · have hcut := setAside_replaceRecord_mem (new := r.cutBy n) hof hof (by simp) hmem
      have htotal := setAside_le_of_covered hcover
      rw [List.map_cons, List.sum_cons] at htotal
      rw [cutBy_remaining] at hcut
      omega
    · rw [replaceRecord_of_not_mem hmem]
      have hrest : coveredBy s.reservations rest h k :=
        coveredBy_of_ne hcover (fun _ _ _ => Nat.le_refl _) fun _ => List.count_eq_zero.2 hmem
      have htotal := setAside_le_of_covered hrest
      omega

/-! ### A kind trimmed -/

theorem foldl_trimOne_trimming {bound : Nat} (rest : List Reservation) (hrest : ∀ r ∈ rest, r.isOf h k = true)
    (x : State × Nat) (hx : Trimming bound h k rest x) : Trimming bound h k [] (rest.foldl State.trimOne x) := by
  induction rest generalizing x with
  | nil => exact hx
  | cons r rest ih =>
    exact ih (fun q hq => hrest q (List.mem_cons_of_mem _ hq)) _ (trimOne_trimming (hrest r List.mem_cons_self) hx)

theorem Trimming.within {bound : Nat} {x : State × Nat} (hx : Trimming bound h k [] x) :
    setAside x.1.reservations h k ≤ bound := by
  rcases hx with ⟨-, hbound⟩ | ⟨-, hcover⟩
  · exact hbound
  · exact (setAside_le_of_covered hcover).trans (Nat.zero_le _)

end

section
variable (s : State) (h : StoreId) (k : HeatKind)

/-- The records a trim comes to, in its order. -/
def State.trimOrder : List Reservation := s.newest h k .next ++ s.newest h k .current

theorem mem_trimOrder {r : Reservation} : r ∈ s.trimOrder h k ↔ r ∈ s.reservations ∧ r.isOf h k = true := by
  simp only [State.trimOrder, State.newest, List.mem_append, List.mem_reverse, List.mem_filter, Reservation.isOf]
  cases r.phase <;> simp

theorem trimOrder_perm : (s.trimOrder h k).Perm (s.reservations.filter fun r => r.isOf h k) := by
  have hnext : s.newest h k .next = ((s.reservations.filter fun r => r.isOf h k).filter fun r => r.phase == .next).reverse := by
    rw [State.newest, List.filter_filter]
    simp only [Reservation.isOf, Bool.and_comm]
  have hcurrent : s.newest h k .current =
      ((s.reservations.filter fun r => r.isOf h k).filter fun r => !(r.phase == .next)).reverse := by
    rw [State.newest, List.filter_filter]
    congr 1
    refine List.filter_congr fun r _ => ?_
    cases r.phase <;> simp [Reservation.isOf]
  rw [State.trimOrder, hnext, hcurrent]
  exact ((List.reverse_perm _).append (List.reverse_perm _)).trans (List.filter_append_perm _ _)

/-- R118: after a trim what is set aside is within the bound. -/
theorem trimKind_within : setAside (s.trimKind h k).reservations h k ≤ (s.store h).run.bound k := by
  refine (foldl_trimOne_trimming (s.trimOrder h k) (fun r hr => ((mem_trimOrder s h k).1 hr).2) _ (.inr ⟨?_, ?_⟩)).within
  · rw [((trimOrder_perm s h k).map _).sum_eq]
    show setAside s.reservations h k ≤ _
    unfold State.excess
    rw [reserved_eq]
    omega
  · intro q hof _
    rw [(trimOrder_perm s h k).count_eq, List.count_filter (p := fun r : Reservation => r.isOf h k) hof]

theorem trimKind_of_excess_zero (he : s.excess h k = 0) : s.trimKind h k = s := by
  have hstays : ∀ l : List Reservation, l.foldl State.trimOne (s, 0) = (s, 0) := by
    intro l
    induction l with
    | nil => rfl
    | cons r l ih => rw [List.foldl_cons, trimOne_of_zero, ih]
  unfold State.trimKind
  rw [he, hstays]

end

/-! ### What a trim touches -/

theorem raise_link_d (s : State) (f : FaultInfo) : (s.raise f).link.d = s.link.d := by
  unfold State.raise State.notify
  dsimp only
  split
  · rfl
  · split
    · rfl
    · split <;> rfl

/-- A fault is told on Port U alone. -/
theorem raise_frame_u (s : State) (f : FaultInfo) : s.raise f =
    { s with faults := (s.raise f).faults, tiers := (s.raise f).tiers,
             link := { s.link with u := (s.raise f).link.u } } := by
  have hlink : ({ s.link with u := (s.raise f).link.u } : Link) = (s.raise f).link := by
    show Link.mk _ s.link.d = _
    rw [← raise_link_d s f]
  rw [hlink]
  exact raise_frame s f

theorem trimOne_cases (x : State × Nat) (r : Reservation) : (State.trimOne x r).1 = x.1 ∨
    ∃ g f, (State.trimOne x r).1 = (x.1.modReservations g).raise f := by
  obtain ⟨s, n⟩ := x
  unfold State.trimOne
  dsimp only
  split
  · exact .inl rfl
  · split
    · split
      · exact .inr ⟨_, _, rfl⟩
      · exact .inr ⟨_, _, rfl⟩
    · split
      · exact .inl rfl
      · exact .inr ⟨_, _, rfl⟩

/-- A state that differs from another in the reservation list and in what faults touch. -/
def State.trimmedOf (u s : State) : Prop :=
  u = { s with reservations := u.reservations, faults := u.faults, tiers := u.tiers, link := { s.link with u := u.link.u } }

theorem trimOne_trimmedOf (s : State) (x : State × Nat) (r : Reservation) (hx : x.1.trimmedOf s) :
    (State.trimOne x r).1.trimmedOf s := by
  rcases trimOne_cases x r with h | ⟨g, f, h⟩
  · rw [h]
    exact hx
  · rw [h]
    unfold State.trimmedOf at hx ⊢
    rw [raise_frame_u, hx]
    rfl

theorem trimKind_trimmedOf (s : State) (h : StoreId) (k : HeatKind) : (s.trimKind h k).trimmedOf s :=
  foldl_keeps (P := fun x : State × Nat => x.1.trimmedOf s) (trimOne_trimmedOf s) _ (s, s.excess h k) rfl

end Sys2Proof.Machine
end

section
/-! PROOF. A report consumes, extends or exhausts a reservation (O35, R115, R117). -/

namespace Sys2Proof.Machine

theorem afterReport_keeps (r : Reservation) (rep : LastReport) (ratio : Nat) :
    (r.afterReport rep ratio).train = r.train ∧ (r.afterReport rep ratio).store = r.store ∧
      (r.afterReport rep ratio).kind = r.kind := by
  unfold Reservation.afterReport
  split <;> exact ⟨rfl, rfl, rfl⟩

section
variable {s : State} {t : TrainId} {m : RunMode} {r : Reservation} {rep : LastReport}

/-- R115: a RUNNING train's record after a report. -/
theorem consume_of_current (hst : (s.run t).state = .running) (hm : (s.run t).mode = some m)
    (hr : s.recordOf t .current = some r) : s.consume t rep =
      let used := r.afterReport rep ((s.cfg t).heatRatio m)
      let after := s.modReservations fun l => replaceRecord l r used
      if used.remaining = 0 then after.exhausted used else after := by
  unfold State.consume
  rw [hr, hm]
  exact if_neg (not_not_intro hst)

/-- R66, R67: a report that leaves a RUNNING train as it is, is recorded and consumed. -/
theorem readReport_running (hst : (s.run t).state = .running)
    (hrep : rep.runState = none ∨ rep.runState = some .synchronised) :
    s.readReport rep t = (s.recordReport t rep).consume t rep := by
  have hacted : s.toldReport t rep = s.recordReport t rep := by
    rcases hrep with hrep | hrep <;> simp only [told_running rep hst, State.reportRunning, hrep]
  exact congrArg (fun u : State => u.consume t rep) hacted

/-- R117: whether a record with nothing remaining can grow. -/
def State.extendable (s : State) (r : Reservation) : Prop :=
  (s.store r.store).cfg.configured = true ∧ (s.store r.store).run.condition ≠ .blind ∧
    (s.store r.store).cfg.quantum + (r.consumed - r.granted) ≤ s.available r.store r.kind

theorem exhausted_extends (h : s.extendable r) : s.exhausted r = s.modReservations fun l =>
    replaceRecord l r { r with granted := r.granted + ((s.store r.store).cfg.quantum + (r.consumed - r.granted)) } := by
  obtain ⟨hconfigured, hsighted, hroom⟩ := h
  exact if_pos (by simp [hconfigured, hsighted, hroom])

theorem exhausted_stops (h : ¬ s.extendable r) : s.exhausted r = s.requestStop r.train Cause.heatExhausted := by
  refine if_neg fun hc => h ?_
  simpa [State.extendable, and_assoc] using hc

theorem exec_report_running {eth : Eth} {h : Header} {items : List Item} {pad : List Byte} {i : StationId}
    (hn : items.length ≤ 16) (hf : s.findStation .d h.src = some i) (he : (s.station i).enrolment = .enrolled)
    (hb : s.trainsBehind i = [t]) (hst : (s.run t).state = .running)
    (hrep : (readReport items).runState = none ∨ (readReport items).runState = some .synchronised) :
    ∃ p l v, p = { s with link := l, trains := v } ∧ (p.run t).state = .running ∧ (p.run t).mode = (s.run t).mode ∧
      p.cfg t = s.cfg t ∧ exec (.report eth h items pad) s = .next (p.consume t (readReport items)) := by
  obtain ⟨l, hl⟩ := passedOn_frame s eth h items pad
  obtain ⟨x, hx⟩ : ∃ x : State, x = { s with link := l } := ⟨_, rfl⟩
  have hrun : x.run t = s.run t := by rw [hx]; rfl
  have hread : exec (.report eth h items pad) s = .next (x.readReport (readReport items) t) := by
    rw [exec_report s eth h items pad i hn hf, hl, ← hx, readFrom_enrolled x items i (by rw [hx]; exact he),
      show x.trainsBehind i = [t] by rw [hx]; exact hb]
    rfl
  rw [readReport_running (by rw [hrun]; exact hst) hrep] at hread
  refine ⟨_, l, (x.recordReport t (readReport items)).trains, ?_, ?_, ?_, ?_, hread⟩
  · rw [recordReport_frame, hx]
  · rw [recordReport_run, hrun]
    exact hst
  · rw [recordReport_run, hrun]
    rfl
  · rw [recordReport_cfg, hx]
    rfl

/-- The energy from one counter to another, the counters turning over (R115). -/
theorem energySince_eq (c c0 : Word) : (c - c0).toNat = (c.toNat + 4294967296 - c0.toNat) % 4294967296 := by
  have hlt := c0.isLt
  rw [BitVec.toNat_sub]
  congr 1
  omega

end

/-- Settles O35: the trim's invariant bounds what is set aside, and a report for a RUNNING train is its record's update,
followed by the extension or the stop request where nothing remains. -/
theorem trimAndConsumption : Obligations.TrimAndConsumption := by
  refine ⟨fun s h k => ⟨?_, trimKind_of_excess_zero s h k, trimKind_trimmedOf s h k⟩, ?_⟩
  · cases k <;> exact trimKind_within s h _
  intro eth h items pad s i t m hn hf he hb hst hm rep r hr hrep ratio used after left k set free ask extends_
  obtain ⟨p, l, v, hp, hpst, hpm, hpcfg, hread⟩ := exec_report_running hn hf he hb hst hrep
  have hreservations : p.reservations = s.reservations := by rw [hp]
  have hrequests : p.stopRequests = s.stopRequests := by rw [hp]
  have hused : r.afterReport rep ((s.cfg t).heatRatio m) = used := by
    have hratio : (s.cfg t).heatRatio m = ratio := by cases m <;> rfl
    rw [hratio]
    simp only [used, Reservation.afterReport, energySince_eq] <;> rfl
  obtain ⟨htrain, hstore, hkind⟩ := afterReport_keeps r rep ((s.cfg t).heatRatio m)
  rw [hused] at htrain hstore hkind
  let q : State := p.modReservations fun l => replaceRecord l r used
  have hafter : q.reservations = after := congrArg (fun l => replaceRecord l r used) hreservations
  have hconsumed : p.consume t rep = if left used = 0 then q.exhausted used else q := by
    have hcurrent : p.recordOf t .current = some r := by rw [State.recordOf, hreservations]; exact hr
    rw [consume_of_current hpst (hpm.trans hm) hcurrent, hpcfg, hused]
    rfl
  have hkstore : q.store used.store = k := by rw [hstore, show q.store r.store = p.store r.store from rfl, hp]; rfl
  have hfree : q.available used.store used.kind = free := by
    rw [State.available, hkstore, reserved_eq, hafter, hstore, hkind]
    cases hk : r.kind <;> simp only [free, set, hk] <;> rfl
  have hextends : q.extendable used ↔ extends_ := by
    rw [State.extendable, hkstore, hfree]
  refine ⟨p.consume t rep, hread, ?_, ?_, ?_, fun hleft => ?_, fun hleft hext => ?_, fun hleft hext => ?_⟩
  · refine (tablesFrame s).consume ?_ t rep
    rw [hp]
    exact tablesKept_refl s
  · rw [consume_caverns, hp]
  · rw [consume_faults, hp]
  · rw [hconsumed, if_neg (Nat.pos_iff_ne_zero.1 hleft)]
    exact ⟨hafter, hrequests⟩
  · rw [hconsumed, if_pos hleft, exhausted_extends (hextends.2 hext), hkstore, State.modReservations_reservations, hafter]
    exact ⟨hrequests, rfl⟩
  · rw [hconsumed, if_pos hleft, exhausted_stops fun h => hext (hextends.1 h), htrain]
    have ht : r.train = t := by
      have hfound := List.find?_some hr
      simp only [Bool.and_eq_true, beq_iff_eq] at hfound
      exact hfound.1
    refine ⟨hafter, ?_⟩
    rw [ht, ← hrequests]
    rfl

end Sys2Proof.Machine
end

section
/-! PROOF. What the schedule engine's shared operations come to: folds under an invariant, targets worked out, events over
several trains, grants. -/

namespace Sys2Proof.Machine

/-! ### Folds -/

/-- Two folds agree where their steps agree on what an invariant of one of them allows. -/
theorem foldl_congr_of_keeps {α σ : Type} {P : σ → Prop} {f g : σ → α → σ} (hf : ∀ x a, P x → P (f x a))
    (hfg : ∀ x a, P x → f x a = g x a) (l : List α) : ∀ x, P x → l.foldl f x = l.foldl g x := by
  induction l with
  | nil => intro x _; rfl
  | cons a l ih =>
    intro x hx
    rw [List.foldl_cons, List.foldl_cons, ← hfg x a hx]
    exact ih _ (hf x a hx)

/-! ### Slot numbers (section 7.2) -/

theorem slotAfter_of_lt {a : Word} {k : Nat} (h : a.toNat + k < 4294967296) :
    slotAfter a k = BitVec.ofNat 32 (a.toNat + k) := if_pos h

theorem inRunMode_iff (g : Int) (m : Mode) :
    inRunMode g m = true ↔ (m = some .generate ∧ 0 < g) ∨ (m = some .charge ∧ g < 0) := by
  rcases m with _ | _ | _ <;> simp [inRunMode]

theorem autoRunning_iff (s : State) (t : TrainId) :
    s.autoRunning t = true ↔ (s.run t).state = .running ∧ (s.run t).auto = true := by
  simp [State.autoRunning]

/-! ### Targets worked out (R136) -/

theorem resolveCommit_state (s : State) (c : Commit) (need : Option Nat) :
    (s.resolveCommit c need).1 = (s.lookup true c.position.val).1 := by
  unfold State.resolveCommit
  split
  · next e => rw [e]
  · next e =>
    rw [e]
    split
    · split <;> rfl
    · rfl

theorem targetOne_state (w : TargetWork) (c : Commit) :
    (targetOne w c).state = (w.state.lookup true c.position.val).1 := by
  rw [← resolveCommit_state w.state c (powerNeed c.power)]
  unfold targetOne
  split <;> next e => rw [e]

/-- A state that differs from another in the translation cache alone. -/
def State.recachedOf (u s : State) : Prop := u = { s with cache := u.cache, lru := u.lru }

theorem recachedOf_trans {u v s : State} (h : u.recachedOf v) (h' : v.recachedOf s) : u.recachedOf s := by
  unfold State.recachedOf at h h' ⊢
  rw [h, h']

theorem workTargets_recached (s : State) (n : Word) : (s.workTargets n).state.recachedOf s :=
  foldl_keeps (P := fun w : TargetWork => w.state.recachedOf s)
    (fun w c h => by
      rw [targetOne_state]
      exact recachedOf_trans (lookup_frame true) h) _ { state := s, sums := Vector.replicate 6 0, failed := [] } rfl

/-! ### An event over several trains (R88) -/

theorem handPolls_frame (s : State) (ps : List HeldPoll) : s.handPolls ps = { s with link := (s.handPolls ps).link } :=
  (linkFrame s).handPolls rfl ps

/-- An event over several trains leaves what its operation leaves, but for the frames it hands over and the drive queue. -/
theorem pollsLast_frame (s : State) (f : State → State) : s.pollsLast f =
    { f (s.withPolls []) with link := (s.pollsLast f).link, queue := (s.pollsLast f).queue } := by
  unfold State.pollsLast
  dsimp only
  rw [handPolls_frame]
  rfl

/-! ### Grants (R114) -/

/-- A grant joins at most one record, made for the train, the phase and the slot asked for. -/
theorem grantHeat_adds {s u : State} {a : HeatAsk} (h : s.grantHeat a = .ok u) :
    ∃ l, u = { s with reservations := s.reservations ++ l } ∧
      ∀ r ∈ l, r.train = a.train ∧ r.phase = a.phase ∧ r.slot = a.slot ∧ r.consumed = 0 := by
  have none_added : s = { s with reservations := s.reservations ++ [] } := by rw [List.append_nil]
  have one_added (n : Nat) : ∀ r ∈ [s.grantRecord a n],
      r.train = a.train ∧ r.phase = a.phase ∧ r.slot = a.slot ∧ r.consumed = 0 := by
    intro r hr
    rw [List.mem_singleton.1 hr]
    exact ⟨rfl, rfl, rfl, rfl⟩
  by_cases hratio : (s.cfg a.train).heatRatio a.mode = 0
  · rw [grantHeat_of_ratio_zero hratio] at h
    cases h
    exact ⟨[], none_added, fun _ hr => absurd hr List.not_mem_nil⟩
  by_cases hsighted : (s.store (s.cfg a.train).store).cfg.configured = false ∨
      (s.store (s.cfg a.train).store).run.condition = .blind
  · rw [grantHeat_unsighted hratio hsighted] at h
    cases h
  obtain ⟨hconfigured, hsighted⟩ := not_or.1 hsighted
  rw [grantHeat_sighted hratio (by simpa using hconfigured) hsighted] at h
  split at h
  · cases h
  split at h
  · cases h
  dsimp only at h
  split at h
  · cases h
    exact ⟨_, rfl, one_added _⟩
  split at h
  · cases h
    exact ⟨_, rfl, one_added _⟩
  · cases h

end Sys2Proof.Machine
end

section
/-! PROOF. The pre-reservation and time-mark timers of the schedule engine (O39, R120, R135, R141). -/

namespace Sys2Proof.Machine

/-! ### One train's NEXT request (R120) -/

section
variable (s : State) (t : TrainId) (n : Word) (g : Int)

theorem askNext_cases : s.askNext t n g = s ∨ (∃ f, s.askNext t n g = s.raise f) ∨
    ∃ a u, a.train = t ∧ a.phase = .next ∧ a.slot = some n ∧ s.grantHeat a = .ok u ∧ s.askNext t n g = u := by
  unfold State.askNext
  split
  · split
    · exact .inl rfl
    · split
      · exact .inl rfl
      · split
        · next u hu => exact .inr (.inr ⟨_, u, rfl, rfl, rfl, hu, rfl⟩)
        · exact .inr (.inl ⟨_, rfl⟩)
  · exact .inl rfl

end

/-- From `w` to `x` only NEXT records for slot `n` of RUNNING trains in AUTO were added, and faults raised. -/
structure State.AskedNext (w : State) (n : Word) (x : State) : Prop where
  frame : x = { w with reservations := x.reservations, link := x.link, faults := x.faults, tiers := x.tiers }
  added : ∃ l, x.reservations = w.reservations ++ l ∧ ∀ r ∈ l, r.phase = .next ∧ r.slot = some n ∧ r.consumed = 0 ∧
    (w.run r.train).state = .running ∧ (w.run r.train).auto = true

section
variable {w x : State} {n : Word}

theorem askedNext_refl (w : State) (n : Word) : w.AskedNext n w :=
  ⟨rfl, [], (List.append_nil _).symm, fun _ hr => absurd hr List.not_mem_nil⟩

theorem State.AskedNext.trains (h : w.AskedNext n x) : x.trains = w.trains := by rw [h.frame]
theorem State.AskedNext.part (h : w.AskedNext n x) : x.part = w.part := by rw [h.frame]

theorem State.AskedNext.raise (h : w.AskedNext n x) (f : FaultInfo) : w.AskedNext n (x.raise f) := by
  obtain ⟨hframe, l, hl, hmem⟩ := h
  refine ⟨?_, l, by rw [raise_reservations, hl], hmem⟩
  rw [raise_frame, hframe]

theorem State.AskedNext.grant (h : w.AskedNext n x) {a : HeatAsk} {u : State} (hu : x.grantHeat a = .ok u)
    (hphase : a.phase = .next) (hslot : a.slot = some n) (hrun : (w.run a.train).state = .running)
    (hauto : (w.run a.train).auto = true) : w.AskedNext n u := by
  obtain ⟨hframe, l, hl, hmem⟩ := h
  obtain ⟨l', rfl, hmem'⟩ := grantHeat_adds hu
  refine ⟨?_, l ++ l', ?_, fun r hr => ?_⟩
  · rw [hframe]
  · show x.reservations ++ l' = _
    rw [hl, List.append_assoc]
  · rcases List.mem_append.1 hr with hr | hr
    · exact hmem r hr
    · obtain ⟨htrain, hp, hs, hc⟩ := hmem' r hr
      rw [htrain]
      exact ⟨hp.trans hphase, hs.trans hslot, hc, hrun, hauto⟩

theorem State.AskedNext.askNextFor (h : w.AskedNext n x) (v : Vector Int 6) (t : TrainId) :
    w.AskedNext n (askNextFor n v x t) := by
  unfold Machine.askNextFor
  split
  · next hnamed =>
    rw [Bool.and_eq_true, autoRunning_iff, run_of_trains h.trains] at hnamed
    obtain ⟨⟨hrun, hauto⟩, -⟩ := hnamed
    rcases askNext_cases x t n (v.get t) with he | ⟨f, he⟩ | ⟨a, u, rfl, hphase, hslot, hu, he⟩
    · rw [he]; exact h
    · rw [he]; exact h.raise f
    · rw [he]; exact h.grant hu hphase hslot hrun hauto
  · exact h

theorem foldl_askNextFor (v : Vector Int 6) (l : List TrainId) (h : w.AskedNext n x) :
    w.AskedNext n (l.foldl (Machine.askNextFor n v) x) :=
  foldl_keeps (P := w.AskedNext n) (fun _ t hx => hx.askNextFor v t) l x h

end

/-! ### The pre-reservation (R141) -/

section
variable (s : State)

/-- The pre-reservation timer's work done. -/
def State.preDone (s : State) : State := { s with engine := { s.engine with pre := .done } }

theorem expirePre_idle (h : ∀ ms, s.engine.pre ≠ .running ms) : s.expirePre = s := by
  unfold State.expirePre
  split
  · next ms hms => exact absurd hms (h ms)
  · rfl

theorem expirePre_running {ms : Nat} (h : s.engine.pre = .running ms) : s.expirePre = s.preReserve := by
  unfold State.expirePre
  rw [h]

theorem preReserve_shut (h : s.gateOpen = false ∨ s.engine.active = none) : s.preReserve = s.preDone := by
  unfold State.preReserve
  rcases h with h | h
  · split
    · rfl
    · exact if_neg (by simp [h])
  · rw [h]
    rfl

variable {s} {a : Word} (ha : s.engine.active = some a)
include ha

theorem preReserve_other (hn : (s.slotAt (slotAfter a 1)).number ≠ slotAfter a 1) : s.preReserve = s.preDone := by
  unfold State.preReserve
  rw [ha]
  exact if_neg fun h => hn h.2

theorem preReserve_asks (hg : s.gateOpen = true) (hn : (s.slotAt (slotAfter a 1)).number = slotAfter a 1) :
    s.preReserve = ((s.preDone.workTargets (slotAfter a 1)).state.configuredTrains.foldl
      (askNextFor (slotAfter a 1) (s.preDone.workTargets (slotAfter a 1)).sums)
      (s.preDone.workTargets (slotAfter a 1)).state) := by
  unfold State.preReserve
  rw [ha]
  exact if_pos ⟨hg, hn⟩

/-- What a pre-reservation leaves and adds. -/
theorem preReserve_asked : ∃ w : State, w.recachedOf s.preDone ∧ w.AskedNext (slotAfter a 1) s.preReserve := by
  by_cases hopen : s.gateOpen = true ∧ (s.slotAt (slotAfter a 1)).number = slotAfter a 1
  · rw [preReserve_asks ha hopen.1 hopen.2]
    exact ⟨_, workTargets_recached _ _, foldl_askNextFor _ _ (askedNext_refl _ _)⟩
  · refine ⟨s.preDone, rfl, ?_⟩
    have hstays : s.preReserve = s.preDone := by
      by_cases hg : s.gateOpen = true
      · exact preReserve_other ha fun hn => hopen ⟨hg, hn⟩
      · exact preReserve_shut s (.inl (by simpa using hg))
    rw [hstays]
    exact askedNext_refl _ _

end

/-! ### The time-mark timer (R135) -/

theorem expireMark_running {s : State} {ms : Nat} (h : s.engine.mark = some ms) : s.expireMark =
    State.raise { s with engine := { s.engine with mark := some (s.part.markLimit * 1000) } }
      { cause := Cause.timeStale, category := some .time } := by
  unfold State.expireMark
  rw [h]
  rfl

theorem expireMark_idle {s : State} (h : s.engine.mark = none) : s.expireMark = s := by
  unfold State.expireMark
  rw [h]

end Sys2Proof.Machine
end

section
/-! PROOF. The ramp step timer of the schedule engine (O39, R142, R151). -/

namespace Sys2Proof.Machine

/-! ### A POWER value offered (R142) -/

/-- The POWER value a train is left with by an offer of `v`: within the rated power and the cap. -/
def State.withinLimits (s : State) (t : TrainId) (v : Nat) : Nat :=
  min (min v ((s.cfg t).rated (s.run t).mode)) (s.powerCap t)

/-- From `s` to `u` only the POWER set value of train `t`, the drive queue and the frames handed to a port differ. -/
structure State.Powered (s : State) (t : TrainId) (p : Nat) (u : State) : Prop where
  frame  : u = { s with link := u.link, queue := u.queue, trains := u.trains }
  trains : u.trains = trainsMod s.trains t fun r => { r with power := p }

theorem placeOffer_frame (s : State) (o : Offer) : (s.placeOffer o).1 =
    { s with queue := (s.placeOffer o).1.queue, trains := (s.placeOffer o).1.trains } := by
  unfold State.placeOffer
  split
  · rfl
  · split
    · rfl
    · dsimp only
      split
      · rfl
      · split
        · split <;> rfl
        · split <;> rfl

theorem offer_frame (s : State) (o : Offer) : (s.offer o).1 =
    { s with link := (s.offer o).1.link, queue := (s.offer o).1.queue, trains := (s.offer o).1.trains } := by
  have hplaced := placeOffer_frame s o
  have hsettled := settle_frame (s.placeOffer o).1
  unfold State.offer
  dsimp only
  generalize (s.placeOffer o).1 = p at hplaced hsettled
  generalize p.settle = u at hsettled ⊢
  rw [hsettled, hplaced]

theorem offerPower_powered (s : State) (t : TrainId) (v : Nat) {o : Origin} (ho : o ≠ .admitted)
    (hst : (s.run t).state = .running) (hg : s.gateOpen = true) :
    s.Powered t (s.withinLimits t v) (s.offerPower t v o) := by
  unfold State.offerPower
  dsimp only
  split
  · next he =>
    have hsame : (fun r : TrainRun => { r with power := s.withinLimits t v }) (s.train t).run = (s.train t).run :=
      congrArg (fun p => { s.run t with power := p }) he
    refine ⟨rfl, (trainsMod_id s.trains t).symm.trans (trainsMod_congr hsame.symm)⟩
  · refine ⟨offer_frame s _, ?_⟩
    rw [offer_trains_settled, placeOffer_trains s _ hst hg ho]
    rfl

/-! ### One train at a ramp step -/

/-- The magnitude a train is moved toward: its target's, moved by its share. -/
def State.rampAim (s : State) (t : TrainId) : Nat := (moved (s.run t).mode (s.scheduled t) (s.shares.get t).share).toNat

/-- The POWER value a ramp step leaves a train with. -/
def State.rampPower (s : State) (t : TrainId) : Nat :=
  s.withinLimits t (stepToward (s.run t).power (s.rampAim t)
    ((if (s.shares.get t).unfinished then (s.cfg t).reserveRamp else (s.cfg t).rampRate) * s.engine.step))

/-- What ramp steps leave, train by train, outside the trains they take. -/
structure State.Ramped (s : State) (taken : TrainId → Prop) (u : State) : Prop where
  frame  : u = { s with link := u.link, queue := u.queue, trains := u.trains, shares := u.shares }
  others : ∀ v, ¬ taken v → u.train v = s.train v ∧ u.shares.get v = s.shares.get v
  cfg    : ∀ v, u.cfg v = s.cfg v
  run    : ∀ v, u.run v = { s.run v with power := (u.run v).power }
  share  : ∀ v, (u.shares.get v).share = (s.shares.get v).share

section
variable {s u w : State} {p q : TrainId → Prop}

theorem ramped_refl (s : State) (p : TrainId → Prop) : s.Ramped p s := ⟨rfl, fun _ _ => ⟨rfl, rfl⟩, fun _ => rfl, fun _ => rfl, fun _ => rfl⟩

theorem State.Ramped.trans (h : s.Ramped p u) (h' : u.Ramped q w) : s.Ramped (fun v => p v ∨ q v) w where
  frame := by rw [h'.frame, h.frame]
  others := fun v hv => ⟨(h'.others v fun hq => hv (.inr hq)).1.trans (h.others v fun hp => hv (.inl hp)).1,
    (h'.others v fun hq => hv (.inr hq)).2.trans (h.others v fun hp => hv (.inl hp)).2⟩
  cfg := fun v => (h'.cfg v).trans (h.cfg v)
  run := fun v => by rw [h'.run, h.run]
  share := fun v => (h'.share v).trans (h.share v)

theorem State.Ramped.imp (h : s.Ramped p u) (hpq : ∀ v, p v → q v) : s.Ramped q u :=
  ⟨h.frame, fun v hv => h.others v fun hp => hv (hpq v hp), h.cfg, h.run, h.share⟩

end

section
variable {s : State} {t : TrainId}

theorem rampTrain_idle (h : s.autoRunning t = false) : s.rampTrain t = s := by
  unfold State.rampTrain
  rw [h]
  rfl

/-- R142, R151: a RUNNING train in AUTO at a ramp step. -/
theorem rampTrain_moves (h : s.autoRunning t = true) (hg : s.gateOpen = true) :
    s.Ramped (· = t) (s.rampTrain t) ∧ ((s.rampTrain t).run t).power = s.rampPower t ∧
      ((s.rampTrain t).shares.get t).unfinished =
        ((s.shares.get t).unfinished && s.rampPower t != s.rampAim t) := by
  obtain ⟨x, hx⟩ : ∃ x, x = s.offerPower t (stepToward (s.run t).power (s.rampAim t)
    ((if (s.shares.get t).unfinished then (s.cfg t).reserveRamp else (s.cfg t).rampRate) * s.engine.step)) .schedule :=
    ⟨_, rfl⟩
  have hpowered : s.Powered t (s.rampPower t) x := by
    rw [hx]
    exact offerPower_powered s t _ (by simp) ((autoRunning_iff s t).1 h).1 hg
  have hstep : s.rampTrain t = if (s.shares.get t).unfinished && (x.run t).power == s.rampAim t then
      x.modShare t fun h => { h with unfinished := false } else x := by
    unfold State.rampTrain
    rw [h, hx]
    rfl
  have hxrun : x.run t = { s.run t with power := s.rampPower t } := run_of_trainsMod hpowered.trains
  have hshares : x.shares = s.shares := by rw [hpowered.frame]
  have hmoved : s.Ramped (· = t) x := by
    obtain ⟨hcfg, hothers⟩ := othersKept_of_trainsMod hpowered.trains
    refine ⟨?_, fun v hv => ⟨?_, by rw [hshares]⟩, hcfg, fun v => ?_, fun v => by rw [hshares]⟩
    · rw [hpowered.frame]
    · have hc := hcfg v
      have hr := hothers v hv
      show Train.mk (x.cfg v) (x.run v) = Train.mk (s.cfg v) (s.run v)
      rw [hc, hr]
    · by_cases hv : v = t
      · rw [hv, hxrun]
      · rw [hothers v hv]
  rw [hstep, hxrun]
  split
  · next hreached =>
    simp only [Bool.and_eq_true, beq_iff_eq] at hreached
    have hmark : x.Ramped (· = t) (x.modShare t fun h => { h with unfinished := false }) := by
      refine ⟨rfl, fun v hv => ⟨rfl, upd_get_ne _ _ _ _ hv⟩, fun v => rfl, fun v => rfl, fun v => ?_⟩
      rw [State.modShare_shares, modAt_get]
      split
      · next e => rw [e]
      · rfl
    refine ⟨(hmoved.trans hmark).imp fun v => by simp, ?_, ?_⟩
    · exact congrArg TrainRun.power hxrun
    · rw [State.modShare_shares, modAt_get_same, hreached.2]
      simp
  · next hnot =>
    refine ⟨hmoved, congrArg TrainRun.power hxrun, ?_⟩
    rw [hshares]
    cases hu : (s.shares.get t).unfinished with
    | false => rfl
    | true =>
      simp only [hu, Bool.true_and, beq_iff_eq] at hnot
      simp [hnot]

theorem rampTrain_ramped (hg : s.gateOpen = true) (t : TrainId) : s.Ramped (· = t) (s.rampTrain t) := by
  cases h : s.autoRunning t with
  | false => rw [rampTrain_idle h]; exact ramped_refl s _
  | true => exact (rampTrain_moves h hg).1

theorem foldl_rampTrain_ramped (l : List TrainId) : ∀ {s : State}, s.gateOpen = true →
    s.Ramped (· ∈ l) (l.foldl State.rampTrain s) := by
  induction l with
  | nil => exact fun {s} _ => ramped_refl s _
  | cons a l ih =>
    intro s hg
    have hfirst := rampTrain_ramped hg a
    have hg' : (s.rampTrain a).gateOpen = true := by rw [hfirst.frame]; exact hg
    exact (hfirst.trans (ih hg')).imp fun v => by simp

end

end Sys2Proof.Machine
end

section
/-! PROOF. The shares dropped at a ramp step, the trains it takes in number order, and O39. -/

namespace Sys2Proof.Machine

/-! ### Activated energy added (R154) -/

theorem accumulate_frame (s : State) : s.accumulate = { s with slots := s.accumulate.slots, act := s.accumulate.act } := by
  unfold State.accumulate
  split
  · rfl
  · rw [modActive_frame]
    rfl

/-- A slot record after an addition to the accumulator of the active slot. -/
theorem accumulate_slot (s : State) (p : Fin 48) :
    ∃ n, s.accumulate.slots.get p = { s.slots.get p with accumulator := n } := by
  cases ha : s.engine.active with
  | none => exact ⟨(s.slots.get p).accumulator, by simp [State.accumulate, ha]⟩
  | some a =>
    have hslots : s.accumulate.slots = modAt s.slots (slotPos a) fun x =>
        { x with accumulator := x.accumulator + Int.tdiv (s.act.applied * s.act.since) 1000 } := by
      simp only [State.accumulate, ha, State.modActive]
      rfl
    rw [hslots, modAt_get]
    split
    · next hp => exact ⟨_, by rw [hp]⟩
    · exact ⟨(s.slots.get p).accumulator, rfl⟩

/-! ### Shares dropped (R151) -/

/-- A share dropped. -/
def Share.dropped (h : Share) : Share := { h with share := 0, unfinished := false }

theorem foldl_dropped_frame (l : List TrainId) (s : State) : l.foldl (fun s t => s.modShare t Share.dropped) s =
    { s with shares := (l.foldl (fun s t => s.modShare t Share.dropped) s).shares } :=
  foldl_keeps (P := fun u : State => u = { s with shares := u.shares }) (f := fun s t => s.modShare t Share.dropped)
    (fun _ t h => congrArg (fun v : State => v.modShare t Share.dropped) h) l s rfl

theorem foldl_dropped_share (l : List TrainId) (s : State) (t : TrainId) :
    (l.foldl (fun s t => s.modShare t Share.dropped) s).shares.get t =
      if t ∈ l then (s.shares.get t).dropped else s.shares.get t := by
  induction l generalizing s with
  | nil => simp
  | cons v l ih =>
    rw [List.foldl_cons, ih, State.modShare_shares, modAt_get]
    by_cases hv : t = v
    · subst hv
      simp [Share.dropped]
    · simp [hv]

section
variable (s : State)

/-- The trains whose share a ramp step drops. -/
def State.dropping : List TrainId := (fins 6).filter s.dropsShare

theorem dropShares_none (h : s.dropping.isEmpty = true) : s.dropShares = s := if_pos h

theorem dropShares_some (h : ¬ s.dropping.isEmpty = true) : ∃ n, s.dropShares =
    (s.dropping.foldl (fun s t => s.modShare t Share.dropped) s.accumulate).modAct fun a => { a with applied := n } :=
  ⟨_, if_neg h⟩

theorem dropShares_frame : s.dropShares =
    { s with slots := s.dropShares.slots, act := s.dropShares.act, shares := s.dropShares.shares } := by
  by_cases h : s.dropping.isEmpty = true
  · rw [dropShares_none s h]
  · obtain ⟨n, hn⟩ := dropShares_some s h
    rw [hn, foldl_dropped_frame, accumulate_frame]
    rfl

theorem dropShares_targets (p : Fin 48) : (s.dropShares.slots.get p).targets = (s.slots.get p).targets := by
  by_cases h : s.dropping.isEmpty = true
  · rw [dropShares_none s h]
  · obtain ⟨n, hn⟩ := dropShares_some s h
    obtain ⟨k, hk⟩ := accumulate_slot s p
    rw [hn, foldl_dropped_frame]
    show (s.accumulate.slots.get p).targets = _
    rw [hk]

theorem dropShares_share (t : TrainId) : s.dropShares.shares.get t =
    if s.dropsShare t then (s.shares.get t).dropped else s.shares.get t := by
  have hmem : t ∈ s.dropping ↔ s.dropsShare t = true := by simp [State.dropping, mem_fins]
  by_cases h : s.dropping.isEmpty = true
  · have hkeeps : ¬ s.dropsShare t = true := fun hd => by
      rw [List.isEmpty_iff.1 h] at hmem
      exact List.not_mem_nil (hmem.2 hd)
    rw [dropShares_none s h, if_neg hkeeps]
  · obtain ⟨n, hn⟩ := dropShares_some s h
    have hshares : s.accumulate.shares = s.shares := by rw [accumulate_frame]
    rw [hn]
    rw [State.modAct_shares, foldl_dropped_share, hshares]
    simp only [hmem]

end

/-! ### What the cap on POWER is read from (R99) -/

theorem powerCap_congr {x y : State} (htrains : x.trains = y.trains) (hcaverns : x.caverns = y.caverns)
    (hbands : x.bands = y.bands) (t : TrainId) : x.powerCap t = y.powerCap t := by
  have reads_only (s : State) : s.powerCap t =
      State.powerCap { y with trains := s.trains, caverns := s.caverns, bands := s.bands } t := rfl
  rw [reads_only x, htrains, hcaverns, hbands]

/-- The trains as the one at `t` finds them in an event that takes them in number order from `s` to `u`. -/
def State.foundBy (s u : State) (t : TrainId) : State :=
  { s with trains := Vector.ofFn fun v : TrainId => if v < t then u.train v else s.train v }

theorem foundBy_train (s u : State) (t v : TrainId) :
    (s.foundBy u t).train v = if v < t then u.train v else s.train v := by
  simp [State.train, State.foundBy, Vector.get]
  rfl

theorem configuredTrains_ascending (s : State) : s.configuredTrains.Pairwise (· < ·) := (fins_pairwise 6).filter _

theorem mem_configuredTrains (s : State) (t : TrainId) : t ∈ s.configuredTrains ↔ (s.cfg t).configured = true := by
  simp [State.configuredTrains, mem_fins]

section
variable {s : State} {t : TrainId}

/-- A configured train's turn among the ramp steps: `x` is the plant as the trains before it left it. -/
theorem rampTrains_turn (hg : s.gateOpen = true) (hc : (s.cfg t).configured = true) :
    ∃ x : State, x.gateOpen = true ∧ s.Ramped (· < t) x ∧
      (x.rampTrain t).Ramped (t < ·) (s.configuredTrains.foldl State.rampTrain s) := by
  have hascending := configuredTrains_ascending s
  obtain ⟨as, bs, hl, hbefore⟩ := split_of_ascending hascending ((mem_configuredTrains s t).2 hc)
  rw [hl] at hascending
  have hafter : ∀ b ∈ bs, t < b := (List.pairwise_cons.1 (List.pairwise_append.1 hascending).2.1).1
  have hfound : s.Ramped (· ∈ as) (as.foldl State.rampTrain s) := foldl_rampTrain_ramped as hg
  rw [hl, List.foldl_append, List.foldl_cons]
  generalize as.foldl State.rampTrain s = x at hfound ⊢
  have hxg : x.gateOpen = true := by rw [hfound.frame]; exact hg
  have htg : (x.rampTrain t).gateOpen = true := by rw [(rampTrain_ramped hxg t).frame]; exact hxg
  exact ⟨x, hxg, hfound.imp hbefore, (foldl_rampTrain_ramped bs htg).imp hafter⟩

/-- R142: a configured RUNNING train in AUTO is moved as the trains before it left the plant. -/
theorem rampTrains_moves (hg : s.gateOpen = true) (hc : (s.cfg t).configured = true) (hauto : s.autoRunning t = true) :
    let u := s.configuredTrains.foldl State.rampTrain s
    (u.run t).power = min (min (stepToward (s.run t).power (s.rampAim t)
        ((if (s.shares.get t).unfinished then (s.cfg t).reserveRamp else (s.cfg t).rampRate) * s.engine.step))
      ((s.cfg t).rated (s.run t).mode)) ((s.foundBy u t).powerCap t) ∧
    (u.shares.get t).unfinished = ((s.shares.get t).unfinished && (u.run t).power != s.rampAim t) := by
  intro u
  obtain ⟨x, hxg, hfound, hrest⟩ := rampTrains_turn hg hc
  change (x.rampTrain t).Ramped (t < ·) u at hrest
  obtain ⟨htrain, hshare⟩ := hfound.others t (lt_irrefl t)
  obtain ⟨htrain', hshare'⟩ := hrest.others t (lt_irrefl t)
  have hrun : x.run t = s.run t := congrArg Train.run htrain
  have hrun' : u.run t = (x.rampTrain t).run t := congrArg Train.run htrain'
  have hxauto : x.autoRunning t = true := by rw [State.autoRunning, hrun]; exact hauto
  obtain ⟨hmoved, hpower, hmark⟩ := rampTrain_moves hxauto hxg
  have haim : x.rampAim t = s.rampAim t := by
    have htarget : x.target t = s.target t := by rw [hfound.frame]; rfl
    rw [State.rampAim, State.scheduled, hrun, hshare, htarget]
    rfl
  have hcap : x.powerCap t = (s.foundBy u t).powerCap t := by
    refine powerCap_congr (vector_ext_get fun v => ?_) (by rw [hfound.frame]; rfl) (by rw [hfound.frame]; rfl) t
    show x.train v = (s.foundBy u t).train v
    rw [foundBy_train]
    split
    · next hlt => rw [(hrest.others v (lt_asymm hlt)).1, (hmoved.others v (ne_of_lt hlt)).1]
    · next hge => exact (hfound.others v hge).1
  have hvalue : x.rampPower t = min (min (stepToward (s.run t).power (s.rampAim t)
        ((if (s.shares.get t).unfinished then (s.cfg t).reserveRamp else (s.cfg t).rampRate) * s.engine.step))
      ((s.cfg t).rated (s.run t).mode)) ((s.foundBy u t).powerCap t) := by
    rw [State.rampPower, State.withinLimits, hcap, haim, hfound.cfg, hrun, hshare, show x.engine = s.engine by
      rw [hfound.frame]]
  rw [hrun', hpower, hshare', hmark, haim, hshare]
  exact ⟨hvalue, rfl⟩

/-- R142: a train that is not configured, or not RUNNING in AUTO, is left as it is. -/
theorem rampTrains_leaves (hg : s.gateOpen = true) (h : (s.cfg t).configured = false ∨ s.autoRunning t = false) :
    let u := s.configuredTrains.foldl State.rampTrain s
    u.train t = s.train t ∧ u.shares.get t = s.shares.get t := by
  intro u
  by_cases hc : (s.cfg t).configured = true
  · obtain ⟨x, -, hfound, hrest⟩ := rampTrains_turn hg hc
    obtain ⟨htrain, hshare⟩ := hfound.others t (lt_irrefl t)
    have hidle : x.autoRunning t = false := by
      rw [State.autoRunning, State.run, htrain]
      exact h.resolve_left (by simp [hc])
    rw [rampTrain_idle hidle] at hrest
    obtain ⟨htrain', hshare'⟩ := hrest.others t (lt_irrefl t)
    exact ⟨htrain'.trans htrain, hshare'.trans hshare⟩
  · exact (foldl_rampTrain_ramped s.configuredTrains hg).others t fun hm => hc ((mem_configuredTrains s t).1 hm)

end

/-! ### The expiry of the ramp step timer (R142) -/

section
variable (s : State)

/-- The ramp step timer started again, the ramp step read (R124). -/
def State.rampRestarted (s : State) : State :=
  { s with engine := { s.engine with ramp := some (s.part.rampStep * 1000), step := s.part.rampStep } }

theorem expireRamp_idle (h : s.engine.ramp = none) : s.expireRamp = s := by
  unfold State.expireRamp
  rw [h]

variable {s} {ms : Nat} (h : s.engine.ramp = some ms)
include h

theorem expireRamp_shut (hshut : s.gateOpen = false ∨ s.engine.active = none) : s.expireRamp = s.rampRestarted := by
  unfold State.expireRamp
  rw [h]
  exact if_neg (by rcases hshut with h | h <;> simp [h])

theorem expireRamp_open (hg : s.gateOpen = true) {a : Word} (ha : s.engine.active = some a) : s.expireRamp =
    s.rampRestarted.dropShares.pollsLast fun x => x.configuredTrains.foldl State.rampTrain x := by
  unfold State.expireRamp
  rw [h]
  exact if_pos (by simp [hg, ha])

end

end Sys2Proof.Machine
end

section
/-! PROOF. O39: the timers of the schedule engine between two boundaries. -/

namespace Sys2Proof.Machine

/-! ### A NEXT request for slot a + 1 (R120) -/

/-- The three readings a NEXT request turns on: the run mode, the CURRENT record, the absence of a NEXT record (R120). -/
def State.asksNext (s : State) (t : TrainId) (m : RunMode) (r : Reservation) : Prop :=
  (s.run t).mode = some m ∧ s.recordOf t .current = some r ∧ s.recordOf t .next = none

section
variable {s : State} {t : TrainId} {n : Word} {g : Int}

theorem askNext_of_none (h : ∀ m r, ¬ s.asksNext t m r) : s.askNext t n g = s := by
  unfold State.askNext
  split
  · next hm hr hx => exact absurd ⟨hm, hr, hx⟩ (h _ _)
  · rfl

theorem askNext_of_some {m : RunMode} {r : Reservation} (h : s.asksNext t m r) : s.askNext t n g =
    if (r.slot.any fun k => n.toNat ≤ k.toNat) = true then s
    else if (s.cfg t).heatRatio m = 0 then s
    else match s.grantHeat { train := t, mode := m, phase := .next, slot := some n, basis := s.energyBasis t (some g) } with
      | .ok u => u
      | .error c => s.raise { cause := c, train := some t, place := some (storePlace (s.cfg t).store), slot := some n } := by
  obtain ⟨hm, hr, hx⟩ := h
  unfold State.askNext
  rw [hm, hr, hx] <;> rfl
end

/-- R141: what names a configured train for a NEXT request, in the plant the timer found. -/
def State.namesNext (s : State) (g : Int) (t : TrainId) : Prop :=
  (s.cfg t).configured = true ∧ (s.run t).state = .running ∧ (s.run t).auto = true ∧
    (((s.run t).mode = some .generate ∧ 0 < g) ∨ ((s.run t).mode = some .charge ∧ g < 0))

/-- R120, R141: one NEXT request, decided by the plant `s` the timer found and the reservations of `x`. -/
def State.nextRequest (s : State) (n : Word) (v : Vector Int 6) (x : State) (t : TrainId) : State :=
  match (s.run t).mode, x.recordOf t .current, x.recordOf t .next with
  | some m, some r, none =>
    if ((s.cfg t).configured = true ∧ (s.run t).state = .running ∧ (s.run t).auto = true ∧
        (((s.run t).mode = some .generate ∧ 0 < v.get t) ∨ ((s.run t).mode = some .charge ∧ v.get t < 0))) ∧
        (s.cfg t).heatRatio m ≠ 0 ∧ (r.slot.any fun b => n.toNat ≤ b.toNat) = false then
      match x.grantHeat { train := t, mode := m, phase := .next, slot := some n,
                          basis := s.energyBasis t (some (v.get t)) } with
      | .ok y => y
      | .error c => x.raise { cause := c, train := some t, place := some (16 + (s.cfg t).store.val), slot := some n }
    else x
  | _, _, _ => x

section
variable {s x : State} (htrains : x.trains = s.trains) (hpart : x.part = s.part) (n : Word) (v : Vector Int 6) (t : TrainId)

include htrains in
theorem askNextFor_named [Decidable (s.namesNext (v.get t) t)] :
    (if (s.cfg t).configured = true then askNextFor n v x t else x) =
      if s.namesNext (v.get t) t then x.askNext t n (v.get t) else x := by
  have hnames : s.namesNext (v.get t) t ↔ (s.cfg t).configured = true ∧
      (x.autoRunning t && inRunMode (v.get t) (x.run t).mode) = true := by
    rw [State.namesNext, Bool.and_eq_true, autoRunning_iff, inRunMode_iff, run_of_trains htrains, and_assoc]
  simp only [askNextFor, ← ite_and, hnames]

include htrains hpart in
theorem askNextFor_eq_nextRequest :
    (if (s.cfg t).configured = true then askNextFor n v x t else x) = s.nextRequest n v x t := by
  classical
  have hrun : x.run t = s.run t := run_of_trains htrains t
  have hcfg : x.cfg t = s.cfg t := cfg_of_trains htrains t
  have hbasis (g : Option Int) : x.energyBasis t g = s.energyBasis t g := by
    simp only [State.energyBasis, hcfg, hpart]
  rw [askNextFor_named htrains]
  unfold State.nextRequest
  symm
  split
  · next m r hm hr hx =>
    rw [askNext_of_some ⟨(congrArg TrainRun.mode hrun).trans hm, hr, hx⟩, hcfg, hbasis]
    split
    · next hgo =>
      obtain ⟨hn, hratio, hslot⟩ := hgo
      have hopen : ¬ (r.slot.any fun b => n.toNat ≤ b.toNat) = true := by rw [hslot]; exact Bool.false_ne_true
      exact ((if_pos hn).trans ((if_neg hopen).trans (if_neg hratio))).symm
    · next hgo =>
      split
      · next hn =>
        split
        · rfl
        · next hslot =>
          split
          · rfl
          · next hratio => exact absurd ⟨hn, hratio, by simpa using hslot⟩ hgo
      · rfl
  · next hnone =>
    rw [askNext_of_none fun m r h => hnone m r ((congrArg TrainRun.mode hrun).symm.trans h.1) h.2.1 h.2.2, ite_self]

end

/-- R141: the requests of a pre-reservation, as requests of the plant the timer found. -/
theorem askNextFor_foldl (s : State) (n : Word) :
    let w := s.preDone.workTargets n
    w.state.configuredTrains.foldl (askNextFor n w.sums) w.state = (fins 6).foldl (s.nextRequest n w.sums) w.state := by
  intro w
  have hw : w.state.recachedOf s.preDone := workTargets_recached s.preDone n
  rw [State.configuredTrains, List.foldl_filter]
  refine foldl_congr_of_keeps (P := fun x : State => x.trains = s.trains ∧ x.part = s.part) (fun x t hx => ?_)
    (fun x t hx => ?_) _ _ (by rw [hw]; exact ⟨rfl, rfl⟩)
  · have hasked := (askedNext_refl x n).askNextFor w.sums t
    split
    · exact ⟨hasked.trains.trans hx.1, hasked.part.trans hx.2⟩
    · exact hx
  · have hcfg : w.state.cfg t = s.cfg t := by rw [hw]; rfl
    rw [hcfg]
    exact askNextFor_eq_nextRequest hx.1 hx.2 n w.sums t

section
variable {s : State} {a : Word} (ha : s.engine.active = some a)
include ha

/-- R142, R151: the magnitude of the target a train is moved toward, in its run mode. -/
theorem scheduled_eq (t : TrainId) : (s.scheduled t : Int) =
    match (s.run t).mode with
    | some .generate => max 0 ((s.slots.get (slotPos a)).targets.get t)
    | some .charge => max 0 (-(s.slots.get (slotPos a)).targets.get t)
    | none => 0 := by
  have htarget : s.target t = (s.slots.get (slotPos a)).targets.get t := by
    simp only [State.target, State.activeSlot, ha]
    rfl
  unfold State.scheduled
  rw [htarget]
  generalize (s.slots.get (slotPos a)).targets.get t = g
  rcases (s.run t).mode with _ | _ | _
  · rfl
  · simp only [inRunMode, decide_eq_true_eq]
    split <;> omega
  · simp only [inRunMode, decide_eq_true_eq]
    split <;> omega

end

/-- R151: whether a ramp step drops a train's share. -/
theorem dropsShare_iff (s : State) (t : TrainId) : s.dropsShare t = true ↔ (s.shares.get t).share ≠ 0 ∧
    ¬ (((s.run t).state = .running ∧ (s.run t).auto = true) ∧ s.reachable t = true) := by
  simp [State.dropsShare, ← autoRunning_iff, imp_iff_not_or]

/-! ### The ramp steps of an expiry -/

section
variable {s : State} {ms : Nat} (h : s.engine.ramp = some ms) (hg : s.gateOpen = true)

/-- The plant the ramp steps of an expiry begin with: the timer started again, shares dropped, held polls set aside. -/
def State.rampStart (s : State) : State := s.rampRestarted.dropShares.withPolls []

/-- The plant after the ramp steps of an expiry. -/
def State.rampEnd (s : State) : State := s.rampStart.configuredTrains.foldl State.rampTrain s.rampStart

theorem rampStart_frame (s : State) : s.rampStart =
    { s.rampRestarted with queue := s.rampStart.queue, slots := s.rampStart.slots, act := s.rampStart.act
                           shares := s.rampStart.shares } := by
  have hdropped := dropShares_frame s.rampRestarted
  unfold State.rampStart
  generalize s.rampRestarted.dropShares = d at hdropped ⊢
  rw [hdropped]
  rfl

include hg

theorem rampEnd_ramped : s.rampStart.Ramped (fun _ => True) s.rampEnd :=
  (foldl_rampTrain_ramped _ (by rw [rampStart_frame]; exact hg)).imp fun _ _ => trivial

include h

theorem expireRamp_end {a : Word} (ha : s.engine.active = some a) :
    s.expireRamp = { s.rampEnd with link := s.expireRamp.link, queue := s.expireRamp.queue } := by
  rw [expireRamp_open h hg ha]
  exact pollsLast_frame s.rampRestarted.dropShares fun x => x.configuredTrains.foldl State.rampTrain x

end

section
variable (s : State) (t : TrainId)

theorem rampStart_run : s.rampStart.run t = s.run t := by rw [rampStart_frame]; rfl
theorem rampStart_cfg : s.rampStart.cfg t = s.cfg t := by rw [rampStart_frame]; rfl

theorem rampStart_autoRunning : s.rampStart.autoRunning t = s.autoRunning t := by
  rw [State.autoRunning, rampStart_run]
  rfl

theorem rampStart_share : s.rampStart.shares.get t =
    if s.dropsShare t then (s.shares.get t).dropped else s.shares.get t := dropShares_share s.rampRestarted t

theorem moved_eq (m : Mode) (base : Nat) (share : Int) :
    moved m base share = if m = some .charge then (base : Int) - share else base + share := by
  rcases m with _ | _ | _ <;> rfl

variable {s} in
theorem rampStart_aim {a : Word} (ha : s.engine.active = some a) : (s.rampStart.rampAim t) =
    let g := (s.slots.get (slotPos a)).targets.get t
    let scheduled : Int := match (s.run t).mode with
      | some .generate => max 0 g
      | some .charge => max 0 (-g)
      | none => 0
    let share := (s.rampStart.shares.get t).share
    (if (s.run t).mode = some .charge then scheduled - share else scheduled + share).toNat := by
  have hactive : s.rampStart.engine.active = some a := by rw [rampStart_frame]; exact ha
  have htargets : (s.rampStart.slots.get (slotPos a)).targets = (s.slots.get (slotPos a)).targets :=
    dropShares_targets s.rampRestarted (slotPos a)
  unfold State.rampAim
  rw [moved_eq, scheduled_eq hactive t, htargets, rampStart_run]

end

/-- Settles O39: the time mark's and the idle expiries by their equations, the pre-reservation as a fold of NEXT requests
over the configured trains, the ramp steps train by train. -/
theorem engineTimersExpire : Obligations.EngineTimersExpire := by
  intro s
  refine ⟨fun ms h => congrArg Host.Outcome.next (expireMark_running h),
    fun h => congrArg Host.Outcome.next (expireMark_idle h),
    fun ms hpre hshut => congrArg Host.Outcome.next ((expirePre_running s hpre).trans (preReserve_shut s hshut)),
    fun a ha ms hpre hg hlt => ?_, fun hpre => congrArg Host.Outcome.next (expirePre_idle s hpre),
    fun h => congrArg Host.Outcome.next (expireRamp_idle s h),
    fun ms h hshut => congrArg Host.Outcome.next (expireRamp_shut h hshut),
    fun ms h a ha hg => ?_⟩
  · intro n s1 w record named ask
    have hn : slotAfter a 1 = n := slotAfter_of_lt hlt
    have hexec : exec .preReservationTimerExpiry s = .next s.preReserve :=
      congrArg Host.Outcome.next (expirePre_running s hpre)
    obtain ⟨w', hw', hasked⟩ := preReserve_asked ha
    rw [hn] at hasked
    refine ⟨fun hne => ?_, fun heq => ?_, s.preReserve, hexec, ?_, ?_, ?_, ?_, ?_, ?_⟩
    · rw [hexec, preReserve_other ha (by rw [hn]; exact hne)]
      rfl
    · rw [hexec, preReserve_asks ha hg (by rw [hn]; exact heq), hn]
      change Host.Outcome.next (w.state.configuredTrains.foldl (askNextFor n w.sums) w.state) = _
      exact congrArg Host.Outcome.next (askNextFor_foldl s n)
    · rw [hasked.frame, hw']
      rfl
    · rw [hasked.frame, hw']
      rfl
    · rw [hasked.frame, hw']
      rfl
    · rw [hasked.frame, hw']
      rfl
    · exact (tablesFrame s).preReserve (tablesKept_refl s)
    · obtain ⟨l, hl, hmem⟩ := hasked.added
      have hreservations : w'.reservations = s.reservations := by rw [hw']; rfl
      have hruns : w'.trains = s.trains := by rw [hw']; rfl
      refine ⟨l, hl.trans (by rw [hreservations]), fun r hr => ?_⟩
      obtain ⟨hphase, hslot, hconsumed, hrun, hauto⟩ := hmem r hr
      rw [run_of_trains hruns] at hrun hauto
      exact ⟨hphase, hslot, hconsumed, hrun, hauto⟩
  · have hend := expireRamp_end h hg ha
    have hramped := rampEnd_ramped hg
    have hstart := rampStart_frame s
    have hframe : s.expireRamp = { s.rampRestarted with
        link := s.expireRamp.link, queue := s.expireRamp.queue, slots := s.rampEnd.slots, act := s.rampEnd.act
        trains := s.rampEnd.trains, shares := s.rampEnd.shares } := by
      rw [hend, hramped.frame, hstart]
    refine ⟨s.expireRamp, rfl, by rw [hframe]; rfl, by rw [hframe]; rfl, by rw [hframe]; rfl, by rw [hframe]; rfl,
      (tablesFrame s).expireRamp (tablesKept_refl s), fun t => ?_⟩
    intro h' ramped dropped share unfinished target scheduled aim step now stepped seen
    have hrun : s.rampStart.run t = s.run t := rampStart_run s t
    have hcfg : s.rampStart.cfg t = s.cfg t := rampStart_cfg s t
    have hgate : s.rampStart.gateOpen = true := by rw [hstart]; exact hg
    have hshare : (s.rampStart.shares.get t).share = share ∧ (s.rampStart.shares.get t).unfinished = unfinished := by
      have hdropped : s.dropsShare t = true ↔ dropped := dropsShare_iff s t
      rw [rampStart_share]
      by_cases hd : dropped
      · rw [if_pos (hdropped.2 hd)]
        exact ⟨(if_pos hd).symm, (if_pos hd).symm⟩
      · rw [if_neg fun h => hd (hdropped.1 h)]
        exact ⟨(if_neg hd).symm, (if_neg hd).symm⟩
    have haim : s.rampStart.rampAim t = aim := by
      rw [rampStart_aim t ha, hshare.1] <;> rfl
    have htrain (v : TrainId) : s.expireRamp.train v = s.rampEnd.train v := by rw [hframe]; rfl
    have hurun : s.expireRamp.run t = s.rampEnd.run t := congrArg Train.run (htrain t)
    have hushares : s.expireRamp.shares = s.rampEnd.shares := by rw [hframe]
    have hauto : s.rampStart.autoRunning t = true ↔ ramped := by
      rw [rampStart_autoRunning]
      exact autoRunning_iff s t
    have hcap : (s.rampStart.foundBy s.rampEnd t).powerCap t = seen.powerCap t := by
      refine powerCap_congr (vector_ext_get fun v => ?_) (by rw [hstart]; rfl) (by rw [hstart]; rfl) t
      show (s.rampStart.foundBy s.rampEnd t).train v = seen.trains.get v
      have hseen : seen.trains.get v = if v < t then s.expireRamp.train v else s.train v :=
        foundBy_train s s.expireRamp t v
      rw [foundBy_train, hseen, htrain, show s.rampStart.train v = s.train v by rw [hstart]; rfl]
    refine ⟨?_, ?_, ?_, fun hr => ?_, fun hr => ?_⟩
    · exact (congrArg Train.cfg (htrain t)).trans ((hramped.cfg t).trans hcfg)
    · rw [hushares, hramped.share, hshare.1]
    · rw [hurun, hramped.run, hrun]
    · obtain ⟨hpower, hmark⟩ := rampTrains_moves (s := s.rampStart) (t := t) hgate (by rw [hcfg]; exact hr.1) (hauto.2 hr.2)
      rw [show s.rampStart.configuredTrains.foldl State.rampTrain s.rampStart = s.rampEnd from rfl] at hpower hmark
      rw [hcap, haim, hrun, hcfg, hshare.2, show s.rampStart.engine.step = s.part.rampStep by rw [hstart]; rfl] at hpower
      rw [haim, hshare.2] at hmark
      rw [hurun, hushares]
      exact ⟨hpower, hmark⟩
    · have hidle : (s.rampStart.cfg t).configured = false ∨ s.rampStart.autoRunning t = false := by
        rw [hcfg]
        exact hr.imp_right fun h => by simpa using fun ha => h (hauto.1 ha)
      obtain ⟨htrain', hshares'⟩ := rampTrains_leaves (s := s.rampStart) (t := t) hgate hidle
      change s.rampEnd.train t = _ at htrain'
      change s.rampEnd.shares.get t = _ at hshares'
      rw [hurun, hushares, hshares', hshare.2]
      refine ⟨?_, rfl⟩
      exact congrArg TrainRun.power ((congrArg Train.run htrain').trans hrun)

end Sys2Proof.Machine
end

section
/-! PROOF. The slot ring at a boundary (O38, R126, R130, R137, R144): the slot closed, the slot opened, gate closure ahead. -/

namespace Sys2Proof.Machine

/-! ### Positions in the ring (section 7.2) -/

theorem slotAfter_toNat {a : Word} {k : Nat} (h : a.toNat + k < 4294967296) : (slotAfter a k).toNat = a.toNat + k := by
  rw [slotAfter_of_lt h, BitVec.toNat_ofNat]
  exact Nat.mod_eq_of_lt h

theorem slotAfter_zero (a : Word) : slotAfter a 0 = a :=
  BitVec.eq_of_toNat_eq (slotAfter_toNat a.isLt)

theorem slotAfter_slotAfter {a : Word} {j k : Nat} (h : a.toNat + (j + k) < 4294967296) :
    slotAfter (slotAfter a j) k = slotAfter a (j + k) := by
  have hj := slotAfter_toNat (a := a) (k := j) (by omega)
  rw [slotAfter_of_lt (by omega), slotAfter_of_lt h, hj, Nat.add_assoc]

/-- Slots less than a ring apart share no position. -/
theorem slotPos_slotAfter_inj {a : Word} {j k : Nat} (hj : a.toNat + j < 4294967296) (hk : a.toNat + k < 4294967296)
    (hjring : j < 48) (hkring : k < 48) (h : slotPos (slotAfter a j) = slotPos (slotAfter a k)) : j = k := by
  have hval := congrArg Fin.val h
  simp only [slotPos, Fin.ofNat, slotAfter_toNat hj, slotAfter_toNat hk] at hval
  omega

/-! ### Records (R126) -/

section
variable (s : State) (n : Word)

theorem recordFor_number : (s.recordFor n).number = n := by
  unfold State.recordFor
  split
  · next h => exact h
  · rfl

theorem recordFor_congr {u : State} (h : u.slots.get (slotPos n) = s.slots.get (slotPos n)) :
    u.recordFor n = s.recordFor n := by
  unfold State.recordFor State.slotAt
  rw [h]

theorem recordFor_of_number {x : Slot} (h : s.slots.get (slotPos n) = x) (hn : x.number = n) : s.recordFor n = x := by
  subst h
  exact if_pos hn

theorem putSlot_get (x : Slot) (p : Fin 48) :
    (s.putSlot n x).slots.get p = if p = slotPos n then x else s.slots.get p := modAt_get _ _ _ _

theorem recordFor_putSlot {x : Slot} (hn : x.number = n) : (s.putSlot n x).recordFor n = x :=
  recordFor_of_number _ n ((putSlot_get s n x _).trans (if_pos rfl)) hn

end

/-! ### Gate closure (R130) -/

section
variable (s : State)

theorem passGate_frame (n : Word) : s.passGate n = { s with slots := (s.passGate n).slots } := by
  unfold State.passGate
  dsimp only
  split <;> rfl

theorem passGate_get_other {n : Word} {p : Fin 48} (h : p ≠ slotPos n) :
    (s.passGate n).slots.get p = s.slots.get p := by
  unfold State.passGate
  dsimp only
  split
  · rfl
  · rfl
  · rw [putSlot_get, if_neg h]

/-- A record of a position no other slot in question shares passes gate closure with its commitments. -/
theorem passGate_recordFor {n m : Word} (h : slotPos m = slotPos n → m = n) :
    ((s.passGate n).recordFor m).commits = (s.recordFor m).commits := by
  by_cases hp : slotPos m = slotPos n
  · cases h hp
    unfold State.passGate
    dsimp only
    split
    · rfl
    · rfl
    · rw [recordFor_putSlot]
      exact recordFor_number s n
  · rw [recordFor_congr _ _ (passGate_get_other s hp)]

/-- The slots a boundary into slot `n` makes pass gate closure. -/
theorem closeGateAhead_keeps {P : State → Prop} {n : Word} (hs : P s)
    (h : ∀ u k, k < s.part.gateLead → P u → P (u.passGate (slotAfter n (k + 1)))) : P (s.closeGateAhead n) :=
  List.foldlRecOn _ _ hs fun u hu k hk => h u k (List.mem_range.1 hk) hu

theorem closeGateAhead_frame (n : Word) : s.closeGateAhead n = { s with slots := (s.closeGateAhead n).slots } :=
  closeGateAhead_keeps (P := fun u => u = { s with slots := u.slots }) s rfl fun u k _ hu => by
    rw [passGate_frame, hu]

theorem closeGateAhead_get_other {n : Word} {p : Fin 48} (h : ∀ k, k < s.part.gateLead → p ≠ slotPos (slotAfter n (k + 1))) :
    (s.closeGateAhead n).slots.get p = s.slots.get p :=
  closeGateAhead_keeps (P := fun u => u.slots.get p = s.slots.get p) s rfl fun u k hk hu => by
    rw [passGate_get_other u (h k hk), hu]

theorem closeGateAhead_recordFor {n m : Word}
    (h : ∀ k, k < s.part.gateLead → slotPos m = slotPos (slotAfter n (k + 1)) → m = slotAfter n (k + 1)) :
    ((s.closeGateAhead n).recordFor m).commits = (s.recordFor m).commits :=
  closeGateAhead_keeps (P := fun u => (u.recordFor m).commits = (s.recordFor m).commits) s rfl fun u k hk hu => by
    rw [passGate_recordFor u (h k hk), hu]

/-! ### Closing (R138, R144, R145) -/

/-- A slot's record as it is closed. -/
def State.closedRecord (s : State) (n : Word) (missed : Bool) : Slot :=
  { s.recordFor n with
    state := .closed,
    flags := { (s.recordFor n).flags with
      missed := (s.recordFor n).flags.missed || missed,
      partialData := (s.recordFor n).flags.partialData || s.configuredTrains.any (s.closesPartial (s.recordFor n).bases) } }

theorem closeSlot_frame (n : Word) (missed : Bool) : s.closeSlot n missed =
    { s.putSlot n (s.closedRecord n missed) with
      history := addHistory s.history (s.settlementOf (s.closedRecord n missed) missed)
      link := (s.closeSlot n missed).link } := by
  unfold State.closeSlot State.publish
  dsimp only
  split
  · rw [emit_frame]
    rfl
  · rfl

theorem addHistory_getLast (l : List Settlement) (r : Settlement) : (addHistory l r).getLast? = some r := by
  unfold addHistory
  split <;> simp

theorem addHistory_length (l : List Settlement) (r : Settlement) (h : l.length ≤ 16) :
    (addHistory l r).length = min 16 (l.length + 1) := by
  unfold addHistory historyDepth
  split
  · rw [List.length_append, List.length_singleton]
    omega
  · rw [List.length_append, List.length_tail, List.length_singleton]
    omega

end

end Sys2Proof.Machine
end

section
/-! PROOF. The plant a boundary finds its new slot open in (O38, R136, R137, R145). -/

namespace Sys2Proof.Machine

/-! ### The steps of a boundary (R137) -/

section
variable (s : State) (a : Word)

/-- R137, steps 1 to 3, and the timers of step 4: slot `a` closed, the next one active, gate closure moved on. -/
def State.advanced : State :=
  let s1 := ((s.accumulate.closeSlot a false).activateSlot (slotAfter a 1)).closeGateAhead (slotAfter a 1)
  { s1 with engine := { s1.engine with boundary := some (seconds s1.part.slotLength), pre := preTimer s1.part 0 } }

/-- R137, steps 1 to 4: the plant with the slot after `a` open. -/
def State.opened : State := (s.advanced a).openSlot (slotAfter a 1)

variable {s a} (ha : s.engine.active = some a)
include ha

theorem expireBoundary_active {ms : Nat} (hb : s.engine.boundary = some ms) :
    s.expireBoundary = (s.opened a).afterOpening (slotAfter a 1) s.base := by
  unfold State.expireBoundary
  rw [hb, ha]
  rfl

theorem accumulate_get_other {p : Fin 48} (h : p ≠ slotPos a) : s.accumulate.slots.get p = s.slots.get p := by
  unfold State.accumulate
  rw [ha]
  show (s.modActive _).slots.get p = _
  unfold State.modActive
  rw [ha]
  exact upd_get_ne _ _ _ _ h

end

section
variable (s : State) (a : Word)

theorem accumulate_act_active : s.accumulate.act.active = s.act.active := by
  unfold State.accumulate
  split
  · rfl
  · rw [modActive_frame]
    rfl

/-- The plant before gate closure moves on. -/
def State.turned : State := (s.accumulate.closeSlot a false).activateSlot (slotAfter a 1)

theorem turned_eq : s.turned a =
    { (s.accumulate.putSlot a (s.accumulate.closedRecord a false)).putSlot (slotAfter a 1)
        { (s.accumulate.putSlot a (s.accumulate.closedRecord a false)).recordFor (slotAfter a 1) with state := .active } with
      engine := { s.engine with active := some (slotAfter a 1) }
      history := addHistory s.history (s.accumulate.settlementOf (s.accumulate.closedRecord a false) false)
      link := (s.turned a).link } := by
  have hclosed := closeSlot_frame s.accumulate a false
  have hadded := accumulate_frame s
  have hturned : s.turned a = (s.accumulate.closeSlot a false).activateSlot (slotAfter a 1) := rfl
  generalize s.turned a = u at hturned ⊢
  subst hturned
  rw [hclosed]
  generalize s.accumulate.closedRecord a false = x
  rw [hadded]
  rfl

theorem turned_part : (s.turned a).part = s.part := by
  rw [turned_eq, accumulate_frame]
  rfl

theorem advanced_eq : s.advanced a =
    { s with
      slots := ((s.turned a).closeGateAhead (slotAfter a 1)).slots
      act := s.accumulate.act
      engine := { s.engine with active := some (slotAfter a 1), boundary := some (s.part.slotLength * 1000), pre := preTimer s.part 0 }
      history := addHistory s.history (s.accumulate.settlementOf (s.accumulate.closedRecord a false) false)
      link := (s.advanced a).link } := by
  have hclosure := closeGateAhead_frame (s.turned a) (slotAfter a 1)
  have hadvanced : s.advanced a = { (s.turned a).closeGateAhead (slotAfter a 1) with
      engine := { ((s.turned a).closeGateAhead (slotAfter a 1)).engine with
        boundary := some (seconds ((s.turned a).closeGateAhead (slotAfter a 1)).part.slotLength)
        pre := preTimer ((s.turned a).closeGateAhead (slotAfter a 1)).part 0 } } := rfl
  generalize s.advanced a = u at hadvanced ⊢
  subst hadvanced
  rw [hclosure]
  generalize ((s.turned a).closeGateAhead (slotAfter a 1)).slots = v
  rw [turned_eq]
  rw [accumulate_frame]
  rfl

end

/-! ### The ring as the new slot opens -/

section
variable {s : State} {a : Word} (ha : s.engine.active = some a) (hlead : s.part.gateLead ≤ 12)
  (hfits : a.toNat + 1 + s.part.gateLead < 4294967296)
include ha hlead hfits

omit ha in
theorem slotPos_window {j k : Nat} (hj : j ≤ 1 + s.part.gateLead) (hk : k ≤ 1 + s.part.gateLead)
    (h : slotPos (slotAfter a j) = slotPos (slotAfter a k)) : j = k :=
  slotPos_slotAfter_inj (by omega) (by omega) (by omega) (by omega) h

omit ha in
theorem slotPos_next_ne : slotPos (slotAfter a 1) ≠ slotPos a := fun h => by
  have := slotPos_window (j := 1) (k := 0) hlead hfits (by omega) (by omega) (by rwa [slotAfter_zero])
  omega

omit ha in
theorem advanced_get_closed : (s.advanced a).slots.get (slotPos a) = s.accumulate.closedRecord a false := by
  rw [advanced_eq]
  show ((s.turned a).closeGateAhead (slotAfter a 1)).slots.get (slotPos a) = _
  rw [closeGateAhead_get_other]
  · rw [turned_eq]
    show (State.putSlot _ _ _).slots.get _ = _
    rw [putSlot_get, if_neg (slotPos_next_ne hlead hfits).symm, putSlot_get, if_pos rfl]
  · intro k hk h
    rw [turned_part] at hk
    rw [slotAfter_slotAfter (by omega)] at h
    have := slotPos_window (j := 0) (k := 1 + (k + 1)) hlead hfits (by omega) (by omega) (by rwa [slotAfter_zero])
    omega

/-- A record of another position than the closed slot's, before gate closure moves on. -/
theorem turned_recordFor_next : (s.accumulate.putSlot a (s.accumulate.closedRecord a false)).recordFor (slotAfter a 1) =
    s.recordFor (slotAfter a 1) := by
  refine recordFor_congr _ _ ?_
  rw [putSlot_get, if_neg (slotPos_next_ne hlead hfits), accumulate_get_other ha (slotPos_next_ne hlead hfits)]

theorem advanced_get_active :
    (s.advanced a).slots.get (slotPos (slotAfter a 1)) = { s.recordFor (slotAfter a 1) with state := .active } := by
  rw [advanced_eq]
  show ((s.turned a).closeGateAhead (slotAfter a 1)).slots.get _ = _
  rw [closeGateAhead_get_other]
  · rw [turned_eq]
    show (State.putSlot _ _ _).slots.get _ = _
    rw [putSlot_get, if_pos rfl, turned_recordFor_next ha hlead hfits]
  · intro k hk h
    rw [turned_part] at hk
    rw [slotAfter_slotAfter (by omega)] at h
    have := slotPos_window (j := 1) (k := 1 + (k + 1)) hlead hfits (by omega) (by omega) h
    omega

theorem advanced_recordFor {k : Nat} (hk : k ≤ s.part.gateLead) :
    ((s.advanced a).recordFor (slotAfter a (1 + k))).commits = (s.recordFor (slotAfter a (1 + k))).commits := by
  have hrecords : (s.advanced a).recordFor (slotAfter a (1 + k)) =
      ((s.turned a).closeGateAhead (slotAfter a 1)).recordFor (slotAfter a (1 + k)) := by
    refine recordFor_congr _ _ ?_
    rw [advanced_eq]
  rw [hrecords, closeGateAhead_recordFor]
  · by_cases hnext : k = 0
    · subst hnext
      have hturned : (s.turned a).slots.get (slotPos (slotAfter a (1 + 0))) =
          { s.recordFor (slotAfter a 1) with state := .active } := by
        rw [turned_eq]
        show (State.putSlot _ _ _).slots.get _ = _
        rw [putSlot_get, if_pos rfl, turned_recordFor_next ha hlead hfits]
      rw [recordFor_of_number _ _ hturned (recordFor_number s _)]
    · have hbefore : slotPos (slotAfter a (1 + k)) ≠ slotPos a := fun h => by
        have := slotPos_window (j := 1 + k) (k := 0) hlead hfits (by omega) (by omega) (by rwa [slotAfter_zero])
        omega
      have hother : slotPos (slotAfter a (1 + k)) ≠ slotPos (slotAfter a 1) := fun h => by
        have := slotPos_window (j := 1 + k) (k := 1) hlead hfits (by omega) (by omega) h
        omega
      refine congrArg Slot.commits (recordFor_congr _ _ ?_)
      rw [turned_eq]
      show (State.putSlot _ _ _).slots.get _ = _
      rw [putSlot_get, if_neg hother, putSlot_get, if_neg hbefore, accumulate_get_other ha hbefore]
  · intro j hj h
    rw [turned_part] at hj
    rw [slotAfter_slotAfter (by omega)] at h ⊢
    rw [slotPos_window hlead hfits (by omega) (by omega) h]

end

/-! ### The opening (R136, R137 step 4, R145) -/

section
variable (s : State)

theorem takeBases_run (t : TrainId) : ∃ g c, s.takeBases.run t = { s.run t with slotGen := g, slotChg := c } := by
  refine foldl_keeps (P := fun u : State => ∃ g c, u.run t = { s.run t with slotGen := g, slotChg := c })
    (f := fun u v => u.modRun v TrainRun.slotStart) (fun u v ⟨g, c, h⟩ => ?_) _ _ ⟨_, _, rfl⟩
  rw [State.run_modRun]
  split
  · next e =>
    rw [e] at h
    exact ⟨(u.run v).report.gen.getD 0, (u.run v).report.chg.getD 0, by rw [e, TrainRun.slotStart, h]⟩
  · exact ⟨g, c, h⟩

theorem takeBases_cfg (t : TrainId) : s.takeBases.cfg t = s.cfg t :=
  foldl_keeps (P := fun u : State => u.cfg t = s.cfg t) (f := fun u v => u.modRun v TrainRun.slotStart)
    (fun u v h => (State.cfg_modRun u v t _).trans h) _ _ rfl

theorem takeBases_frame : s.takeBases = { s with trains := s.takeBases.trains } :=
  foldl_keeps (P := fun u : State => u = { s with trains := u.trains }) (f := fun u v => u.modRun v TrainRun.slotStart)
    (fun u v h => by rw [modRun_frame, h]) _ _ rfl

/-- What a boundary's opening leaves of the plant it finds. -/
structure State.Opened (s : State) (n : Word) (u : State) : Prop where
  frame   : u = { s with cache := (s.workTargets n).state.cache, lru := (s.workTargets n).state.lru, slots := u.slots,
                         link := u.link, faults := u.faults, tiers := u.tiers, trains := u.trains, act := u.act }
  act     : u.act.active = s.act.active
  cfg     : ∀ t, u.cfg t = s.cfg t
  run     : ∀ t, ∃ g c, u.run t = { s.run t with slotGen := g, slotChg := c }
  others  : ∀ p, p ≠ slotPos n → u.slots.get p = s.slots.get p
  active  : ∃ b f, u.slots.get (slotPos n) = { s.slots.get (slotPos n) with
    targets := (s.workTargets n).sums, bases := b, flags := { (s.slots.get (slotPos n)).flags with partialData := f } }

theorem foldl_raise_frame {α : Type} (f : α → FaultInfo) (l : List α) : l.foldl (fun s x => s.raise (f x)) s =
    { s with link := (l.foldl (fun s x => s.raise (f x)) s).link, faults := (l.foldl (fun s x => s.raise (f x)) s).faults
             tiers := (l.foldl (fun s x => s.raise (f x)) s).tiers } :=
  foldl_keeps (P := fun u : State => u = { s with link := u.link, faults := u.faults, tiers := u.tiers })
    (f := fun s x => s.raise (f x)) (fun u x h => by rw [raise_frame, h]) l s rfl

theorem modActive_of_active {n : Word} (h : s.engine.active = some n) (f : Slot → Slot) :
    s.modActive f = s.modSlotAt (slotPos n) f := by
  unfold State.modActive
  rw [h]

theorem openSlot_opened {n : Word} (h : s.engine.active = some n) : s.Opened n (s.openSlot n) := by
  have hw : (s.workTargets n).state.recachedOf s := workTargets_recached s n
  have hopen : ∃ x : State, (x = { s with
        cache := (s.workTargets n).state.cache, lru := (s.workTargets n).state.lru
        slots := modAt s.slots (slotPos n) fun r => { r with targets := (s.workTargets n).sums }
        link := x.link, faults := x.faults, tiers := x.tiers }) ∧ ∃ b f, s.openSlot n =
      ({ x with trains := x.takeBases.trains }.modSlotAt (slotPos n) fun r =>
        { r with bases := b, flags := { r.flags with partialData := r.flags.partialData || f } }).modAct
          fun a => { a with since := 0 } := by
    unfold State.openSlot
    extract_lets w s1 s2 s3
    have hs1 : s1 = { s with
        cache := (s.workTargets n).state.cache, lru := (s.workTargets n).state.lru
        slots := modAt s.slots (slotPos n) fun r => { r with targets := (s.workTargets n).sums } } := by
      have hactive : w.state.engine.active = some n := (congrArg (fun y : State => y.engine.active) hw).trans h
      exact (modActive_of_active _ hactive _).trans (congrArg (fun y : State => y.modSlotAt (slotPos n) _) hw)
    have hs2 : s2 = { s1 with link := s2.link, faults := s2.faults, tiers := s2.tiers } :=
      foldl_raise_frame s1 (dispatchFault n) w.failed
    rw [hs1] at hs2
    refine ⟨s2, hs2, s2.counterBases, s2.configuredTrains.any fun t => (s2.run t).state == .unknown, ?_⟩
    have hactive : s2.takeBases.engine.active = some n := by
      rw [takeBases_frame, hs2]
      exact h
    show (State.modActive _ _).modAct _ = _
    rw [modActive_of_active _ hactive]
    congr 2
    exact takeBases_frame s2
  obtain ⟨x, hx, b, f, hu⟩ := hopen
  generalize s.openSlot n = u at hu
  subst hu
  have hrun (t : TrainId) : x.run t = s.run t := run_of_trains (by rw [hx]) t
  have hcfg (t : TrainId) : x.cfg t = s.cfg t := cfg_of_trains (by rw [hx]) t
  have hslots : x.slots = modAt s.slots (slotPos n) fun r => { r with targets := (s.workTargets n).sums } := by rw [hx]
  refine ⟨?_, ?_, fun t => ?_, fun t => ?_, fun p hp => ?_, b, (s.slots.get (slotPos n)).flags.partialData || f, ?_⟩
  · rw [hx]
    rfl
  · rw [hx]
    rfl
  · exact (takeBases_cfg x t).trans (hcfg t)
  · rw [← hrun]
    exact takeBases_run x t
  · show (modAt x.slots _ _).get p = _
    rw [hslots, modAt_get, if_neg hp, modAt_get, if_neg hp]
  · show (modAt x.slots _ _).get _ = _
    rw [hslots, modAt_get_same, modAt_get_same]

end

end Sys2Proof.Machine
end

section
/-! PROOF. The requests a newly opened slot makes of a train: stop, start, roll (O38, R58, R121, R139, R140). -/

namespace Sys2Proof.Machine

/-! ### A stop (R58) -/

theorem enter_slots (s : State) (t : TrainId) {new : TrainState} (h : new ≠ .unknown) :
    (s.enter t new).slots = s.slots := by
  have hmark (u : State) (c : Bool) : u.markPartial new c = u := if_neg fun hu => h hu.1
  rw [enter_stages, hmark, leaveRunning_frame, leaveClaim_frame, leaveHeat_frame]
  rfl

/-- What a stop of a RUNNING train without a cause changes. -/
theorem requestStopNow_running {s : State} {t : TrainId} (h : (s.run t).state = .running) :
    ∃ l q, (s.requestStopNow t none {}).1 = { s with
      link := l, queue := q
      trains := trainsMod s.trains t fun r => r.stopped (s.cfg t).stopTimeout
      reservations := s.reservations.filter fun r => r.train != t } := by
  have hstoppable : (s.run t).state.stoppable := .inr (.inr h)
  have htrains := beginStop_trains s t none
  have hreservations := beginStop_releases hstoppable none
  have hstop : ∃ l q v r, (s.beginStop t none).1 =
      { s with link := l, queue := q, trains := v, reservations := r } := by
    unfold State.beginStop
    dsimp only
    rw [settle_frame, placeCommand_frame _ t _ _ _ rfl, startTimer_frame, enter_frame, enter_slots s t (by decide),
      if_neg (c := ((s.run t).state.holdsClaim && !TrainState.stopping.holdsClaim) = true) (by simp)]
    exact ⟨_, _, _, _, rfl⟩
  obtain ⟨l, q, v, r, hu⟩ := hstop
  rw [requestStopNow_silent hstoppable]
  rw [hu] at htrains hreservations ⊢
  exact ⟨l, q, by rw [← htrains, ← hreservations]⟩

/-! ### A roll (R121) -/

theorem rollAsk_frame (s : State) (t : TrainId) (m : RunMode) (n : Word) (g : Int) : s.rollAsk t m n g =
    { s with reservations := (s.rollAsk t m n g).reservations, stopRequests := (s.rollAsk t m n g).stopRequests } := by
  unfold State.rollAsk
  split
  · next u hu =>
    obtain ⟨l, rfl, -⟩ := grantHeat_adds hu
    rfl
  · rfl

theorem rollHeat_frame (s : State) (t : TrainId) (n : Word) (g : Int) : s.rollHeat t n g =
    { s with reservations := (s.rollHeat t n g).reservations, stopRequests := (s.rollHeat t n g).stopRequests } := by
  unfold State.rollHeat
  split
  · rfl
  · split
    · split
      · rfl
      · dsimp only
        split
        · rfl
        · exact rollAsk_frame _ _ _ _ _
    · split
      · rfl
      · exact rollAsk_frame _ _ _ _ _

/-! ### A start toward a slot's target (R53, R54, R140) -/

section
variable (s : State) (t : TrainId) (m : RunMode)

/-- What an accepted START changes beside the claim and the reservation. -/
theorem startAccepted_begins (q : Request) : ∃ l v, (s.startAccepted t m q).1 =
    { s with link := l, queue := v, trains := trainsMod s.trains t fun r => r.begun (s.cfg t) m } := by
  have htrains := startAccepted_trains s t m q
  obtain ⟨hcaverns, hreservations⟩ := startAccepted_holdings s t m q
  have hpoised {new : TrainState} (hnew : new ≠ .unknown) (k : TrainTimer) (n : Nat) : ∃ v w c r,
      s.poised t m new k n = { s with queue := v, trains := w, caverns := c, reservations := r } := by
    rw [State.poised, startTimer_frame, enter_frame, enter_slots _ t hnew]
    exact ⟨_, _, _, _, rfl⟩
  have hframe : ∃ l v w c r, (s.startAccepted t m q).1 =
      { s with link := l, queue := v, trains := w, caverns := c, reservations := r } := by
    by_cases h : (s.run t).engaged = some m
    · obtain ⟨v, w, c, r, hp⟩ := hpoised (new := .starting) (by decide) .start (s.cfg t).startTimeout
      rw [startAccepted_engaged s t m q h, settle_frame, placeCommand_frame _ t _ _ _ rfl, hp]
      exact ⟨_, _, _, _, _, rfl⟩
    · obtain ⟨v, w, c, r, hp⟩ := hpoised (new := .engaging) (by decide) .engage (s.cfg t).engageTimeout
      rw [startAccepted_disengaged s t m q h, settle_frame, placeCommand_frame _ t _ _ _ rfl, hp]
      exact ⟨_, _, _, _, _, rfl⟩
  obtain ⟨l, v, w, c, r, hu⟩ := hframe
  rw [hu] at htrains hcaverns hreservations ⊢
  exact ⟨l, v, by rw [← htrains, ← hcaverns, ← hreservations]⟩

/-- The first check before the heat account unit's that a START of origin SCHEDULE fails for a train at STANDSTILL. -/
def State.scheduleBar : Option Cause :=
  if (s.cfg t).kind.allows m = false then some Cause.modeMismatch
  else if s.reachable t = false then some Cause.trainUnreachable
  else if s.ptrip = true then some Cause.tripLineActive
  else if s.permitsStart (s.cfg t).cavern m = false then some Cause.envelopeStart
  else if (s.cavern (s.cfg t).cavern).run.direction ≠ none ∧ (s.cavern (s.cfg t).cavern).run.direction ≠ some m then
    some Cause.directionConflict
  else none

/-- What a START toward a target `g` in slot `n` asks of the heat account unit. -/
def State.slotAsk (n : Word) (g : Int) : HeatAsk :=
  { train := t, mode := m, phase := .current, slot := some n, basis := s.energyBasis t (some g) }

variable {s t} (hst : (s.run t).state = .standstill) (hg : s.gateOpen = true)
include hst hg

theorem scheduleChecks (n : Word) (g : Int) : ∃ l, s.startChecks t m { schedule := some (n, some g) } =
    match s.scheduleBar t m with
    | some c => .error c
    | none => (s.grantHeat (s.slotAsk t m n g)).map fun u => u.withClaims (claimed s.caverns (s.cfg t).cavern t m) l := by
  unfold State.scheduleBar State.startChecks
  simp only [hst, hg, ne_eq, not_true_eq_false, if_false, Option.isSome_some, Bool.true_and, Bool.not_true,
    Bool.not_eq_true', Bool.false_eq_true]
  split
  · exact ⟨[], rfl⟩
  split
  · exact ⟨[], rfl⟩
  split
  · exact ⟨[], rfl⟩
  split
  · exact ⟨[], rfl⟩
  by_cases h : (s.cavern (s.cfg t).cavern).run.direction = none ∨ (s.cavern (s.cfg t).cavern).run.direction = some m
  · obtain ⟨l, hclaim⟩ : ∃ l, s.claim t m = some (s.withClaims (claimed s.caverns (s.cfg t).cavern t m) l) :=
      claim_granted s t m h
    rw [if_neg (by simpa only [not_and, ← or_iff_not_imp_left, not_not] using h), hclaim]
    exact ⟨l, grantHeat_withClaims _ _ _⟩
  · obtain ⟨hnone, hother⟩ := not_or.1 h
    obtain ⟨d, hd⟩ := Option.ne_none_iff_exists'.1 hnone
    rw [if_pos ⟨hnone, hother⟩, claim_refused s t m hd fun hdm => hother (by rw [hd, hdm])]
    exact ⟨[], rfl⟩

/-- The cause that refuses a START toward a target `g` in slot `n`, if one does. -/
def State.startCause (s : State) (t : TrainId) (m : RunMode) (n : Word) (g : Int) : Option Cause :=
  (s.scheduleBar t m).or (s.heatBar (s.slotAsk t m n g))

theorem startToward_refused {n : Word} {g : Int} {c : Cause} (h : s.startCause t (signMode g) n g = some c) :
    s.startToward t n g = s.seqRaise t { cause := c } := by
  obtain ⟨l, hchecks⟩ := scheduleChecks (signMode g) hst hg n g
  have hrefused : s.startChecks t (signMode g) { schedule := some (n, some g) } = .error c := by
    rw [hchecks]
    unfold State.startCause at h
    split
    · next hbar =>
      rw [hbar] at h
      cases h
      rfl
    · next hbar =>
      rw [hbar] at h
      rw [heatBar_some h]
      rfl
  unfold State.startToward State.requestStart
  rw [hrefused]
  rfl

/-- An accepted START: the train begun, its claim, and the reservations as granted. -/
theorem startToward_accepted {n : Word} {g : Int} (h : s.startCause t (signMode g) n g = none) : ∃ y l v k,
    s.grantHeat (s.slotAsk t (signMode g) n g) = .ok y ∧ s.startToward t n g = { s with
      link := l, queue := v, stopRequests := k
      trains := trainsMod s.trains t fun r => r.begun (s.cfg t) (signMode g)
      caverns := claimed s.caverns (s.cfg t).cavern t (signMode g)
      reservations := y.reservations } := by
  obtain ⟨k, hchecks⟩ := scheduleChecks (signMode g) hst hg n g
  obtain ⟨hbar, hheat⟩ := Option.or_eq_none_iff.1 h
  rw [hbar] at hchecks
  unfold State.heatBar at hheat
  split at hheat
  · cases hheat
  · next y hy =>
    obtain ⟨r, rfl⟩ := grantHeat_frame hy
    rw [hy] at hchecks
    unfold State.startToward State.requestStart
    rw [hchecks]
    obtain ⟨l, v, hu⟩ := startAccepted_begins
      (State.withClaims { s with reservations := r } (claimed s.caverns (s.cfg t).cavern t (signMode g)) k) t (signMode g)
      { schedule := some (n, some g) }
    exact ⟨_, l, v, k, hy, hu⟩

end

end Sys2Proof.Machine
end

section
/-! PROOF. Targets worked out where a slot opens and ahead of it (O38, R136, R139, R140). -/

namespace Sys2Proof.Machine

/-! ### States that translate alike (R30, R35) -/

/-- Two states that resolve every reference alike. -/
structure State.translatesAs (u s : State) : Prop where
  cache     : u.cache = s.cache
  lru       : u.lru = s.lru
  positions : u.positions = s.positions
  duties    : u.duties = s.duties
  cfg       : ∀ t, u.cfg t = s.cfg t

section
variable {u s : State} (h : u.translatesAs s)
include h

theorem walkDuty_congr (d : DutyId) : walkDuty u d = walkDuty s d := by
  unfold walkDuty
  simp only [h.duties, h.cfg]

theorem walk_congr (b : Bool) (n : Nat) : walk u b n = walk s b n := by
  unfold walk walkFromPosition walkFromDuty
  simp only [h.positions, walkDuty_congr h]

theorem lookup_congr (b : Bool) (n : Nat) :
    (u.lookup b n).2 = (s.lookup b n).2 ∧ (u.lookup b n).1.translatesAs (s.lookup b n).1 := by
  obtain ⟨hcache, hlru, hpositions, hduties, hcfg⟩ := h
  have hwalk : walk u b n = walk s b n := walk_congr ⟨hcache, hlru, hpositions, hduties, hcfg⟩ b n
  have hfind : cacheFind u b n = cacheFind s b n := by simp only [cacheFind, hcache]
  have hfill : fillWay u (cacheSet n) = fillWay s (cacheSet n) := by simp only [fillWay, hcache, hlru]
  unfold State.lookup
  dsimp only
  rw [hfind, hwalk, hfill, hcache, hlru]
  split
  · next w _ =>
    rw [hcfg]
    split <;> exact ⟨rfl, rfl, rfl, hpositions, hduties, hcfg⟩
  · split
    · exact ⟨rfl, hcache, hlru, hpositions, hduties, hcfg⟩
    · exact ⟨rfl, rfl, rfl, hpositions, hduties, hcfg⟩

end

/-! ### Contributions, train by train (R136) -/

/-- The state and the contributions so far, and a commitment resolved after them. -/
def resolveOne (x : State × List (TrainId × Int)) (c : Commit) : State × List (TrainId × Int) :=
  let r := x.1.lookup true c.position.val
  match r.2 with
  | .ok y =>
    let l : Int := y.limit.getD c.power.natAbs
    if (0 < c.power → y.allow.getLsbD 0 = true) ∧ (c.power < 0 → y.allow.getLsbD 1 = true) then
      (r.1, x.2 ++ [(y.train, max (-l) (min l c.power))])
    else (r.1, x.2)
  | .error _ => (r.1, x.2)

/-- The sum of the contributions to a train. -/
def sumFor (l : List (TrainId × Int)) (t : TrainId) : Int := ((l.filter fun y => y.1 == t).map fun y => y.2).sum

/-- The sums of the contributions, train by train. -/
def sumsOf (l : List (TrainId × Int)) : Vector Int 6 := Vector.ofFn (sumFor l)

theorem sumsOf_get (l : List (TrainId × Int)) (t : TrainId) : (sumsOf l).get t = sumFor l t := ofFn_get _ t

theorem sumsOf_nil : sumsOf [] = Vector.replicate 6 0 := vector_ext_get fun t => by
  rw [sumsOf_get]
  simp [sumFor, Vector.get]

theorem sumsOf_append (l : List (TrainId × Int)) (t : TrainId) (v : Int) :
    sumsOf (l ++ [(t, v)]) = modAt (sumsOf l) t fun x => x + v := vector_ext_get fun u => by
  rw [sumsOf_get, modAt_get, sumsOf_get]
  by_cases h : u = t
  · subst h
    simp [sumFor]
  · rw [if_neg h, sumsOf_get]
    simp [sumFor, Ne.symm h]

theorem contribution_eq (p : Int) (limit : Option Nat) :
    contribution p limit = max (-(limit.getD p.natAbs : Int)) (min (limit.getD p.natAbs : Int) p) := by
  cases limit with
  | none =>
    simp only [contribution, Option.getD_none]
    omega
  | some l =>
    rw [min_comm]
    exact clampInt_eq (show -(l : Int) ≤ l by omega) p

/-- The direction a power needs stands in an allow set. -/
theorem powerNeed_allowed (p : Int) (allow : AllowSet) :
    ((0 < p → allow.getLsbD 0 = true) ∧ (p < 0 → allow.getLsbD 1 = true)) ↔
      ∀ m, powerNeed p = some m → allow.getLsbD m = true := by
  unfold powerNeed
  rcases lt_trichotomy p 0 with h | h | h
  · simp [h, not_lt.2 h.le]
  · simp [h]
  · simp [h, not_lt.2 h.le]

/-- R136: a commitment resolved in the direction it needs. -/
theorem resolveCommit_ok {s u : State} {c : Commit} {need : Option Nat} {r : Resolution}
    (h : s.lookup true c.position.val = (u, .ok r)) : s.resolveCommit c need =
      if ∀ m, need = some m → r.allow.getLsbD m = true then (u, .ok r)
      else (u, .error { cause := Cause.positionDenied, duty := r.duty, train := some r.train }) := by
  unfold State.resolveCommit
  rw [h]
  cases need with
  | none => simp
  | some m => simp

theorem resolveCommit_error {s u : State} {c : Commit} {need : Option Nat} {f : Failure}
    (h : s.lookup true c.position.val = (u, .error f)) : s.resolveCommit c need = (u, .error f) := by
  unfold State.resolveCommit
  rw [h]

/-- Targets worked out by the model, and the contributions they are the sums of. -/
structure TargetWork.sumsUp (w : TargetWork) (x : State × List (TrainId × Int)) : Prop where
  state : w.state.translatesAs x.1
  sums  : w.sums = sumsOf x.2

theorem TargetWork.sumsUp.targetOne {w : TargetWork} {x : State × List (TrainId × Int)} (h : w.sumsUp x) (c : Commit) :
    (targetOne w c).sumsUp (resolveOne x c) := by
  obtain ⟨hresult, hstate⟩ := lookup_congr h.state true c.position.val
  rcases hlookup : w.state.lookup true c.position.val with ⟨u, r⟩
  rcases hlookup' : x.1.lookup true c.position.val with ⟨u', r'⟩
  rw [hlookup, hlookup'] at hresult hstate
  obtain rfl : r = r' := hresult
  unfold Machine.targetOne resolveOne
  rw [hlookup']
  cases r with
  | error f =>
    rw [resolveCommit_error hlookup]
    exact ⟨hstate, h.sums⟩
  | ok r =>
    rw [resolveCommit_ok hlookup]
    dsimp only
    by_cases hallowed : ∀ m, powerNeed c.power = some m → r.allow.getLsbD m = true
    · rw [if_pos hallowed, if_pos ((powerNeed_allowed _ _).2 hallowed)]
      refine ⟨hstate, ?_⟩
      show _ = sumsOf (x.2 ++ [(r.train, _)])
      rw [sumsOf_append, ← h.sums, ← contribution_eq]
    · rw [if_neg hallowed, if_neg fun ha => hallowed ((powerNeed_allowed _ _).1 ha)]
      exact ⟨hstate, h.sums⟩

/-- The contributions of a slot, resolved from a state `x`, its commitments as `s` holds them. -/
def State.contributions (s x : State) (k : Word) : State × List (TrainId × Int) :=
  (s.recordFor k).commits.foldl resolveOne (x, [])

theorem workTargets_sumsUp {s u x : State} {k : Word} (h : u.translatesAs x)
    (hcommits : (u.recordFor k).commits = (s.recordFor k).commits) : (u.workTargets k).sumsUp (s.contributions x k) := by
  have hfold (l : List Commit) : ∀ (w : TargetWork) (y : State × List (TrainId × Int)), w.sumsUp y →
      (l.foldl targetOne w).sumsUp (l.foldl resolveOne y) := by
    induction l with
    | nil => exact fun _ _ hw => hw
    | cons c l ih => exact fun w y hw => ih _ _ (hw.targetOne c)
  unfold State.workTargets State.contributions
  rw [hcommits]
  exact hfold _ _ _ ⟨h, sumsOf_nil.symm⟩

/-! ### The slots ahead (R139, R140) -/

theorem searchOn_recached (n : Word) (p : Vector Int 6 → Bool) : ∀ (m : Nat) (x : Opening),
    (searchOn n p m x).1.1.recachedOf x.1 := by
  intro m
  induction m with
  | zero => exact fun _ => rfl
  | succ m ih =>
    intro x
    unfold searchOn
    dsimp only
    split
    · exact workTargets_recached _ _
    · exact recachedOf_trans (ih _) (workTargets_recached _ _)

/-- R139, R140: a search changes the translation cache alone. -/
theorem searchAhead_recached (n : Word) (x : Opening) (p : Vector Int 6 → Bool) :
    (searchAhead n x p).1.1.recachedOf x.1 := by
  unfold searchAhead
  split
  · rfl
  · exact searchOn_recached n p _ x

section
variable (s : State) (n : Word) (o : State)

/-- The slots ahead worked out so far, and one more after them. -/
def State.aheadStep (x : State × List (Word × List (TrainId × Int))) (k : Nat) :
    State × List (Word × List (TrainId × Int)) :=
  let w := s.contributions x.1 (BitVec.ofNat 32 (n.toNat + k + 1))
  (w.1, x.2 ++ [(BitVec.ofNat 32 (n.toNat + k + 1), w.2)])

/-- The first `j` slots after `n` worked out from a state `o`. -/
def State.aheadUpTo (j : Nat) : State × List (Word × List (TrainId × Int)) := (List.range j).foldl (s.aheadStep n) (o, [])

/-- The `k`-th slot ahead with its contributions. -/
def State.aheadEntry (k : Nat) : Word × List (TrainId × Int) :=
  (BitVec.ofNat 32 (n.toNat + k + 1), (s.contributions (s.aheadUpTo n o k).1 (BitVec.ofNat 32 (n.toNat + k + 1))).2)

theorem aheadUpTo_succ (j : Nat) : s.aheadUpTo n o (j + 1) = s.aheadStep n (s.aheadUpTo n o j) j := by
  unfold State.aheadUpTo
  rw [List.range_succ, List.foldl_append]
  rfl

theorem aheadUpTo_list (j : Nat) : (s.aheadUpTo n o j).2 = (List.range j).map (s.aheadEntry n o) := by
  induction j with
  | zero => rfl
  | succ j ih =>
    rw [aheadUpTo_succ, List.range_succ, List.map_append, ← ih]
    rfl

/-- The targets of the `k`-th slot ahead with its number. -/
def State.aheadSums (k : Nat) : Word × Vector Int 6 := ((s.aheadEntry n o k).1, sumsOf (s.aheadEntry n o k).2)

/-- An opening that has worked out the first slots ahead, in the state that leaves. -/
structure State.WorkedAhead (x : Opening) (j : Nat) : Prop where
  within  : j ≤ s.part.ahead
  state   : x.1.translatesAs (s.aheadUpTo n o j).1
  list    : x.2 = (List.range j).map (s.aheadSums n o)
  part    : x.1.part = s.part
  commits : ∀ k < s.part.ahead, (x.1.recordFor (BitVec.ofNat 32 (n.toNat + k + 1))).commits =
    (s.recordFor (BitVec.ofNat 32 (n.toNat + k + 1))).commits

variable {s n o} {x : Opening}

theorem translatesAs_trans {u v w : State} (h : u.translatesAs v) (h' : v.translatesAs w) : u.translatesAs w :=
  ⟨h.cache.trans h'.cache, h.lru.trans h'.lru, h.positions.trans h'.positions, h.duties.trans h'.duties,
    fun t => (h.cfg t).trans (h'.cfg t)⟩

/-- What a later state needs to go on with the targets ahead. -/
theorem State.WorkedAhead.of_handled {j : Nat} (h : s.WorkedAhead n o x j) {u : State} (hu : u.translatesAs x.1)
    (hpart : u.part = x.1.part) (hcommits : ∀ k, (u.recordFor k).commits = (x.1.recordFor k).commits) :
    s.WorkedAhead n o (u, x.2) j :=
  ⟨h.within, translatesAs_trans hu h.state, h.list, hpart.trans h.part, fun k hk => (hcommits _).trans (h.commits k hk)⟩

variable (hfits : n.toNat + s.part.ahead < 4294967296)
include hfits

/-- One more slot ahead worked out. -/
theorem State.WorkedAhead.next {j : Nat} (h : s.WorkedAhead n o x j) (hj : j < s.part.ahead) :
    let w := x.1.workTargets (slotAfter n (j + 1))
    (slotAfter n (j + 1), w.sums) = s.aheadSums n o j ∧
      s.WorkedAhead n o (w.state, x.2 ++ [(slotAfter n (j + 1), w.sums)]) (j + 1) := by
  intro w
  have hslot : slotAfter n (j + 1) = BitVec.ofNat 32 (n.toNat + j + 1) := slotAfter_of_lt (by omega)
  have hworked : w.sumsUp (s.contributions (s.aheadUpTo n o j).1 (slotAfter n (j + 1))) :=
    workTargets_sumsUp h.state (by rw [hslot]; exact h.commits j hj)
  have hsums : (slotAfter n (j + 1), w.sums) = s.aheadSums n o j := by
    rw [hworked.sums, hslot]
    rfl
  have hkept : w.state = { x.1 with cache := w.state.cache, lru := w.state.lru } := workTargets_recached x.1 _
  refine ⟨hsums, hj, ?_, ?_, ?_, fun k hk => ?_⟩
  · rw [aheadUpTo_succ]
    rw [hslot] at hworked
    exact hworked.state
  · rw [hsums, h.list, List.range_succ, List.map_append]
    rfl
  · rw [← h.part, hkept]
  · rw [← h.commits k hk, hkept]
    rfl

theorem searchOn_worked (p : Vector Int 6 → Bool) : ∀ (m : Nat) {x : Opening} {j : Nat}, s.WorkedAhead n o x j →
    j + m = s.part.ahead → (∃ j', s.WorkedAhead n o (searchOn n p m x).1 j') ∧
      (searchOn n p m x).2 = ((List.range' j m).map (s.aheadSums n o)).find? fun y => p y.2 := by
  intro m
  induction m with
  | zero => exact fun h _ => ⟨⟨_, h⟩, rfl⟩
  | succ m ih =>
    intro x j h hm
    obtain ⟨hsums, hnext⟩ := h.next hfits (by omega)
    have hlength : x.2.length = j := by rw [h.list, List.length_map, List.length_range]
    unfold searchOn
    rw [hlength]
    rw [List.range'_succ, List.map_cons, List.find?_cons, ← hsums]
    dsimp only
    cases hp : p (x.1.workTargets (slotAfter n (j + 1))).sums with
    | true => exact ⟨⟨_, hnext⟩, rfl⟩
    | false => exact ih hnext (by omega)

/-- R139, R140: a search comes to what a search of all the slots ahead, worked out at once, comes to. -/
theorem searchAhead_worked (p : Vector Int 6 → Bool) {j : Nat} (h : s.WorkedAhead n o x j) :
    (∃ j', s.WorkedAhead n o (searchAhead n x p).1 j') ∧
      (searchAhead n x p).2 =
        ((s.aheadUpTo n o s.part.ahead).2.find? fun y => p (sumsOf y.2)).map fun y => (y.1, sumsOf y.2) := by
  have hall : ((s.aheadUpTo n o s.part.ahead).2.find? fun y => p (sumsOf y.2)).map (fun y => (y.1, sumsOf y.2)) =
      ((List.range s.part.ahead).map (s.aheadSums n o)).find? fun y => p y.2 := by
    rw [aheadUpTo_list, show s.aheadSums n o = (fun y => (y.1, sumsOf y.2)) ∘ s.aheadEntry n o from rfl, ← List.map_map,
      List.find?_map (f := fun y : Word × List (TrainId × Int) => (y.1, sumsOf y.2))]
    rfl
  have hsplit : List.range s.part.ahead = List.range j ++ List.range' j (s.part.ahead - j) := by
    have hbounds := List.range'_append (s := 0) (m := j) (n := s.part.ahead - j) (step := 1)
    rw [List.range_eq_range', List.range_eq_range', ← Nat.add_sub_cancel' h.within, ← hbounds]
    simp
  have hlength : x.2.length = j := by rw [h.list, List.length_map, List.length_range]
  obtain ⟨hworked, hfound⟩ := searchOn_worked hfits p (s.part.ahead - j) h (by have := h.within; omega)
  rw [hall, hsplit, List.map_append, List.find?_append, ← h.list]
  unfold searchAhead
  rw [hlength, h.part]
  split
  · next y hy => exact ⟨⟨j, h⟩, by rw [hy]; rfl⟩
  · next hy =>
    rw [hy]
    exact ⟨hworked, hfound⟩

end

end Sys2Proof.Machine
end

section
/-! PROOF. What the dispatch of trains at a boundary leaves, and the settlement of O38 (R137 to R140, R143 to R145). -/

namespace Sys2Proof.Machine

/-! ### What dispatching trains leaves -/

/-- The record of a slot, but for its mark of a target not delivered. -/
def Slot.marked (x : Slot) (b : Bool) : Slot := { x with flags := { x.flags with undelivered := b } }

/-- From `s` to `u` the engine, the history, the gate and the tables stand, and the ring but for UNDELIVERED. -/
structure State.Dispatched (s u : State) : Prop where
  engine   : u.engine = s.engine
  history  : u.history = s.history
  gateOpen : u.gateOpen = s.gateOpen
  cfg      : ∀ t, u.cfg t = s.cfg t
  slots    : ∀ p, ∃ b, u.slots.get p = (s.slots.get p).marked b

theorem slot_marked_self (x : Slot) : ∃ b, x = x.marked b := ⟨x.flags.undelivered, rfl⟩

section
variable {s u v : State}

theorem dispatched_refl (s : State) : s.Dispatched s := ⟨rfl, rfl, rfl, fun _ => rfl, fun _ => slot_marked_self _⟩

theorem State.Dispatched.trans (h : s.Dispatched u) (h' : u.Dispatched v) : s.Dispatched v where
  engine := h'.engine.trans h.engine
  history := h'.history.trans h.history
  gateOpen := h'.gateOpen.trans h.gateOpen
  cfg := fun t => (h'.cfg t).trans (h.cfg t)
  slots := fun p => by
    obtain ⟨b, hb⟩ := h.slots p
    obtain ⟨b', hb'⟩ := h'.slots p
    exact ⟨b', by rw [hb', hb]; rfl⟩

theorem dispatched_of_same (hengine : u.engine = s.engine) (hhistory : u.history = s.history)
    (hgate : u.gateOpen = s.gateOpen) (hslots : u.slots = s.slots) (hcfg : ∀ t, u.cfg t = s.cfg t) : s.Dispatched u :=
  ⟨hengine, hhistory, hgate, hcfg, fun p => by rw [hslots]; exact slot_marked_self _⟩

theorem dispatched_of_recached (h : u.recachedOf s) : s.Dispatched u := by
  unfold State.recachedOf at h
  exact dispatched_of_same (by rw [h]) (by rw [h]) (by rw [h]) (by rw [h]) (cfg_of_trains (by rw [h]))

theorem undelivered_frame (s : State) : s.undelivered = { s with slots := s.undelivered.slots } := modActive_frame s _

theorem undelivered_dispatched (s : State) : s.Dispatched s.undelivered := by
  refine ⟨by rw [undelivered_frame], by rw [undelivered_frame], by rw [undelivered_frame],
    fun t => cfg_of_trains (by rw [undelivered_frame]) t, fun p => ?_⟩
  unfold State.undelivered State.modActive
  split
  · show ∃ b, (modAt s.slots _ _).get p = _
    rw [modAt_get]
    split
    · next hp => exact ⟨true, by rw [hp]; rfl⟩
    · exact slot_marked_self _
  · exact slot_marked_self _

theorem undeliveredFor_dispatched (s : State) (t : TrainId) : s.Dispatched (s.undeliveredFor t) := by
  unfold State.undeliveredFor
  split
  · exact dispatched_refl s
  · exact undelivered_dispatched s

theorem requestStopNow_dispatched {t : TrainId} (h : (s.run t).state = .running) :
    s.Dispatched (s.requestStopNow t none {}).1 := by
  obtain ⟨l, q, hu⟩ := requestStopNow_running h
  have htrains : (s.requestStopNow t none {}).1.trains = trainsMod s.trains t fun r => r.stopped (s.cfg t).stopTimeout := by
    rw [hu]
  exact dispatched_of_same (by rw [hu]) (by rw [hu]) (by rw [hu]) (by rw [hu]) (cfg_of_trainsMod htrains)

theorem undeliveredFor_trains (s : State) (t : TrainId) : (s.undeliveredFor t).trains = s.trains := by
  unfold State.undeliveredFor
  split
  · rfl
  · rw [undelivered_frame]

theorem stopUnscheduled_dispatched {t : TrainId} (h : (s.run t).state = .running) : s.Dispatched (s.stopUnscheduled t) := by
  refine (undeliveredFor_dispatched s t).trans (requestStopNow_dispatched ?_)
  rw [run_of_trains (undeliveredFor_trains s t)]
  exact h

theorem seqRaise_dispatched (s : State) (t : TrainId) (f : FaultInfo) : s.Dispatched (s.seqRaise t f) := by
  have hframe : s.seqRaise t f = { s.modRun t (fun r => { r with lastCause := some f.cause }) with
      link := (s.seqRaise t f).link, faults := (s.seqRaise t f).faults, tiers := (s.seqRaise t f).tiers } :=
    raise_frame _ _
  exact dispatched_of_same (by rw [hframe]; rfl) (by rw [hframe]; rfl) (by rw [hframe]; rfl) (by rw [hframe]; rfl)
    (seqRaise_cfg s t f)

theorem startToward_dispatched {t : TrainId} (hst : (s.run t).state = .standstill) (hg : s.gateOpen = true) (n : Word)
    (g : Int) : s.Dispatched (s.startToward t n g) := by
  cases hc : s.startCause t (signMode g) n g with
  | some c =>
    rw [startToward_refused hst hg hc]
    exact seqRaise_dispatched s t _
  | none =>
    obtain ⟨y, l, v, k, -, hu⟩ := startToward_accepted hst hg hc
    have htrains : (s.startToward t n g).trains = trainsMod s.trains t fun r => r.begun (s.cfg t) (signMode g) := by
      rw [hu]
    exact dispatched_of_same (by rw [hu]) (by rw [hu]) (by rw [hu]) (by rw [hu]) (cfg_of_trainsMod htrains)

theorem rollTrain_frame (a : Word) (s : State) (t : TrainId) : State.rollTrain a s t = { s with
    reservations := (State.rollTrain a s t).reservations, stopRequests := (State.rollTrain a s t).stopRequests } := by
  unfold State.rollTrain
  split
  · exact rollHeat_frame s t a _
  · rfl

theorem rollTrain_dispatched (a : Word) (s : State) (t : TrainId) : s.Dispatched (State.rollTrain a s t) := by
  rw [rollTrain_frame]
  exact ⟨rfl, rfl, rfl, fun _ => rfl, fun _ => slot_marked_self _⟩

theorem dispatchTrain_dispatched (a : Word) (x : Opening) (t : TrainId) : x.1.Dispatched (dispatchTrain a x t).1 := by
  have hsearch := fun p => dispatched_of_recached (searchAhead_recached a x p)
  unfold dispatchTrain
  dsimp only
  split
  · exact undeliveredFor_dispatched _ _
  · next hauto =>
    have hrunning : (x.1.run t).state = .running := ((autoRunning_iff _ _).1 (by simpa using hauto)).1
    split
    · exact dispatched_refl _
    · split
      · have hfound := hsearch fun v => inRunMode (v.get t) (x.1.run t).mode
        have hkept := searchAhead_recached a x fun v => inRunMode (v.get t) (x.1.run t).mode
        split
        · next e =>
          rw [e] at hfound
          exact hfound
        · next e =>
          rw [e] at hfound hkept
          refine hfound.trans (stopUnscheduled_dispatched ?_)
          rw [run_of_trains (by rw [hkept])]
          exact hrunning
      · exact stopUnscheduled_dispatched hrunning

theorem startAhead_dispatched (a : Word) (x : Opening) (t : TrainId) (hg : x.1.gateOpen = true) :
    x.1.Dispatched (startAhead a x t).1 := by
  unfold startAhead
  split
  · next hrests =>
    have hst : (x.1.run t).state = .standstill := by
      simp only [Bool.and_eq_true, beq_iff_eq] at hrests
      exact hrests.2
    split
    · exact startToward_dispatched hst hg _ _
    · have hkept := searchAhead_recached a x fun v => v.get t != 0
      have hfound := dispatched_of_recached hkept
      split
      · next e =>
        rw [e] at hfound hkept
        refine hfound.trans (startToward_dispatched ?_ (hfound.gateOpen.trans hg) _ _)
        rw [run_of_trains (by rw [hkept])]
        exact hst
      · next e =>
        rw [e] at hfound
        exact hfound
  · exact dispatched_refl _

/-! ### The reserve unit at a boundary (R148, R149, R153) -/

theorem resolveCommit_recached (s : State) (c : Commit) (need : Option Nat) : (s.resolveCommit c need).1.recachedOf s := by
  rw [resolveCommit_state]
  exact lookup_frame true

theorem reserveBand_recached (s : State) : s.reserveBand.1.recachedOf s := by
  refine foldl_keeps (P := fun x : State × ReserveBand => x.1.recachedOf s) (fun x c h => ?_) _ (s, {}) rfl
  have hresolved := resolveCommit_recached x.1 c (some allowReserve)
  unfold State.bandOne
  split <;> next e =>
    rw [e] at hresolved
    exact recachedOf_trans hresolved h

theorem limitRequest_dispatched (s : State) (b : ReserveBand) : s.Dispatched (s.limitRequest b) := by
  unfold State.limitRequest
  dsimp only
  split
  · exact dispatched_of_same rfl rfl rfl rfl fun _ => rfl
  · exact dispatched_of_same (by rw [raise_frame]; rfl) (by rw [raise_frame]; rfl) (by rw [raise_frame]; rfl)
      (by rw [raise_frame]; rfl) (cfg_of_trains (raise_trains _ _))

theorem modAct_dispatched (s : State) (f : Activation → Activation) : s.Dispatched (s.modAct f) :=
  dispatched_of_same rfl rfl rfl rfl fun _ => rfl

theorem modShare_dispatched (s : State) (t : TrainId) (f : Share → Share) : s.Dispatched (s.modShare t f) :=
  dispatched_of_same rfl rfl rfl rfl fun _ => rfl

theorem split_dispatched (s : State) (b : ReserveBand) : s.Dispatched (s.split b) := by
  have hfold := foldl_keeps (P := fun x : State × Nat => s.Dispatched x.1)
    (f := State.splitOne b (decide (0 < s.act.limited)))
    (fun x t h => h.trans (by unfold State.splitOne; split <;> exact modShare_dispatched _ _ _))
    (fins 6) (s, s.act.limited.natAbs) (dispatched_refl s)
  unfold State.split
  dsimp only
  generalize (fins 6).foldl (State.splitOne b (decide (0 < s.act.limited))) (s, s.act.limited.natAbs) = y at hfold ⊢
  exact hfold.trans (modAct_dispatched _ _)

theorem moveTrain_dispatched (s : State) (t : TrainId) (hg : s.gateOpen = true) : s.Dispatched (s.moveTrain t) := by
  unfold State.moveTrain
  dsimp only
  split
  · next h =>
    have hpowered := offerPower_powered (s.modShare t fun h => { h with aim := s.shareAim t, unfinished := true }) t
      (stepToward (s.run t).power (s.shareAim t) ((s.cfg t).reserveRamp * s.engine.step)) (o := .reserve) (by decide)
      ((autoRunning_iff s t).1 h).1 hg
    exact dispatched_of_same (by rw [hpowered.frame]; rfl) (by rw [hpowered.frame]; rfl) (by rw [hpowered.frame]; rfl)
      (by rw [hpowered.frame]; rfl) (cfg_of_trainsMod hpowered.trains)
  · exact modShare_dispatched s t _

theorem foldl_dispatched {α σ : Type} {f : σ → α → σ} (p : σ → State)
    (hf : ∀ x a, (p x).gateOpen = true → (p x).Dispatched (p (f x a))) (l : List α) (x : σ) (hg : (p x).gateOpen = true) :
    (p x).Dispatched (p (l.foldl f x)) :=
  foldl_keeps (P := fun y => (p x).Dispatched (p y)) (fun y a h => h.trans (hf y a (h.gateOpen.trans hg))) l x
    (dispatched_refl _)

theorem pollsLast_dispatched {f : State → State} (s : State) (hf : (s.withPolls []).Dispatched (f (s.withPolls []))) :
    s.Dispatched (s.pollsLast f) := by
  have hpolls : s.Dispatched (f (s.withPolls [])) := ⟨hf.engine, hf.history, hf.gateOpen, hf.cfg, hf.slots⟩
  refine hpolls.trans ?_
  rw [pollsLast_frame]
  exact dispatched_of_same rfl rfl rfl rfl fun _ => rfl

theorem moveTrains_dispatched (s : State) (changed : TrainId → Bool) (hg : s.gateOpen = true) :
    s.Dispatched (s.moveTrains changed) :=
  pollsLast_dispatched s
    (foldl_dispatched (σ := State) (fun x => x) (fun x t hx => moveTrain_dispatched x t hx) _ (s.withPolls []) hg)

theorem reserveNewSlot_dispatched (s : State) (b : TrainId → Nat) (hg : s.gateOpen = true) :
    s.Dispatched (s.reserveNewSlot b) := by
  unfold State.reserveNewSlot
  dsimp only
  split
  · have hsplit : s.Dispatched ((s.reserveBand.1.limitRequest s.reserveBand.2).split s.reserveBand.2) :=
      ((dispatched_of_recached (reserveBand_recached s)).trans (limitRequest_dispatched _ _)).trans (split_dispatched _ _)
    exact hsplit.trans (moveTrains_dispatched _ _ (hsplit.gateOpen.trans hg))
  · exact dispatched_refl s

/-! ### The steps after an opening (R137, steps 5 to 8) -/

theorem runSlot_dispatched (s : State) (a : Word) (b : TrainId → Nat) (hg : s.gateOpen = true) :
    s.Dispatched (s.runSlot a b) := by
  unfold State.runSlot
  extract_lets s1 x s2
  have h1 : s.Dispatched s1 := reserveNewSlot_dispatched s b hg
  have hx : s1.Dispatched x.1 :=
    foldl_dispatched (σ := Opening) Prod.fst (fun y t _ => dispatchTrain_dispatched a y t) _ (s1, []) (h1.gateOpen.trans hg)
  have h2 : x.1.Dispatched s2 :=
    foldl_dispatched (σ := State) (fun x => x) (fun y t _ => rollTrain_dispatched a y t) _ _ ((h1.trans hx).gateOpen.trans hg)
  exact ((h1.trans hx).trans h2).trans (foldl_dispatched (σ := Opening) Prod.fst
    (fun y t hy => startAhead_dispatched a y t hy) _ (s2, x.2) (((h1.trans hx).trans h2).gateOpen.trans hg))

theorem afterOpening_dispatched (s : State) (a : Word) (b : TrainId → Nat) : s.Dispatched (s.afterOpening a b) := by
  unfold State.afterOpening
  split
  · next hg => exact pollsLast_dispatched s (runSlot_dispatched _ a b hg)
  · unfold State.closedUndelivered
    split
    · exact undelivered_dispatched s
    · exact dispatched_refl s

end

end Sys2Proof.Machine
end

section
/-! PROOF. The slot closed and settled at a boundary, and the next one opened (the first part of O38, R137, R138, R144). -/

namespace Sys2Proof.Machine

section
variable (s : State) (a : Word)

/-- The settlement a boundary makes of the slot it closes. -/
def State.settled : Settlement := s.accumulate.settlementOf (s.accumulate.closedRecord a false) false

theorem settled_fields : (s.settled a).slot = a ∧
    (s.settled a).scheduled =
      Int.tdiv (((s.accumulate.recordFor a).commits.map fun c => c.power).sum * s.part.slotLength) 3600 ∧
    (s.settled a).activated = Int.tdiv (s.accumulate.recordFor a).accumulator 3600 ∧
    (s.settled a).generated = s.generatedEnergy (s.accumulate.recordFor a).bases ∧
    (s.settled a).charged = s.chargedEnergy (s.accumulate.recordFor a).bases ∧
    (s.settled a).deviation =
      ((s.settled a).generated : Int) - (s.settled a).charged - (s.settled a).scheduled - (s.settled a).activated := by
  have hpart : s.accumulate.part = s.part := by rw [accumulate_frame]
  have hgenerated (b : TrainSet) : s.accumulate.generatedEnergy b = s.generatedEnergy b := by
    rw [accumulate_frame]
    rfl
  have hcharged (b : TrainSet) : s.accumulate.chargedEnergy b = s.chargedEnergy b := by
    rw [accumulate_frame]
    rfl
  refine ⟨recordFor_number _ _, ?_, rfl, hgenerated _, hcharged _, rfl⟩
  rw [← hpart]
  rfl

variable {s a}

/-- A slot that opens at a boundary, from the plant the earlier steps leave. -/
theorem opened_advanced : (s.advanced a).Opened (slotAfter a 1) (s.opened a) :=
  openSlot_opened _ (by rw [advanced_eq])

theorem opened_engine : (s.opened a).engine = { s.engine with
    active := some (slotAfter a 1), boundary := some (s.part.slotLength * 1000), pre := preTimer s.part 0 } := by
  rw [opened_advanced.frame, advanced_eq]

theorem opened_history : (s.opened a).history = addHistory s.history (s.settled a) := by
  rw [opened_advanced.frame, advanced_eq]
  rfl

theorem opened_cfg (t : TrainId) : (s.opened a).cfg t = s.cfg t :=
  (opened_advanced.cfg t).trans (cfg_of_trains (by rw [advanced_eq]) t)

theorem preTimer_zero {p : Part} (h : 60 ≤ p.slotLength) :
    preTimer p 0 = .running ((p.slotLength - min p.preLead (p.slotLength - 1)) * 1000) := by
  have hlead : p.lead + 0 < p.slotLength := by
    unfold Part.lead
    omega
  exact if_pos hlead

variable (ha : s.engine.active = some a)
include ha

theorem exec_boundary {ms : Nat} (hb : s.engine.boundary = some ms) :
    exec .boundaryTimerExpiry s = .next ((s.opened a).afterOpening (slotAfter a 1) s.base) :=
  congrArg Host.Outcome.next (expireBoundary_active ha hb)

variable (hlead : s.part.gateLead ≤ 12) (hfits : a.toNat + 1 + s.part.gateLead < 4294967296)
include hlead hfits

/-- The record of the slot opened, but for its targets, counter bases and PARTIAL_DATA. -/
theorem opened_get_active : ∃ b f, (s.opened a).slots.get (slotPos (slotAfter a 1)) = { s.recordFor (slotAfter a 1) with
    state := .active, targets := ((s.advanced a).workTargets (slotAfter a 1)).sums, bases := b
    flags := { (s.recordFor (slotAfter a 1)).flags with partialData := f } } := by
  obtain ⟨b, f, h⟩ := (opened_advanced (s := s) (a := a)).active
  refine ⟨b, f, ?_⟩
  rw [h, advanced_get_active ha hlead hfits]

omit ha in
theorem opened_get_closed : (s.opened a).slots.get (slotPos a) = s.accumulate.closedRecord a false := by
  rw [opened_advanced.others _ (slotPos_next_ne hlead hfits).symm, advanced_get_closed hlead hfits]

end

/-- R137, R138, R144: the slot closed, its settlement, and the slot opened. -/
theorem boundary_settles {s : State} {a : Word} {ms : Nat} (ha : s.engine.active = some a)
    (hb : s.engine.boundary = some ms) (hrange : s.part.inRange) (hfits : a.toNat + 1 + s.part.gateLead < 4294967296) :
    let n := slotAfter a 1
    let x := s.accumulate.recordFor a
    ∃ (u : State) (r : Settlement), exec .boundaryTimerExpiry s = .next u ∧
      u.engine.active = some n ∧ u.engine.boundary = some (s.part.slotLength * 1000) ∧
      u.engine.pre = .running ((s.part.slotLength - min s.part.preLead (s.part.slotLength - 1)) * 1000) ∧
      u.engine.ramp = s.engine.ramp ∧ u.engine.mark = s.engine.mark ∧
      (u.slots.get (slotPos a)).state = .closed ∧ (u.slots.get (slotPos a)).commits = x.commits ∧
      (u.slots.get (slotPos n)).number = n ∧ (u.slots.get (slotPos n)).state = .active ∧
      (u.slots.get (slotPos n)).commits = (s.recordFor n).commits ∧
      u.history.getLast? = some r ∧ (s.history.length ≤ 16 → u.history.length = min 16 (s.history.length + 1)) ∧
      r.slot = a ∧
      r.scheduled = Int.tdiv ((x.commits.map fun c => c.power).sum * s.part.slotLength) 3600 ∧
      r.activated = Int.tdiv x.accumulator 3600 ∧
      r.generated = s.generatedEnergy x.bases ∧ r.charged = s.chargedEnergy x.bases ∧
      r.deviation = (r.generated : Int) - r.charged - r.scheduled - r.activated ∧
      (∀ t, u.cfg t = s.cfg t) ∧ tablesKept s u := by
  intro n x
  obtain ⟨-, -, -, -, ⟨hslot, -, -⟩, ⟨-, hlead⟩, -⟩ := hrange
  have hdispatched := afterOpening_dispatched (s.opened a) n s.base
  have hkept : tablesKept s ((s.opened a).afterOpening n s.base) := by
    rw [← expireBoundary_active ha hb]
    exact (tablesFrame s).expireBoundary (tablesKept_refl s)
  have hexec := exec_boundary ha hb
  generalize (s.opened a).afterOpening n s.base = u at hdispatched hkept hexec
  have hengine : u.engine = _ := hdispatched.engine.trans opened_engine
  have hhistory : u.history = _ := hdispatched.history.trans opened_history
  obtain ⟨b, hclosed⟩ := hdispatched.slots (slotPos a)
  rw [opened_get_closed hlead hfits] at hclosed
  obtain ⟨b', hopen⟩ := hdispatched.slots (slotPos n)
  obtain ⟨c, f, hactive⟩ := opened_get_active ha hlead hfits
  rw [hactive] at hopen
  refine ⟨u, s.settled a, hexec, by rw [hengine], by rw [hengine], ?_, by rw [hengine], by rw [hengine],
    by rw [hclosed]; rfl, by rw [hclosed]; rfl, ?_, by rw [hopen]; rfl, by rw [hopen]; rfl, ?_, fun hl => ?_, ?_⟩
  · rw [hengine]
    exact preTimer_zero hslot
  · rw [hopen]
    exact recordFor_number s n
  · rw [hhistory, addHistory_getLast]
  · rw [hhistory, addHistory_length _ _ hl]
  · obtain ⟨hnumber, hscheduled, hactivated, hgenerated, hcharged, hdeviation⟩ := settled_fields s a
    exact ⟨hnumber, hscheduled, hactivated, hgenerated, hcharged, hdeviation,
      fun t => (hdispatched.cfg t).trans (opened_cfg t), hkept⟩

end Sys2Proof.Machine
end

section
/-! PROOF. The trains dispatched in a newly opened slot, one after another (O38, R139, R143). -/

namespace Sys2Proof.Machine

/-- The slots ahead with the contributions to their targets, nearest first. -/
abbrev AheadList := List (Word × List (TrainId × Int))

/-! ### What a slot's dispatch makes of a train -/

section
variable (s : State) (l : AheadList) (t : TrainId)

/-- A RUNNING train in AUTO that neither the active slot nor a slot ahead has a target for in its run mode. -/
def State.leaves : Bool :=
  s.autoRunning t && !inRunMode (s.target t) (s.run t).mode &&
    !(s.target t == 0 && l.any fun y => inRunMode (sumFor y.2 t) (s.run t).mode)

/-- A train that does not run toward its target in the active slot. -/
def State.misses : Bool := s.target t != 0 && !(s.autoRunning t && inRunMode (s.target t) (s.run t).mode)

end

section
variable {s u : State} (h : s.Dispatched u)
include h

theorem State.Dispatched.target (t : TrainId) : u.target t = s.target t := by
  unfold State.target State.activeSlot
  rw [h.engine]
  cases s.engine.active with
  | none => rfl
  | some n =>
    obtain ⟨b, hb⟩ := h.slots (slotPos n)
    show (u.slots.get (slotPos n)).targets.get t = (s.slots.get (slotPos n)).targets.get t
    rw [hb]
    rfl

theorem State.Dispatched.recordFor_commits (k : Word) : (u.recordFor k).commits = (s.recordFor k).commits := by
  obtain ⟨b, hb⟩ := h.slots (slotPos k)
  unfold State.recordFor State.slotAt
  rw [hb]
  unfold Slot.marked
  dsimp only
  split <;> rfl

end

/-! ### Trains dispatched so far (R139) -/

/-- The plant with the trains `gone` stopped and UNDELIVERED set where a target was `missed`, the targets ahead as the
searches have left them. -/
structure State.DispatchedAs (s : State) (n : Word) (w o : State) (gone : TrainId → Bool) (missed : Bool) (x : Opening) :
    Prop where
  dispatched   : o.Dispatched x.1
  worked       : ∃ j, s.WorkedAhead n w x j
  frame        : x.1 = { o with cache := x.1.cache, lru := x.1.lru, slots := x.1.slots, link := x.1.link
                                queue := x.1.queue, trains := x.1.trains, reservations := x.1.reservations }
  run          : ∀ v, x.1.run v = if gone v then (o.run v).stopped (o.cfg v).stopTimeout else o.run v
  reservations : x.1.reservations = o.reservations.filter fun r => !gone r.train
  undelivered  : (x.1.slots.get (slotPos n)).flags.undelivered = ((o.slots.get (slotPos n)).flags.undelivered || missed)

section
variable {s : State} {n : Word} {w o : State} {gone : TrainId → Bool} {missed : Bool} {x : Opening}

/-- Targets ahead worked out, in a state that translates as before and whose ring is kept. -/
theorem worked_of_dispatched {u : State} (h : ∃ j, s.WorkedAhead n w x j) (hu : x.1.Dispatched u)
    (hcache : u.cache = x.1.cache) (hlru : u.lru = x.1.lru) (hpositions : u.positions = x.1.positions)
    (hduties : u.duties = x.1.duties) (hpart : u.part = x.1.part) : ∃ j, s.WorkedAhead n w (u, x.2) j := by
  obtain ⟨j, hj⟩ := h
  exact ⟨j, hj.of_handled ⟨hcache, hlru, hpositions, hduties, hu.cfg⟩ hpart hu.recordFor_commits⟩

variable (h : s.DispatchedAs n w o gone missed x)
include h

theorem State.DispatchedAs.target (t : TrainId) : x.1.target t = o.target t := h.dispatched.target t

theorem State.DispatchedAs.run_standing {t : TrainId} (ht : gone t = false) : x.1.run t = o.run t := by
  rw [h.run, ht]
  rfl

theorem State.DispatchedAs.searched {y : Opening} (hkept : y.1.recachedOf x.1) (hworked : ∃ j, s.WorkedAhead n w y j) :
    s.DispatchedAs n w o gone missed y := by
  have hframe : y.1 = { x.1 with cache := y.1.cache, lru := y.1.lru } := hkept
  refine ⟨h.dispatched.trans (dispatched_of_recached hkept), hworked, ?_, fun v => ?_, ?_, ?_⟩
  · rw [hframe, h.frame]
  · rw [← h.run]
    exact run_of_trains (by rw [hframe]) v
  · rw [← h.reservations, hframe]
  · rw [← h.undelivered, hframe]

/-- UNDELIVERED set in the active record. -/
theorem State.DispatchedAs.marked (hactive : o.engine.active = some n) :
    s.DispatchedAs n w o gone true (x.1.undelivered, x.2) := by
  have hframe := undelivered_frame x.1
  have hmarked := undelivered_dispatched x.1
  have hxactive : x.1.engine.active = some n := by rw [h.dispatched.engine]; exact hactive
  refine ⟨h.dispatched.trans hmarked, worked_of_dispatched h.worked hmarked (by rw [hframe]) (by rw [hframe])
    (by rw [hframe]) (by rw [hframe]) (by rw [hframe]), ?_, fun v => ?_, ?_, ?_⟩
  · dsimp only
    rw [hframe, h.frame]
  · rw [← h.run]
    exact run_of_trains (by rw [hframe]) v
  · rw [← h.reservations, hframe]
  · rw [Bool.or_true, State.undelivered, modActive_of_active _ hxactive]
    show ((modAt x.1.slots _ _).get _).flags.undelivered = true
    rw [modAt_get_same]

theorem State.DispatchedAs.markedFor (hactive : o.engine.active = some n) (t : TrainId) :
    s.DispatchedAs n w o gone (missed || o.target t != 0) (x.1.undeliveredFor t, x.2) := by
  unfold State.undeliveredFor
  rw [h.target]
  by_cases ht : o.target t = 0
  · rw [if_pos ht, ht]
    simpa using h
  · rw [if_neg ht, show (o.target t != 0) = true by simpa using ht, Bool.or_true]
    exact h.marked hactive

/-- R139: a RUNNING train stopped. -/
theorem State.DispatchedAs.stopped {t : TrainId} (ht : gone t = false) (hrunning : (o.run t).state = .running) :
    s.DispatchedAs n w o (fun v => gone v || v == t) missed ((x.1.requestStopNow t none {}).1, x.2) := by
  have hxrunning : (x.1.run t).state = .running := by rw [h.run_standing ht]; exact hrunning
  have hstopped := requestStopNow_dispatched hxrunning
  obtain ⟨l, q, hu⟩ := requestStopNow_running hxrunning
  generalize (x.1.requestStopNow t none {}).1 = u at hstopped hu ⊢
  have htrains : u.trains = trainsMod x.1.trains t fun r => r.stopped (x.1.cfg t).stopTimeout := by rw [hu]
  refine ⟨h.dispatched.trans hstopped, worked_of_dispatched h.worked hstopped (by rw [hu]) (by rw [hu])
    (by rw [hu]) (by rw [hu]) (by rw [hu]), ?_, fun v => ?_, ?_, ?_⟩
  · dsimp only
    rw [hu, h.frame]
  · by_cases hv : v = t
    · subst hv
      rw [run_of_trainsMod htrains, h.run_standing ht, h.dispatched.cfg]
      simp
    · rw [(othersKept_of_trainsMod htrains).2 v hv, h.run]
      simp [hv]
  · rw [hu]
    show x.1.reservations.filter _ = _
    rw [h.reservations, List.filter_filter]
    congr 1
    funext r
    simp [Bool.and_comm, bne]
  · rw [← h.undelivered, hu]

end

/-! ### One train dispatched (R139) -/

section
variable {s : State} {n : Word} {w o : State} {gone : TrainId → Bool} {missed : Bool} {x : Opening}

theorem find_isSome_iff_any (l : AheadList) (t : TrainId) (m : Mode) :
    ((l.find? fun y => inRunMode ((sumsOf y.2).get t) m).map fun y => (y.1, sumsOf y.2)).isSome =
      l.any fun y => inRunMode (sumFor y.2 t) m := by
  rw [Option.isSome_map, List.isSome_find?]
  simp only [sumsOf_get]

variable (hfits : n.toNat + s.part.ahead < 4294967296) (hactive : o.engine.active = some n)
include hfits hactive

theorem State.DispatchedAs.dispatchTrain (h : s.DispatchedAs n w o gone missed x) {t : TrainId} (ht : gone t = false) :
    s.DispatchedAs n w o (fun v => gone v || (v == t && o.leaves (s.aheadUpTo n w s.part.ahead).2 v))
      (missed || o.misses t) (dispatchTrain n x t) := by
  have hrun : x.1.run t = o.run t := h.run_standing ht
  have hauto : x.1.autoRunning t = o.autoRunning t := by rw [State.autoRunning, hrun]; rfl
  have hgone (b : Bool) (hb : o.leaves (s.aheadUpTo n w s.part.ahead).2 t = b) :
      (fun v => gone v || (v == t && o.leaves (s.aheadUpTo n w s.part.ahead).2 v)) = fun v => gone v || (v == t && b) := by
    funext v
    by_cases hv : v = t
    · rw [hv, hb]
    · rw [show (v == t) = false by simpa using hv, Bool.false_and, Bool.false_and]
  have hstands : (fun v => gone v || (v == t && false)) = gone := by
    funext v
    simp
  have hstopped : (fun v => gone v || (v == t && true)) = fun v => gone v || v == t := by
    funext v
    simp
  unfold Machine.dispatchTrain
  dsimp only
  rw [hauto, h.target, hrun]
  cases ha : o.autoRunning t with
  | false =>
    rw [hgone false (by simp [State.leaves, ha]), hstands, show o.misses t = (o.target t != 0) by simp [State.misses, ha]]
    exact h.markedFor hactive t
  | true =>
    have hrunning : (o.run t).state = .running := ((autoRunning_iff o t).1 ha).1
    cases hmode : inRunMode (o.target t) (o.run t).mode with
    | true =>
      rw [hgone false (by simp [State.leaves, hmode]), hstands, show o.misses t = false by simp [State.misses, ha, hmode],
        Bool.or_false]
      exact h
    | false =>
      have hmisses : o.misses t = (o.target t != 0) := by simp [State.misses, hmode]
      rw [if_neg (by decide), if_neg (by decide)]
      by_cases hzero : o.target t = 0
      · obtain ⟨j, hj⟩ := h.worked
        obtain ⟨hworked, hfound⟩ := searchAhead_worked hfits (fun v => inRunMode (v.get t) (o.run t).mode) hj
        have hsearched := h.searched (searchAhead_recached n x fun v => inRunMode (v.get t) (o.run t).mode) hworked
        have hany := find_isSome_iff_any (s.aheadUpTo n w s.part.ahead).2 t (o.run t).mode
        rw [← hfound] at hany
        rw [if_pos hzero, hmisses, hzero]
        generalize searchAhead n x (fun v => inRunMode (v.get t) (o.run t).mode) = z at hsearched hany
        rcases z with ⟨y, _ | r⟩
        · rw [hgone true (by simp [State.leaves, ha, hmode, ← hany]), hstopped]
          have hmark : y.1.undeliveredFor t = y.1 := if_pos ((hsearched.target t).trans hzero)
          show s.DispatchedAs n w o _ _ (((y.1.undeliveredFor t).requestStopNow t none {}).1, y.2)
          rw [hmark]
          simpa using hsearched.stopped ht hrunning
        · rw [hgone false (by simp [State.leaves, hzero, ← hany]), hstands]
          simpa using hsearched
      · rw [if_neg hzero, hgone true (by simp [State.leaves, ha, hmode, hzero]), hstopped, hmisses]
        exact (h.markedFor hactive t).stopped ht hrunning

/-- R139: the trains of a list dispatched. -/
theorem dispatchTrains (l : List TrainId) (hl : l.Nodup) : ∀ {gone : TrainId → Bool} {missed : Bool} {x : Opening},
    s.DispatchedAs n w o gone missed x → (∀ t ∈ l, gone t = false) →
    s.DispatchedAs n w o (fun v => gone v || (l.contains v && o.leaves (s.aheadUpTo n w s.part.ahead).2 v))
      (missed || l.any o.misses) (l.foldl (Machine.dispatchTrain n) x) := by
  induction l with
  | nil =>
    intro gone missed x h _
    simpa using h
  | cons t l ih =>
    intro gone missed x h hgone
    obtain ⟨hnot, hl'⟩ := List.nodup_cons.1 hl
    have hfirst := h.dispatchTrain hfits hactive (hgone t List.mem_cons_self)
    have hrest := ih hl' hfirst fun v hv => by
      have hne : v ≠ t := fun e => hnot (e ▸ hv)
      simp [hgone v (List.mem_cons_of_mem t hv), hne]
    rw [List.foldl_cons]
    convert hrest using 1
    · funext v
      rw [List.contains_cons, Bool.or_assoc, ← Bool.and_or_distrib_right]
    · rw [List.any_cons, Bool.or_assoc]

end

end Sys2Proof.Machine
end

section
/-! PROOF. Heat rolled and trains started in a newly opened slot, and what a slot's dispatch makes of each train (O38, R121,
R139, R140). -/

namespace Sys2Proof.Machine

/-! ### Trains rolled (R121) -/

section
variable (s : State) (t : TrainId) (n : Word) (g : Int)

theorem recordOf_train {p : Phase} {r : Reservation} (h : s.recordOf t p = some r) : r.train = t := by
  have hr := List.find?_some h
  simp only [Bool.and_eq_true, beq_iff_eq] at hr
  exact hr.1

theorem mem_replaceRecord {l : List Reservation} {x y r : Reservation} (h : r ∈ replaceRecord l x y) : r ∈ l ∨ r = y := by
  obtain ⟨z, hz, hr⟩ := List.mem_map.1 h
  split at hr
  · exact .inr hr.symm
  · exact .inl (hr ▸ hz)

theorem rollAsk_mem (m : RunMode) {r : Reservation} (h : r ∈ (s.rollAsk t m n g).reservations) :
    r ∈ s.reservations ∨ r.train = t := by
  unfold State.rollAsk at h
  split at h
  · next u hu =>
    obtain ⟨l, rfl, hl⟩ := grantHeat_adds hu
    exact (List.mem_append.1 h).imp_right fun hr => (hl r hr).1
  · exact .inl h

/-- A roll of a train leaves no record of another train that did not stand. -/
theorem rollHeat_mem {r : Reservation} (h : r ∈ (s.rollHeat t n g).reservations) : r ∈ s.reservations ∨ r.train = t := by
  unfold State.rollHeat at h
  split at h
  · exact .inl h
  split at h
  · split at h
    · exact .inl h
    dsimp only at h
    split at h
    · next x hx =>
      rcases mem_replaceRecord h with hr | rfl
      · exact .inl (List.mem_of_mem_erase hr)
      · exact .inr (show x.train = t from recordOf_train s t hx)
    · exact (rollAsk_mem _ t n g _ h).imp_left List.mem_of_mem_erase
  · split at h
    · exact .inl h
    · exact rollAsk_mem _ t n g _ h

end

theorem rollTrains_frame (n : Word) (l : List TrainId) (s : State) : l.foldl (State.rollTrain n) s =
    { s with reservations := (l.foldl (State.rollTrain n) s).reservations
             stopRequests := (l.foldl (State.rollTrain n) s).stopRequests } :=
  foldl_keeps (P := fun u : State => u = { s with reservations := u.reservations, stopRequests := u.stopRequests })
    (fun u t h => by rw [rollTrain_frame, h]) l s rfl

/-- A train without records that does not run gets none as trains are rolled. -/
theorem rollTrains_none (n : Word) (l : List TrainId) {s : State} {t : TrainId} (hidle : s.autoRunning t = false)
    (hnone : ∀ r ∈ s.reservations, r.train ≠ t) : ∀ r ∈ (l.foldl (State.rollTrain n) s).reservations, r.train ≠ t := by
  refine (foldl_keeps (P := fun u : State => u.trains = s.trains ∧ ∀ r ∈ u.reservations, r.train ≠ t)
    (fun u v ⟨htrains, hu⟩ => ⟨?_, fun r hr => ?_⟩) l s ⟨rfl, hnone⟩).2
  · rw [rollTrain_frame]
    exact htrains
  · have hruns : u.autoRunning t = false := by rw [State.autoRunning, run_of_trains htrains]; exact hidle
    unfold State.rollTrain at hr
    split at hr
    · next hv =>
      rcases rollHeat_mem u v n _ hr with hr | hr
      · exact hu r hr
      · intro e
        rw [← hr, e, hruns] at hv
        exact absurd hv (by simp)
    · exact hu r hr

/-! ### Trains started (R140) -/

/-- A train at STANDSTILL in AUTO that the active slot or a slot ahead has a target for. -/
def State.begins (s : State) (l : AheadList) (t : TrainId) : Bool :=
  (s.run t).auto && (s.run t).state == .standstill && (s.target t != 0 || l.any fun y => sumFor y.2 t != 0)

/-- What a START leaves of the other trains and of the ring. -/
theorem startToward_others {s : State} {t : TrainId} (hst : (s.run t).state = .standstill) (hg : s.gateOpen = true)
    (n : Word) (g : Int) : (s.startToward t n g).slots = s.slots ∧
      (∀ v, v ≠ t → (s.startToward t n g).run v = s.run v) ∧
      ∀ r ∈ (s.startToward t n g).reservations, r ∈ s.reservations ∨ r.train = t := by
  cases hc : s.startCause t (signMode g) n g with
  | some c =>
    rw [startToward_refused hst hg hc]
    refine ⟨?_, fun v hv => (othersKept_of_trainsMod (seqRaise_trains s t _)).2 v hv, fun r hr => ?_⟩
    · rw [State.seqRaise, raise_frame]
      rfl
    · rw [seqRaise_reservations] at hr
      exact .inl hr
  | none =>
    obtain ⟨y, l, v, k, hy, hu⟩ := startToward_accepted hst hg hc
    have htrains : (s.startToward t n g).trains = trainsMod s.trains t fun r => r.begun (s.cfg t) (signMode g) := by rw [hu]
    refine ⟨by rw [hu], fun v hv => (othersKept_of_trainsMod htrains).2 v hv, fun r hr => ?_⟩
    rw [hu] at hr
    obtain ⟨l, rfl, hl⟩ := grantHeat_adds hy
    exact (List.mem_append.1 hr).imp_right fun hr => (hl r hr).1

/-- The plant after the starts of some trains, the targets ahead as the searches have left them. -/
structure State.StartedFrom (s : State) (n : Word) (w y : State) (x : Opening) : Prop where
  dispatched   : y.Dispatched x.1
  worked       : ∃ j, s.WorkedAhead n w x j
  slots        : x.1.slots = y.slots
  run          : ∀ v, y.begins (s.aheadUpTo n w s.part.ahead).2 v = false → x.1.run v = y.run v
  reservations : ∀ r ∈ x.1.reservations, r ∈ y.reservations ∨ y.begins (s.aheadUpTo n w s.part.ahead).2 r.train = true

section
variable {s : State} {n : Word} {w y : State} {x : Opening}

theorem State.StartedFrom.searched (h : s.StartedFrom n w y x) {z : Opening} (hkept : z.1.recachedOf x.1)
    (hworked : ∃ j, s.WorkedAhead n w z j) : s.StartedFrom n w y z := by
  have hframe : z.1 = { x.1 with cache := z.1.cache, lru := z.1.lru } := hkept
  refine ⟨h.dispatched.trans (dispatched_of_recached hkept), hworked, ?_, fun v hv => ?_, fun r hr => ?_⟩
  · rw [hframe, h.slots]
  · rw [← h.run v hv]
    exact run_of_trains (by rw [hframe]) v
  · rw [hframe] at hr
    exact h.reservations r hr

theorem State.StartedFrom.started (h : s.StartedFrom n w y x) (hg : y.gateOpen = true) {t : TrainId}
    (hst : (x.1.run t).state = .standstill) (hbegins : y.begins (s.aheadUpTo n w s.part.ahead).2 t = true) (k : Word)
    (g : Int) : s.StartedFrom n w y (x.1.startToward t k g, x.2) := by
  have hxg : x.1.gateOpen = true := h.dispatched.gateOpen.trans hg
  have hstarted := startToward_dispatched hst hxg k g
  have hframe := (plantFrame x.1).startToward (s := x.1) rfl t k g
  obtain ⟨hslots, hothers, hadded⟩ := startToward_others hst hxg k g
  refine ⟨h.dispatched.trans hstarted, worked_of_dispatched h.worked hstarted ?_ ?_ ?_ ?_ ?_, hslots.trans h.slots,
    fun v hv => ?_, fun r hr => ?_⟩
  · rw [hframe]
  · rw [hframe]
  · rw [hframe]
  · rw [hframe]
  · rw [hframe]
  · have hne : v ≠ t := fun e => by simp [e, hbegins] at hv
    exact (hothers v hne).trans (h.run v hv)
  · rcases hadded r hr with hr | hr
    · exact h.reservations r hr
    · exact .inr (hr ▸ hbegins)

variable (hfits : n.toNat + s.part.ahead < 4294967296)
include hfits

theorem State.StartedFrom.startAhead (h : s.StartedFrom n w y x) (hg : y.gateOpen = true) (t : TrainId) :
    s.StartedFrom n w y (startAhead n x t) := by
  unfold Machine.startAhead
  split
  · next hrests =>
    have hst : (x.1.run t).state = .standstill := by
      simp only [Bool.and_eq_true, beq_iff_eq] at hrests
      exact hrests.2
    have hbegins (hto : (y.target t != 0 || (s.aheadUpTo n w s.part.ahead).2.any fun z => sumFor z.2 t != 0) = true) :
        y.begins (s.aheadUpTo n w s.part.ahead).2 t = true := by
      by_contra hnot
      rw [Bool.not_eq_true] at hnot
      rw [h.run t hnot] at hrests
      unfold State.begins at hnot
      rw [hrests, hto] at hnot
      simp at hnot
    have htarget : x.1.target t = y.target t := h.dispatched.target t
    split
    · next hto =>
      exact h.started hg hst (hbegins (by simp [← htarget, hto])) n _
    · obtain ⟨j, hj⟩ := h.worked
      obtain ⟨hworked, hfound⟩ := searchAhead_worked hfits (fun v => v.get t != 0) hj
      have hkept := searchAhead_recached n x fun v => v.get t != 0
      have hsearched := h.searched hkept hworked
      split
      · next z k v e =>
        rw [e] at hsearched hfound hkept
        have hany : ((s.aheadUpTo n w s.part.ahead).2.any fun z => sumFor z.2 t != 0) = true := by
          have hsome := congrArg Option.isSome hfound
          rw [Option.isSome_map, List.isSome_find?] at hsome
          simp only [sumsOf_get, Option.isSome_some] at hsome
          exact hsome.symm
        refine hsearched.started hg ?_ (hbegins (by rw [hany, Bool.or_true])) k _
        rw [run_of_trains (by rw [hkept])]
        exact hst
      · next e =>
        rw [e] at hsearched
        exact hsearched
  · exact h

end

end Sys2Proof.Machine
end

section
/-! PROOF. The steps after an opening, train by train, and where one train alone is configured (O38, R137 steps 5 to 8). -/

namespace Sys2Proof.Machine

/-! ### The stages of a slot's dispatch -/

theorem configuredTrains_congr {u s : State} (h : ∀ t, u.cfg t = s.cfg t) : u.configuredTrains = s.configuredTrains := by
  unfold State.configuredTrains
  simp only [h]

section
variable (o : State) (n : Word)

/-- R137, step 6: the configured trains dispatched. -/
def State.dispatchedTrains : Opening := o.configuredTrains.foldl (dispatchTrain n) (o, [])

/-- R137, step 7: their heat rolled. -/
def State.rolledTrains : State := o.configuredTrains.foldl (State.rollTrain n) (o.dispatchedTrains n).1

/-- R137, step 8: their starts. -/
def State.startedTrains : Opening := o.configuredTrains.foldl (startAhead n) (o.rolledTrains n, (o.dispatchedTrains n).2)

theorem dispatchedTrains_dispatched (hg : o.gateOpen = true) : o.Dispatched (o.dispatchedTrains n).1 :=
  foldl_dispatched (σ := Opening) Prod.fst (fun y t _ => dispatchTrain_dispatched n y t) _ (o, []) hg

theorem rolledTrains_frame : o.rolledTrains n = { (o.dispatchedTrains n).1 with
    reservations := (o.rolledTrains n).reservations, stopRequests := (o.rolledTrains n).stopRequests } :=
  rollTrains_frame n _ _

theorem rolledTrains_dispatched : (o.dispatchedTrains n).1.Dispatched (o.rolledTrains n) := by
  have hframe := rolledTrains_frame o n
  exact dispatched_of_same (by rw [hframe]) (by rw [hframe]) (by rw [hframe]) (by rw [hframe]) (cfg_of_trains (by rw [hframe]))

/-- With no activation in force the steps after an opening are the three over the trains. -/
theorem runSlot_eq (hg : o.gateOpen = true) (hact : o.act.active = false) (b : TrainId → Nat) :
    o.runSlot n b = (o.startedTrains n).1 := by
  have hreserve : o.reserveNewSlot b = o := by
    unfold State.reserveNewSlot
    rw [hact]
    rfl
  have hdispatched := dispatchedTrains_dispatched o n hg
  have hfirst : (o.dispatchedTrains n).1.configuredTrains = o.configuredTrains := configuredTrains_congr hdispatched.cfg
  have hsecond : (o.rolledTrains n).configuredTrains = o.configuredTrains :=
    configuredTrains_congr (hdispatched.trans (rolledTrains_dispatched o n)).cfg
  unfold State.runSlot
  rw [hreserve]
  show ((State.configuredTrains (List.foldl _ _ (State.configuredTrains (o.dispatchedTrains n).1))).foldl (startAhead n)
    ((State.configuredTrains (o.dispatchedTrains n).1).foldl (State.rollTrain n) (o.dispatchedTrains n).1,
      (o.dispatchedTrains n).2)).1 = _
  rw [hfirst]
  show ((o.rolledTrains n).configuredTrains.foldl (startAhead n) (o.rolledTrains n, (o.dispatchedTrains n).2)).1 = _
  rw [hsecond]
  rfl

end

section
variable {s : State} {n : Word} {w o : State} (hfits : n.toNat + s.part.ahead < 4294967296)
  (hactive : o.engine.active = some n) (hg : o.gateOpen = true) (hact : o.act.active = false)
  (hopen : s.DispatchedAs n w o (fun _ => false) false (o, []))
include hfits hactive hopen

theorem dispatchedTrains_as : s.DispatchedAs n w o
    (fun v => o.configuredTrains.contains v && o.leaves (s.aheadUpTo n w s.part.ahead).2 v) (o.configuredTrains.any o.misses)
    (o.dispatchedTrains n) := by
  have hnodup : o.configuredTrains.Nodup := (configuredTrains_ascending o).imp ne_of_lt
  have hall := dispatchTrains hfits hactive o.configuredTrains hnodup hopen fun _ _ => rfl
  simp only [Bool.false_or] at hall
  exact hall

include hg

theorem startedTrains_from : s.StartedFrom n w (o.rolledTrains n) (o.startedTrains n) := by
  have hdispatched := dispatchedTrains_as hfits hactive hopen
  have hrolled := rolledTrains_dispatched o n
  have hrg : (o.rolledTrains n).gateOpen = true := by
    rw [hrolled.gateOpen, (dispatchedTrains_dispatched o n hg).gateOpen, hg]
  have hframe := rolledTrains_frame o n
  have hstart : s.StartedFrom n w (o.rolledTrains n) (o.rolledTrains n, (o.dispatchedTrains n).2) :=
    ⟨dispatched_refl _, worked_of_dispatched hdispatched.worked hrolled (by rw [hframe]) (by rw [hframe])
      (by rw [hframe]) (by rw [hframe]) (by rw [hframe]), rfl, fun _ _ => rfl, fun _ hr => .inl hr⟩
  exact foldl_keeps (P := s.StartedFrom n w (o.rolledTrains n)) (fun x t h => h.startAhead hfits hrg t) _ _ hstart

include hact

/-- R139, R143: UNDELIVERED where a configured train does not run toward its target. -/
theorem runSlot_undelivered (b : TrainId → Nat) : ((o.runSlot n b).slots.get (slotPos n)).flags.undelivered =
    ((o.slots.get (slotPos n)).flags.undelivered || o.configuredTrains.any o.misses) := by
  have hrolled : (o.rolledTrains n).slots = (o.dispatchedTrains n).1.slots := by rw [rolledTrains_frame]
  rw [runSlot_eq o n hg hact, (startedTrains_from hfits hactive hg hopen).slots, hrolled,
    (dispatchedTrains_as hfits hactive hopen).undelivered]

/-- R139: a train that leaves its run mode's targets stops, and its records are released. -/
theorem runSlot_stopped (b : TrainId → Nat) {t : TrainId} (ht : (o.cfg t).configured = true)
    (hleaves : o.leaves (s.aheadUpTo n w s.part.ahead).2 t = true) :
    (o.runSlot n b).run t = (o.run t).stopped (o.cfg t).stopTimeout ∧ ∀ r ∈ (o.runSlot n b).reservations, r.train ≠ t := by
  have hdispatched := dispatchedTrains_as hfits hactive hopen
  have hstarted := startedTrains_from hfits hactive hg hopen
  have hgone : (o.configuredTrains.contains t && o.leaves (s.aheadUpTo n w s.part.ahead).2 t) = true := by
    rw [hleaves, Bool.and_true, List.contains_iff_mem]
    exact (mem_configuredTrains o t).2 ht
  have hrun : (o.rolledTrains n).run t = (o.run t).stopped (o.cfg t).stopTimeout := by
    rw [run_of_trains (show (o.rolledTrains n).trains = (o.dispatchedTrains n).1.trains by rw [rolledTrains_frame]),
      hdispatched.run, if_pos hgone]
  have hstate : ((o.run t).stopped (o.cfg t).stopTimeout).state = .stopping := by rw [stopped_eq]
  have hbegins : (o.rolledTrains n).begins (s.aheadUpTo n w s.part.ahead).2 t = false := by
    unfold State.begins
    rw [hrun, hstate]
    simp
  have hnone : ∀ r ∈ (o.rolledTrains n).reservations, r.train ≠ t := by
    refine rollTrains_none n _ ?_ fun r hr e => ?_
    · rw [State.autoRunning, hdispatched.run, if_pos hgone, hstate]
      simp
    · rw [hdispatched.reservations] at hr
      have hstands := (List.mem_filter.1 hr).2
      rw [e, hgone] at hstands
      exact absurd hstands (by decide)
  rw [runSlot_eq o n hg hact]
  refine ⟨(hstarted.run t hbegins).trans hrun, fun r hr e => ?_⟩
  rcases hstarted.reservations r hr with hr | hr
  · exact hnone r hr e
  · rw [e, hbegins] at hr
    exact absurd hr (by decide)

/-- R139, R140: a train that neither leaves nor begins stands. -/
theorem runSlot_stands (b : TrainId → Nat) {t : TrainId}
    (hleaves : o.leaves (s.aheadUpTo n w s.part.ahead).2 t = false)
    (hbegins : o.begins (s.aheadUpTo n w s.part.ahead).2 t = false) : (o.runSlot n b).run t = o.run t := by
  have hdispatched := dispatchedTrains_as hfits hactive hopen
  have hrun : (o.rolledTrains n).run t = o.run t := by
    rw [run_of_trains (show (o.rolledTrains n).trains = (o.dispatchedTrains n).1.trains by rw [rolledTrains_frame]),
      hdispatched.run, hleaves, Bool.and_false]
    rfl
  have htarget : (o.rolledTrains n).target t = o.target t :=
    ((dispatchedTrains_dispatched o n hg).trans (rolledTrains_dispatched o n)).target t
  have hrolled : (o.rolledTrains n).begins (s.aheadUpTo n w s.part.ahead).2 t = false := by
    unfold State.begins at hbegins ⊢
    rw [hrun, htarget]
    exact hbegins
  rw [runSlot_eq o n hg hact]
  exact ((startedTrains_from hfits hactive hg hopen).run t hrolled).trans hrun

end

/-! ### One configured train alone -/

section
variable {o : State} {n : Word} {t : TrainId} (hone : o.configuredTrains = [t])
  (hg : o.gateOpen = true) (hact : o.act.active = false)
include hone

theorem dispatchedTrains_one : o.dispatchedTrains n = dispatchTrain n (o, []) t := by
  unfold State.dispatchedTrains
  rw [hone]
  rfl

theorem rolledTrains_one : o.rolledTrains n = State.rollTrain n (dispatchTrain n (o, []) t).1 t := by
  unfold State.rolledTrains
  rw [dispatchedTrains_one hone, hone]
  rfl

theorem startedTrains_one : o.startedTrains n =
    startAhead n (State.rollTrain n (dispatchTrain n (o, []) t).1 t, (dispatchTrain n (o, []) t).2) t := by
  unfold State.startedTrains
  rw [rolledTrains_one hone, dispatchedTrains_one hone, hone]
  rfl

include hg hact

/-- R121: a train that runs toward its target alone has its heat rolled. -/
theorem runSlot_rolls (b : TrainId → Nat) (hauto : o.autoRunning t = true)
    (hmode : inRunMode (o.target t) (o.run t).mode = true) : o.runSlot n b = o.rollHeat t n (o.target t) := by
  have hdispatched : dispatchTrain n (o, []) t = (o, []) := by
    unfold dispatchTrain
    dsimp only
    rw [hauto, hmode]
    rfl
  have hrolled : State.rollTrain n o t = o.rollHeat t n (o.target t) := by
    unfold State.rollTrain
    rw [hauto, hmode]
    rfl
  have hrunning : ((o.rollHeat t n (o.target t)).run t).state = .running := by
    rw [run_of_trains (by rw [rollHeat_frame])]
    exact ((autoRunning_iff o t).1 hauto).1
  rw [runSlot_eq o n hg hact, startedTrains_one hone, hdispatched, hrolled]
  unfold startAhead
  dsimp only
  rw [hrunning, show (TrainState.running == TrainState.standstill) = false from rfl, Bool.and_false]
  rfl

end

/-- The slot a train at STANDSTILL is started toward, and its target there (R140). -/
def State.toward (o : State) (n : Word) (l : AheadList) (t : TrainId) : Option (Word × Int) :=
  if o.target t ≠ 0 then some (n, o.target t)
  else (l.find? fun y => sumFor y.2 t != 0).map fun y => (y.1, sumFor y.2 t)

/-- R140: a train at STANDSTILL alone is started toward its target, from a plant that differs in UNDELIVERED and the
translation cache. -/
theorem runSlot_starts {s : State} {n : Word} {w o : State} {t : TrainId}
    (hfits : n.toNat + s.part.ahead < 4294967296) (hworked : s.WorkedAhead n w (o, []) 0) (hone : o.configuredTrains = [t])
    (hg : o.gateOpen = true) (hact : o.act.active = false) (b : TrainId → Nat) (hst : (o.run t).state = .standstill)
    (hauto : (o.run t).auto = true) {k : Word} {v : Int}
    (hto : o.toward n (s.aheadUpTo n w s.part.ahead).2 t = some (k, v)) :
    ∃ c l r, o.runSlot n b = State.startToward { o with cache := c, lru := l, slots := r } t k v := by
  have hidle : o.autoRunning t = false := by
    unfold State.autoRunning
    rw [hst]
    simp
  have hmark : o.undeliveredFor t = { o with slots := (o.undeliveredFor t).slots } := by
    unfold State.undeliveredFor
    split
    · rfl
    · exact undelivered_frame o
  have hdispatched : dispatchTrain n (o, []) t = (o.undeliveredFor t, []) := by
    unfold dispatchTrain
    dsimp only
    rw [hidle]
    rfl
  have hrun : (o.undeliveredFor t).run t = o.run t := run_of_trains (undeliveredFor_trains o t) t
  have htarget : (o.undeliveredFor t).target t = o.target t := (undeliveredFor_dispatched o t).target t
  have hrolled : State.rollTrain n (o.undeliveredFor t) t = o.undeliveredFor t := by
    unfold State.rollTrain State.autoRunning
    rw [hrun, hst]
    simp
  have hrests : (((o.undeliveredFor t).run t).auto && ((o.undeliveredFor t).run t).state == .standstill) = true := by
    rw [hrun, hst, hauto]
    rfl
  rw [runSlot_eq o n hg hact, startedTrains_one hone, hdispatched, hrolled]
  unfold startAhead
  dsimp only
  rw [if_pos hrests, htarget]
  unfold State.toward at hto
  by_cases hzero : o.target t = 0
  · have hstands : o.undeliveredFor t = o := if_pos hzero
    obtain ⟨-, hfound⟩ := searchAhead_worked hfits (fun v => v.get t != 0) hworked
    have hkept := searchAhead_recached n (o, []) fun v => v.get t != 0
    rw [if_neg (not_not.2 hzero)] at hto ⊢
    obtain ⟨y, hy, hyk⟩ := Option.map_eq_some_iff.1 hto
    obtain ⟨rfl, rfl⟩ := Prod.mk.inj hyk
    simp only [sumsOf_get] at hfound
    rw [hy] at hfound
    rw [hstands]
    generalize searchAhead n (o, []) (fun v => v.get t != 0) = z at hfound hkept ⊢
    obtain ⟨x, r⟩ := z
    obtain rfl : r = some (y.1, sumsOf y.2) := hfound
    have hx : x.1 = { o with cache := x.1.cache, lru := x.1.lru } := hkept
    refine ⟨x.1.cache, x.1.lru, o.slots, ?_⟩
    show x.1.startToward t y.1 ((sumsOf y.2).get t) = _
    rw [sumsOf_get]
    exact congrArg (fun z : State => z.startToward t y.1 (sumFor y.2 t)) hx
  · rw [if_pos hzero] at hto ⊢
    obtain ⟨rfl, rfl⟩ := Prod.mk.inj (Option.some.inj hto)
    exact ⟨o.cache, o.lru, (o.undeliveredFor t).slots, congrArg (fun z : State => z.startToward t n (o.target t)) hmark⟩

end Sys2Proof.Machine
end

section
/-! PROOF. Grants, rolls and starts in two plants that read alike (O38, R112, R121, R140). -/

namespace Sys2Proof.Machine

/-- Two plants in which a grant, a roll and a start find the same: the records of a slot, the engine, the queue, the faults
and the slot-start counters aside. -/
structure State.alike (u s : State) : Prop where
  part         : u.part = s.part
  ptrip        : u.ptrip = s.ptrip
  stations     : u.stations = s.stations
  caverns      : u.caverns = s.caverns
  stores       : u.stores = s.stores
  reservations : u.reservations = s.reservations
  stopRequests : u.stopRequests = s.stopRequests
  cfg          : ∀ t, u.cfg t = s.cfg t
  run          : ∀ t, ∃ g c, u.run t = { s.run t with slotGen := g, slotChg := c }

section
variable {u s : State} (h : u.alike s)
include h

theorem State.alike.withReservations (l : List Reservation) :
    State.alike { u with reservations := l } { s with reservations := l } :=
  ⟨h.part, h.ptrip, h.stations, h.caverns, h.stores, rfl, h.stopRequests, h.cfg, h.run⟩

theorem State.alike.state (t : TrainId) : (u.run t).state = (s.run t).state := by
  obtain ⟨g, c, hr⟩ := h.run t
  rw [hr]
theorem State.alike.auto (t : TrainId) : (u.run t).auto = (s.run t).auto := by
  obtain ⟨g, c, hr⟩ := h.run t
  rw [hr]
theorem State.alike.mode (t : TrainId) : (u.run t).mode = (s.run t).mode := by
  obtain ⟨g, c, hr⟩ := h.run t
  rw [hr]
theorem State.alike.engaged (t : TrainId) : (u.run t).engaged = (s.run t).engaged := by
  obtain ⟨g, c, hr⟩ := h.run t
  rw [hr]
theorem State.alike.report (t : TrainId) : (u.run t).report = (s.run t).report := by
  obtain ⟨g, c, hr⟩ := h.run t
  rw [hr]

theorem State.alike.recordOf (t : TrainId) (p : Phase) : u.recordOf t p = s.recordOf t p := by
  unfold State.recordOf
  rw [h.reservations]

theorem State.alike.slotAsk (t : TrainId) (m : RunMode) (n : Word) (g : Int) : u.slotAsk t m n g = s.slotAsk t m n g := by
  unfold State.slotAsk State.energyBasis
  rw [h.part, h.cfg]

/-! ### Grants -/

theorem State.alike.grantHeat (a : HeatAsk) :
    (u.grantHeat a).map State.reservations = (s.grantHeat a).map State.reservations := by
  have hstore (k : StoreId) : u.store k = s.store k := by
    unfold State.store
    rw [h.stores]
  have havail (k : StoreId) (q : HeatKind) : u.available k q = s.available k q := by
    unfold State.available State.reserved
    rw [hstore, h.reservations]
  have hrecord (n : Nat) : u.grantRecord a n = s.grantRecord a n := by
    unfold State.grantRecord
    rw [h.cfg, h.report]
  unfold State.grantHeat
  simp only [h.cfg, hstore, havail, hrecord, h.reservations, State.modReservations,
    apply_ite (Except.map State.reservations)]
  simp only [Except.map, h.reservations]

theorem State.alike.granted {a : HeatAsk} {y : State} (hy : s.grantHeat a = .ok y) :
    ∃ z, u.grantHeat a = .ok z ∧ z.reservations = y.reservations := by
  have hmap := h.grantHeat a
  rw [hy] at hmap
  cases hz : u.grantHeat a with
  | ok z =>
    rw [hz] at hmap
    exact ⟨z, rfl, Except.ok.inj hmap⟩
  | error c =>
    rw [hz] at hmap
    cases hmap

theorem State.alike.refused {a : HeatAsk} {c : Cause} (hc : s.grantHeat a = .error c) : u.grantHeat a = .error c := by
  have hmap := h.grantHeat a
  rw [hc] at hmap
  cases hz : u.grantHeat a with
  | ok z =>
    rw [hz] at hmap
    cases hmap
  | error c =>
    rw [hz] at hmap
    cases hmap
    rfl

/-! ### Rolls (R121) -/

/-- What a roll that asks for a CURRENT grant comes to. -/
theorem State.alike.rollAsk (t : TrainId) (m : RunMode) (n : Word) (g : Int) :
    (∀ y, s.grantHeat (s.slotAsk t m n g) = .ok y →
      (u.rollAsk t m n g).reservations = y.reservations ∧ (u.rollAsk t m n g).stopRequests = s.stopRequests) ∧
    (∀ c, s.grantHeat (s.slotAsk t m n g) = .error c → (u.rollAsk t m n g).reservations = s.reservations ∧
      (u.rollAsk t m n g).stopRequests = s.stopRequests ++ [{ train := t, cause := Cause.heatShort }]) := by
  have hroll : u.rollAsk t m n g = match u.grantHeat (s.slotAsk t m n g) with
      | .ok z => z
      | .error _ => u.requestStop t Cause.heatShort := by
    rw [← h.slotAsk]
    rfl
  refine ⟨fun y hy => ?_, fun c hc => ?_⟩
  · obtain ⟨z, hz, hr⟩ := h.granted hy
    obtain ⟨l, rfl⟩ := grantHeat_frame hz
    rw [hroll, hz]
    exact ⟨hr, h.stopRequests⟩
  · rw [hroll, h.refused hc]
    exact ⟨h.reservations, congrArg (· ++ _) h.stopRequests⟩

/-! ### Starts (R53, R140) -/

theorem State.alike.startCause (t : TrainId) (m : RunMode) (n : Word) (g : Int) :
    u.startCause t m n g = s.startCause t m n g := by
  have hbar : u.scheduleBar t m = s.scheduleBar t m := by
    have hcavern (c : CavernId) : u.cavern c = s.cavern c := cavern_of_caverns h.caverns c
    have hreach : u.reachable t = s.reachable t := by
      unfold State.reachable State.controller State.station
      rw [h.stations, h.cfg]
    have hpermits : u.permitsStart (s.cfg t).cavern m = s.permitsStart (s.cfg t).cavern m := by
      unfold State.permitsStart
      rw [hcavern]
    unfold State.scheduleBar
    rw [h.cfg, hreach, h.ptrip, hpermits, hcavern]
  have hheat : u.heatBar (s.slotAsk t m n g) = s.heatBar (s.slotAsk t m n g) := by
    unfold State.heatBar
    cases hs : s.grantHeat (s.slotAsk t m n g) with
    | ok y =>
      obtain ⟨z, hz, -⟩ := h.granted hs
      rw [hz]
    | error c => rw [h.refused hs]
  unfold State.startCause
  rw [hbar, h.slotAsk, hheat]

end

/-- The checks of a START of origin SCHEDULE as one chain, the heat account unit's last. -/
theorem startCause_chain (s : State) (t : TrainId) (m : RunMode) (n : Word) (g : Int) : s.startCause t m n g =
    if (s.cfg t).kind.allows m = false then some Cause.modeMismatch
    else if s.reachable t = false then some Cause.trainUnreachable
    else if s.ptrip = true then some Cause.tripLineActive
    else if s.permitsStart (s.cfg t).cavern m = false then some Cause.envelopeStart
    else if (s.cavern (s.cfg t).cavern).run.direction ≠ none ∧ (s.cavern (s.cfg t).cavern).run.direction ≠ some m then
      some Cause.directionConflict
    else s.heatBar (s.slotAsk t m n g) := by
  have hor (p : Prop) [Decidable p] (c : Cause) (x o : Option Cause) :
      (if p then some c else x).or o = if p then some c else x.or o := by
    split <;> rfl
  simp only [State.startCause, State.scheduleBar, hor, Option.none_or]

end Sys2Proof.Machine
end

section
/-! PROOF. What a roll and a start come to in a newly opened slot, and how that slot stands to the plant before it (O38). -/

namespace Sys2Proof.Machine

/-! ### A roll (R121) -/

section
variable (s : State) (t : TrainId) (m : RunMode) (n : Word) (g : Int)

/-- The records of a plant `u` after a roll, with no stop requested. -/
def State.rolledTo (u : State) (l : List Reservation) : Prop := u.reservations = l ∧ u.stopRequests = s.stopRequests

/-- A CURRENT grant asked with the records `l`: made, or the train asked to stop. -/
def State.rollAsked (u : State) (l : List Reservation) : Prop :=
  (∀ y, State.grantHeat { s with reservations := l } (s.slotAsk t m n g) = .ok y → s.rolledTo u y.reservations) ∧
    ∀ c, State.grantHeat { s with reservations := l } (s.slotAsk t m n g) = .error c →
      u.reservations = l ∧ u.stopRequests = s.stopRequests ++ [{ train := t, cause := Cause.heatShort }]

variable {s t m} {u : State} (h : u.alike s) (hm : (s.run t).mode = some m)
include h hm

theorem rollHeat_current {r : Reservation} (hr : s.recordOf t .current = some r) :
    ((r.slot.any fun b => n.toNat ≤ b.toNat) = true → s.rolledTo (u.rollHeat t n g) s.reservations) ∧
      ((r.slot.any fun b => n.toNat ≤ b.toNat) = false →
        (∀ x, s.recordOf t .next = some x → s.rolledTo (u.rollHeat t n g) (replaceRecord (s.reservations.erase r) x
          { x with phase := .current, counter := (s.run t).report.counter m })) ∧
        (s.recordOf t .next = none → s.rollAsked t m n g (u.rollHeat t n g) (s.reservations.erase r))) := by
  have hroll : u.rollHeat t n g =
      if r.slot.any fun b => n.toNat ≤ b.toNat then u
      else
        match s.recordOf t .next with
        | some x => (u.modReservations fun l => l.erase r).modReservations fun l =>
            replaceRecord l x { x with phase := .current, counter := (u.run t).report.counter m }
        | none => (u.modReservations fun l => l.erase r).rollAsk t m n g := by
    unfold State.rollHeat
    rw [h.mode, hm, h.recordOf, hr, h.recordOf] <;> rfl
  refine ⟨fun hlater => ?_, fun hearlier => ⟨fun x hx => ?_, fun hx => ?_⟩⟩
  · rw [hroll, if_pos hlater]
    exact ⟨h.reservations, h.stopRequests⟩
  · rw [hroll, hearlier, hx, h.report]
    refine ⟨?_, h.stopRequests⟩
    show replaceRecord (u.reservations.erase r) x _ = _
    rw [h.reservations]
  · rw [hroll, hearlier, hx]
    have herased : u.modReservations (fun l => l.erase r) = { u with reservations := s.reservations.erase r } := by
      rw [← h.reservations]
      rfl
    have hasked := (h.withReservations (s.reservations.erase r)).rollAsk t m n g
    rw [← herased] at hasked
    exact hasked

theorem rollHeat_fresh (hr : s.recordOf t .current = none) :
    ((s.cfg t).heatRatio m = 0 → s.rolledTo (u.rollHeat t n g) s.reservations) ∧
      ((s.cfg t).heatRatio m ≠ 0 → s.rollAsked t m n g (u.rollHeat t n g) s.reservations) := by
  have hroll : u.rollHeat t n g = if (s.cfg t).heatRatio m = 0 then u else u.rollAsk t m n g := by
    unfold State.rollHeat
    rw [h.mode, hm, h.recordOf, hr, h.cfg]
  refine ⟨fun hratio => ?_, fun hratio => ?_⟩
  · rw [hroll, if_pos hratio]
    exact ⟨h.reservations, h.stopRequests⟩
  · rw [hroll, if_neg hratio]
    exact h.rollAsk t m n g

end

/-! ### A start (R53, R54, R140) -/

section
variable {s u : State} {t : TrainId} (h : u.alike s) (hst : (s.run t).state = .standstill) (hg : u.gateOpen = true)
include h hst hg

theorem startToward_refusal {k : Word} {v : Int} {c : Cause} (hc : s.startCause t (signMode v) k v = some c) :
    ((u.startToward t k v).run t).state = .standstill ∧ ((u.startToward t k v).run t).lastCause = some c ∧
      (u.startToward t k v).reservations = s.reservations ∧
      ((u.startToward t k v).faults.ring.getLast?.map fun r => (r.cause, r.train)) = some (c, some t) := by
  rw [startToward_refused ((h.state t).trans hst) hg ((h.startCause t _ k v).trans hc)]
  refine ⟨?_, seqRaise_lastCause u t _, (seqRaise_reservations u t _).trans h.reservations, ?_⟩
  · rw [seqRaise_state, h.state, hst]
  · obtain ⟨r, hr, hcause, htrain⟩ := seqRaise_faults u t { cause := c }
    rw [hr, add_getLast, Option.map_some, hcause, htrain]

theorem startToward_acceptance {k : Word} {v : Int} (hc : s.startCause t (signMode v) k v = none) :
    ((u.startToward t k v).run t).mode = some (signMode v) ∧
      ((u.startToward t k v).run t).state =
        (if (s.run t).engaged = some (signMode v) then TrainState.starting else .engaging) ∧
      ((u.startToward t k v).cavern (s.cfg t).cavern).run.holders.getLsbD t.val = true ∧
      ∀ y, s.grantHeat (s.slotAsk t (signMode v) k v) = .ok y → (u.startToward t k v).reservations = y.reservations := by
  obtain ⟨y, l, q, stops, hy, hu⟩ :=
    startToward_accepted ((h.state t).trans hst) hg ((h.startCause t _ k v).trans hc)
  have htrains : (u.startToward t k v).trains = trainsMod u.trains t fun r => r.begun (u.cfg t) (signMode v) := by rw [hu]
  have hrun := run_of_trainsMod htrains
  have hcaverns : (u.startToward t k v).caverns = claimed u.caverns (u.cfg t).cavern t (signMode v) := by rw [hu]
  have hreservations : (u.startToward t k v).reservations = y.reservations := by rw [hu]
  refine ⟨?_, ?_, ?_, fun z hz => ?_⟩
  · rw [hrun]
    exact (begun_keeps _ _ _).1
  · rw [hrun, ← h.engaged]
    by_cases he : (u.run t).engaged = some (signMode v)
    · rw [if_pos he]
      exact (begun_engaged he _).1
    · rw [if_neg he]
      exact (begun_disengaged he _).1
  · unfold State.cavern
    rw [hcaverns, h.cfg]
    exact claimed_holders _ _ _ _
  · obtain ⟨x, hx, hr⟩ := h.granted hz
    rw [h.slotAsk, hx] at hy
    cases hy
    exact hreservations.trans hr

end

/-! ### The plant before the boundary and the new slot (R136, R137) -/

theorem target_of_active {s : State} {n : Word} (h : s.engine.active = some n) (t : TrainId) :
    s.target t = (s.slots.get (slotPos n)).targets.get t := by
  unfold State.target State.activeSlot
  rw [h]
  rfl

theorem dispatchedAs_of_worked {s : State} {n : Word} {w o : State} (h : s.WorkedAhead n w (o, []) 0) :
    s.DispatchedAs n w o (fun _ => false) false (o, []) :=
  ⟨dispatched_refl _, ⟨0, h⟩, rfl, fun _ => rfl, (List.filter_eq_self.2 fun _ _ => rfl).symm, (Bool.or_false _).symm⟩

section
variable {s : State} {a : Word}

theorem opened_alike : (s.opened a).alike s := by
  have hframe := (opened_advanced (s := s) (a := a)).frame
  refine ⟨?_, ?_, ?_, ?_, ?_, ?_, ?_, opened_cfg, fun t => ?_⟩
  · rw [hframe, advanced_eq]
  · rw [hframe, advanced_eq]
  · rw [hframe, advanced_eq]
  · rw [hframe, advanced_eq]
  · rw [hframe, advanced_eq]
  · rw [hframe, advanced_eq]
  · rw [hframe, advanced_eq]
  · obtain ⟨g, c, hr⟩ := (opened_advanced (s := s) (a := a)).run t
    have hbefore : (s.advanced a).run t = s.run t := run_of_trains (by rw [advanced_eq]) t
    exact ⟨g, c, by rw [hr, hbefore]⟩

theorem opened_gateOpen : (s.opened a).gateOpen = s.gateOpen := by rw [opened_advanced.frame, advanced_eq]

theorem opened_queue : (s.opened a).queue = s.queue := by rw [opened_advanced.frame, advanced_eq]

theorem opened_act : (s.opened a).act.active = s.act.active := by
  rw [opened_advanced.act, advanced_eq]
  exact accumulate_act_active s

variable (ha : s.engine.active = some a) (hlead : s.part.gateLead ≤ 12)
  (hfits : a.toNat + 1 + s.part.gateLead < 4294967296)
include ha hlead hfits

/-- The targets the opening works out are the sums of the contributions before the boundary. -/
theorem advanced_sumsUp : ((s.advanced a).workTargets (slotAfter a 1)).sumsUp (s.contributions s (slotAfter a 1)) := by
  have hcommits := advanced_recordFor ha hlead hfits (Nat.zero_le s.part.gateLead)
  rw [Nat.add_zero] at hcommits
  refine workTargets_sumsUp ?_ hcommits
  rw [advanced_eq]
  exact ⟨rfl, rfl, rfl, rfl, fun _ => rfl⟩

theorem opened_targets (t : TrainId) : ((s.opened a).slots.get (slotPos (slotAfter a 1))).targets.get t =
    sumFor (s.contributions s (slotAfter a 1)).2 t := by
  obtain ⟨b, f, hslot⟩ := opened_get_active ha hlead hfits
  rw [hslot, ← sumsOf_get, ← (advanced_sumsUp ha hlead hfits).sums]

theorem opened_target (t : TrainId) :
    (s.opened a).target t = sumFor (s.contributions s (slotAfter a 1)).2 t := by
  rw [← opened_targets ha hlead hfits]
  exact target_of_active (by rw [opened_engine]) t

theorem opened_undelivered : ((s.opened a).slots.get (slotPos (slotAfter a 1))).flags.undelivered =
    (s.recordFor (slotAfter a 1)).flags.undelivered := by
  obtain ⟨b, f, hslot⟩ := opened_get_active ha hlead hfits
  rw [hslot]

theorem opened_translatesAs : (s.opened a).translatesAs (s.contributions s (slotAfter a 1)).1 := by
  have hframe := (opened_advanced (s := s) (a := a)).frame
  have hsums := (advanced_sumsUp ha hlead hfits).state
  have hkept : ((s.advanced a).workTargets (slotAfter a 1)).state.recachedOf (s.advanced a) := workTargets_recached _ _
  refine ⟨?_, ?_, ?_, ?_, fun t => ?_⟩
  · rw [hframe, ← hsums.cache]
  · rw [hframe, ← hsums.lru]
  · rw [hframe, ← hsums.positions, hkept]
  · rw [hframe, ← hsums.duties, hkept]
  · rw [opened_advanced.cfg, ← hsums.cfg]
    exact (cfg_of_trains (by rw [hkept]) t).symm

theorem opened_recordFor {k : Nat} (hk : k < s.part.gateLead) :
    ((s.opened a).recordFor (slotAfter a (1 + (k + 1)))).commits = (s.recordFor (slotAfter a (1 + (k + 1)))).commits := by
  rw [← advanced_recordFor ha hlead hfits hk]
  refine congrArg Slot.commits (recordFor_congr _ _ (opened_advanced.others _ fun hpos => ?_))
  have := slotPos_window hlead hfits (j := 1 + (k + 1)) (k := 1) (by omega) (by omega) hpos
  omega

/-- The opening as the dispatch of its trains finds it. -/
theorem opened_worked : s.WorkedAhead (slotAfter a 1) (s.contributions s (slotAfter a 1)).1
    ((s.opened a).withPolls [], []) 0 := by
  have htranslates := opened_translatesAs ha hlead hfits
  have hcommits (k : Nat) (hk : k < s.part.ahead) :
      ((s.opened a).recordFor (BitVec.ofNat 32 ((slotAfter a 1).toNat + k + 1))).commits =
        (s.recordFor (BitVec.ofNat 32 ((slotAfter a 1).toNat + k + 1))).commits := by
    have hwithin : k < s.part.gateLead := lt_of_lt_of_le hk (min_le_right _ _)
    have hnext : (slotAfter a 1).toNat + k + 1 = a.toNat + (1 + (k + 1)) := by
      rw [slotAfter_toNat (by omega)]
      omega
    rw [hnext, ← slotAfter_of_lt (by omega)]
    exact opened_recordFor ha hlead hfits hwithin
  have hpart : (s.opened a).part = s.part := opened_alike.part
  generalize s.opened a = o at htranslates hcommits hpart
  exact ⟨Nat.zero_le _, ⟨htranslates.cache, htranslates.lru, htranslates.positions, htranslates.duties, htranslates.cfg⟩,
    rfl, hpart, hcommits⟩

end

end Sys2Proof.Machine
end

section
/-! PROOF. The newly opened slot's dispatch as the specification tells it, train by train (O38). -/

namespace Sys2Proof.Machine

/-! ### A target in a run mode (R136) -/

/-- A target is in a run mode. -/
def agreesWith (v : Int) (m : Mode) : Prop := (m = some .generate ∧ 0 < v) ∨ (m = some .charge ∧ v < 0)

theorem inRunMode_eq_true (v : Int) (m : Mode) : inRunMode v m = true ↔ agreesWith v m := inRunMode_iff v m

/-- A RUNNING train in AUTO. -/
def State.runsInAuto (s : State) (t : TrainId) : Prop := (s.run t).state = .running ∧ (s.run t).auto = true

/-- A train at STANDSTILL in AUTO. -/
def State.restsInAuto (s : State) (t : TrainId) : Prop := (s.run t).state = .standstill ∧ (s.run t).auto = true

/-- Given its target `v`, the active slot or the nearest slot ahead with a target keeps a train in its run mode. -/
def State.goesOn (s : State) (l : AheadList) (t : TrainId) (v : Int) : Prop :=
  agreesWith v (s.run t).mode ∨ (v = 0 ∧ ∃ y ∈ l, agreesWith (sumFor y.2 t) (s.run t).mode)

section
variable {o s : State} (h : o.alike s) (l : AheadList) (t : TrainId)
include h

theorem State.alike.autoRunning : o.autoRunning t = true ↔ s.runsInAuto t := by
  rw [autoRunning_iff, h.state, h.auto]
  rfl

theorem State.alike.misses : o.misses t = true ↔
    o.target t ≠ 0 ∧ ¬ (s.runsInAuto t ∧ agreesWith (o.target t) (s.run t).mode) := by
  unfold State.misses
  rw [Bool.and_eq_true, bne_iff_ne, Bool.not_eq_true', ← Bool.not_eq_true, Bool.and_eq_true, h.autoRunning, h.mode,
    inRunMode_eq_true]

theorem State.alike.leaves : o.leaves l t = true ↔ s.runsInAuto t ∧ ¬ s.goesOn l t (o.target t) := by
  have hahead : (o.target t == 0 && l.any fun y => inRunMode (sumFor y.2 t) (s.run t).mode) = true ↔
      o.target t = 0 ∧ ∃ y ∈ l, agreesWith (sumFor y.2 t) (s.run t).mode := by
    simp only [Bool.and_eq_true, beq_iff_eq, List.any_eq_true, inRunMode_eq_true]
  unfold State.leaves State.goesOn
  rw [h.mode, Bool.and_eq_true, Bool.and_eq_true, Bool.not_eq_true', Bool.not_eq_true', ← Bool.not_eq_true, ← Bool.not_eq_true,
    h.autoRunning, inRunMode_eq_true, hahead, not_or, and_assoc]

theorem State.alike.begins (n : Word) : o.begins l t = true ↔ s.restsInAuto t ∧ o.toward n l t ≠ none := by
  have htoward : (o.target t != 0 || l.any fun y => sumFor y.2 t != 0) = true ↔ o.toward n l t ≠ none := by
    unfold State.toward
    split
    · next ht => simp [ht]
    · next ht => simp [not_not.1 ht]
  unfold State.begins
  rw [Bool.and_eq_true, htoward, Bool.and_eq_true, beq_iff_eq, h.state, h.auto, and_comm (a := (s.run t).auto = true)]
  rfl

end

/-! ### The opening of a slot (R137) -/

/-- `o` is the plant in which slot `n` has been opened from the plant `s`, with no activation in force. -/
structure State.OpenFor (s : State) (n : Word) (o : State) : Prop where
  fits     : n.toNat + s.part.ahead < 4294967296
  active   : o.engine.active = some n
  gateOpen : o.gateOpen = true
  idle     : o.act.active = false
  alike    : o.alike s
  worked   : s.WorkedAhead n (s.contributions s n).1 (o, []) 0
  target   : ∀ t, o.target t = sumFor (s.contributions s n).2 t

/-- The slots ahead of `n` with their contributions. -/
def State.aheadList (s : State) (n : Word) : AheadList := (s.aheadUpTo n (s.contributions s n).1 s.part.ahead).2

/-- The target the boundary works out for a train in slot `n`. -/
def State.slotTarget (s : State) (n : Word) (t : TrainId) : Int := sumFor (s.contributions s n).2 t

section
variable {s : State} {n : Word} {o : State} (h : s.OpenFor n o) (b : TrainId → Nat) {t : TrainId}
include h

theorem State.OpenFor.undelivered : ((o.runSlot n b).slots.get (slotPos n)).flags.undelivered = true ↔
    (o.slots.get (slotPos n)).flags.undelivered = true ∨ ∃ t, (s.cfg t).configured = true ∧
      s.slotTarget n t ≠ 0 ∧ ¬ (s.runsInAuto t ∧ agreesWith (s.slotTarget n t) (s.run t).mode) := by
  rw [runSlot_undelivered h.fits h.active h.gateOpen h.idle (dispatchedAs_of_worked h.worked) b, Bool.or_eq_true,
    List.any_eq_true]
  simp only [mem_configuredTrains, h.alike.misses, h.target, h.alike.cfg, State.slotTarget]

/-- R139: a train that runs on. -/
theorem State.OpenFor.runs_on (hruns : s.runsInAuto t) (hgoes : s.goesOn (s.aheadList n) t (s.slotTarget n t)) :
    (o.runSlot n b).run t = o.run t := by
  refine runSlot_stands h.fits h.active h.gateOpen h.idle (dispatchedAs_of_worked h.worked) b ?_ ?_
  · rw [← Bool.not_eq_true, h.alike.leaves, h.target]
    exact fun hleaves => hleaves.2 hgoes
  · rw [← Bool.not_eq_true, h.alike.begins _ _ n]
    rintro ⟨hrests, -⟩
    have hboth := hruns.1.symm.trans hrests.1
    cases hboth

/-- R139: a train stopped. -/
theorem State.OpenFor.stops (hc : (s.cfg t).configured = true) (hruns : s.runsInAuto t)
    (hgoes : ¬ s.goesOn (s.aheadList n) t (s.slotTarget n t)) :
    (o.runSlot n b).run t = (o.run t).stopped (s.cfg t).stopTimeout ∧ ∀ r ∈ (o.runSlot n b).reservations, r.train ≠ t := by
  rw [← h.alike.cfg]
  refine runSlot_stopped h.fits h.active h.gateOpen h.idle (dispatchedAs_of_worked h.worked) b ?_ ?_
  · rw [h.alike.cfg]
    exact hc
  · rw [h.alike.leaves, h.target]
    exact ⟨hruns, hgoes⟩

theorem State.OpenFor.toward_eq : o.toward n (s.aheadList n) t =
    if s.slotTarget n t ≠ 0 then some (n, s.slotTarget n t)
    else ((s.aheadList n).find? fun y => sumFor y.2 t != 0).map fun y => (y.1, sumFor y.2 t) := by
  unfold State.toward
  rw [h.target]
  rfl

/-- R139, R140: a train that is not dispatched. -/
theorem State.OpenFor.stands (hruns : ¬ s.runsInAuto t)
    (hrests : ¬ s.restsInAuto t ∨ o.toward n (s.aheadList n) t = none) : (o.runSlot n b).run t = o.run t := by
  refine runSlot_stands h.fits h.active h.gateOpen h.idle (dispatchedAs_of_worked h.worked) b ?_ ?_
  · rw [← Bool.not_eq_true, h.alike.leaves]
    exact fun hleaves => hruns hleaves.1
  · rw [← Bool.not_eq_true, h.alike.begins _ _ n]
    rintro ⟨hr, hto⟩
    exact hrests.elim (fun hnot => hnot hr) hto

variable (hone : ∀ v, (s.cfg v).configured = true ↔ v = t)
include hone

theorem State.OpenFor.configuredTrains_one : o.configuredTrains = [t] := by
  have hsame : o.configuredTrains = s.configuredTrains := configuredTrains_congr h.alike.cfg
  have hmem : t ∈ s.configuredTrains := (mem_configuredTrains s t).2 ((hone t).2 rfl)
  obtain ⟨as, bs, hl, hbefore⟩ := split_of_ascending (configuredTrains_ascending s) hmem
  have honly (v : TrainId) (hv : v ∈ s.configuredTrains) : v = t := (hone v).1 ((mem_configuredTrains s v).1 hv)
  have hnodup : (as ++ t :: bs).Nodup := hl ▸ (configuredTrains_ascending s).imp ne_of_lt
  have has : as = [] := List.eq_nil_iff_forall_not_mem.2 fun v hv =>
    absurd (honly v (hl ▸ List.mem_append_left _ hv)) (ne_of_lt (hbefore v hv))
  have hbs : bs = [] := List.eq_nil_iff_forall_not_mem.2 fun v hv => by
    rw [has, List.nil_append] at hnodup
    have hv' : v = t := honly v (hl ▸ List.mem_append_right _ (List.mem_cons_of_mem t hv))
    exact (List.nodup_cons.1 hnodup).1 (hv' ▸ hv)
  rw [hsame, hl, has, hbs]
  rfl

/-- R121: a train alone that runs toward its target has its heat rolled. -/
theorem State.OpenFor.rolls (hruns : s.runsInAuto t) (hagrees : agreesWith (s.slotTarget n t) (s.run t).mode) :
    o.runSlot n b = o.rollHeat t n (s.slotTarget n t) := by
  have hrolls := runSlot_rolls (h.configuredTrains_one hone) h.gateOpen h.idle (n := n) b ((h.alike.autoRunning t).2 hruns)
    (by rw [h.target, h.alike.mode, inRunMode_eq_true]; exact hagrees)
  rw [hrolls, h.target]
  rfl

/-- R140: a train alone at STANDSTILL is started, from a plant that reads alike. -/
theorem State.OpenFor.starts (hrests : s.restsInAuto t) {k : Word} {v : Int}
    (hto : o.toward n (s.aheadList n) t = some (k, v)) :
    ∃ z : State, z.alike s ∧ z.gateOpen = true ∧ o.runSlot n b = z.startToward t k v := by
  obtain ⟨hst, hauto⟩ := hrests
  obtain ⟨c, l, r, hz⟩ := runSlot_starts h.fits h.worked (h.configuredTrains_one hone) h.gateOpen h.idle b
    ((h.alike.state t).trans hst) ((h.alike.auto t).trans hauto) hto
  exact ⟨{ o with cache := c, lru := l, slots := r }, ⟨h.alike.part, h.alike.ptrip, h.alike.stations, h.alike.caverns, h.alike.stores, h.alike.reservations,
    h.alike.stopRequests, h.alike.cfg, h.alike.run⟩, h.gateOpen, hz⟩

end

/-! ### The boundary's slot -/

section
variable {s : State} {a : Word} (ha : s.engine.active = some a) (hlead : s.part.gateLead ≤ 12)
  (hfits : a.toNat + 1 + s.part.gateLead < 4294967296)
include ha hlead hfits

theorem opened_openFor (hg : s.gateOpen = true) (hact : s.act.active = false) :
    s.OpenFor (slotAfter a 1) ((s.opened a).withPolls []) := by
  have hnext : (slotAfter a 1).toNat = a.toNat + 1 := slotAfter_toNat (by omega)
  have hwithin : s.part.ahead ≤ s.part.gateLead := min_le_right _ _
  have hengine := congrArg Engine.active (opened_engine (s := s) (a := a))
  have hgate := (opened_gateOpen (s := s) (a := a)).trans hg
  have hidle := (opened_act (s := s) (a := a)).trans hact
  have halike := opened_alike (s := s) (a := a)
  have hworked := opened_worked ha hlead hfits
  have htarget := opened_target ha hlead hfits
  generalize s.opened a = o at hengine hgate hidle halike hworked htarget
  exact ⟨by omega, hengine, hgate, hidle, ⟨halike.part, halike.ptrip, halike.stations, halike.caverns, halike.stores,
    halike.reservations, halike.stopRequests, halike.cfg, halike.run⟩, hworked, htarget⟩

end

theorem afterOpening_open {o : State} (hg : o.gateOpen = true) (n : Word) (b : TrainId → Nat) :
    ∃ l q, o.afterOpening n b = { (o.withPolls []).runSlot n b with link := l, queue := q } := by
  unfold State.afterOpening
  rw [if_pos hg, pollsLast_frame]
  exact ⟨_, _, rfl⟩

theorem afterOpening_shut {o : State} {n : Word} (hg : o.gateOpen = false) (hactive : o.engine.active = some n)
    (b : TrainId → Nat) : ∃ v, o.afterOpening n b = { o with slots := v } ∧
      ((v.get (slotPos n)).flags.undelivered = true ↔
        (o.slots.get (slotPos n)).flags.undelivered = true ∨ ∃ t, o.target t ≠ 0) := by
  have hany : ((fins 6).any fun t => o.target t != 0) = true ↔ ∃ t, o.target t ≠ 0 := by
    simp [List.any_eq_true, mem_fins]
  unfold State.afterOpening State.closedUndelivered
  rw [if_neg (by simp [hg])]
  split
  · next ht =>
    refine ⟨o.undelivered.slots, undelivered_frame o, ?_⟩
    rw [State.undelivered, modActive_of_active _ hactive]
    show ((modAt o.slots _ _).get _).flags.undelivered = true ↔ _
    rw [modAt_get_same]
    exact iff_of_true rfl (.inr (hany.1 ht))
  · next ht =>
    refine ⟨o.slots, rfl, ?_⟩
    rw [hany] at ht
    simp only [ht, or_false]

end Sys2Proof.Machine
end

section
/-! PROOF. O38: a boundary settles the slot it closes and dispatches the one it opens. -/

namespace Sys2Proof.Machine

/-! ### The dispatch of a boundary, clause by clause -/

section
variable {s : State} {n : Word} {o : State} (h : s.OpenFor n o) (b : TrainId → Nat) {t : TrainId}
include h

/-- R139, R140: a configured train runs on, stops or stands. -/
theorem State.OpenFor.train (hc : (s.cfg t).configured = true) : let u := o.runSlot n b
    (s.runsInAuto t → s.goesOn (s.aheadList n) t (s.slotTarget n t) → (u.run t).state = .running ∧
      (u.run t).power = (s.run t).power ∧ (u.run t).timer = (s.run t).timer) ∧
    (s.runsInAuto t → ¬ s.goesOn (s.aheadList n) t (s.slotTarget n t) → (u.run t).state = .stopping ∧
      (u.run t).power = 0 ∧ (u.run t).timer = some (.stop, (s.cfg t).stopTimeout * 1000) ∧
      ∀ r ∈ u.reservations, r.train ≠ t) ∧
    (¬ s.runsInAuto t → ¬ s.restsInAuto t ∨ o.toward n (s.aheadList n) t = none → (u.run t).state = (s.run t).state ∧
      (u.run t).timer = (s.run t).timer ∧ (u.run t).lastCause = (s.run t).lastCause) := by
  obtain ⟨g, c, hrun⟩ := h.alike.run t
  refine ⟨fun hruns hgoes => ?_, fun hruns hgoes => ?_, fun hruns hrests => ?_⟩
  · rw [h.runs_on b hruns hgoes, hrun]
    exact ⟨hruns.1, rfl, rfl⟩
  · obtain ⟨hstopped, hnone⟩ := h.stops b hc hruns hgoes
    have hstate : (o.run t).state = .running := (h.alike.state t).trans hruns.1
    rw [hstopped, stopped_eq, if_pos hstate]
    exact ⟨rfl, rfl, rfl, hnone⟩
  · rw [h.stands b hruns hrests, hrun]
    exact ⟨rfl, rfl, rfl⟩

variable (hone : ∀ v, (s.cfg v).configured = true ↔ v = t)
include hone

/-- R121: the heat of a train alone rolled. -/
theorem State.OpenFor.train_rolls {m : RunMode} (hruns : s.runsInAuto t) (hm : (s.run t).mode = some m)
    (hagrees : agreesWith (s.slotTarget n t) (some m)) : let u := o.runSlot n b
    (∀ r, s.recordOf t .current = some r →
      ((r.slot.any fun b => n.toNat ≤ b.toNat) = true → s.rolledTo u s.reservations) ∧
      ((r.slot.any fun b => n.toNat ≤ b.toNat) = false →
        (∀ x, s.recordOf t .next = some x → s.rolledTo u (replaceRecord (s.reservations.erase r) x
          { x with phase := .current, counter := (s.run t).report.counter m })) ∧
        (s.recordOf t .next = none → s.rollAsked t m n (s.slotTarget n t) u (s.reservations.erase r)))) ∧
    (s.recordOf t .current = none → (s.cfg t).heatRatio m = 0 → s.rolledTo u s.reservations) ∧
    (s.recordOf t .current = none → (s.cfg t).heatRatio m ≠ 0 →
      s.rollAsked t m n (s.slotTarget n t) u s.reservations) := by
  intro u
  have hu : u = o.rollHeat t n (s.slotTarget n t) := h.rolls b hone hruns (by rw [hm]; exact hagrees)
  rw [hu]
  exact ⟨fun r hr => rollHeat_current n _ h.alike hm hr, fun hr => (rollHeat_fresh n _ h.alike hm hr).1,
    fun hr => (rollHeat_fresh n _ h.alike hm hr).2⟩

/-- R140: a train alone started. -/
theorem State.OpenFor.train_starts {k : Word} {v : Int} (hto : o.toward n (s.aheadList n) t = some (k, v))
    (hrests : s.restsInAuto t) : let u := o.runSlot n b
    (∀ c, s.startCause t (signMode v) k v = some c → (u.run t).state = .standstill ∧ (u.run t).lastCause = some c ∧
      u.reservations = s.reservations ∧ (u.faults.ring.getLast?.map fun r => (r.cause, r.train)) = some (c, some t)) ∧
    (s.startCause t (signMode v) k v = none → (u.run t).mode = some (signMode v) ∧
      (u.run t).state = (if (s.run t).engaged = some (signMode v) then TrainState.starting else .engaging) ∧
      (u.cavern (s.cfg t).cavern).run.holders.getLsbD t.val = true ∧
      ∀ y, s.grantHeat (s.slotAsk t (signMode v) k v) = .ok y → u.reservations = y.reservations) := by
  intro u
  obtain ⟨z, halike, hgate, hu⟩ := h.starts b hone hrests hto
  change u = _ at hu
  rw [hu]
  exact ⟨fun c hc => startToward_refusal halike hrests.1 hgate hc,
    fun hc => startToward_acceptance halike hrests.1 hgate hc⟩

end

/-! ### The obligation -/

/-- Settles O38: each step of the boundary leaves the ring's records and the engine as the next one needs them; with no
activation in force the targets ahead are worked out as one search of all of them would, and each train's turn touches
that train alone. -/
theorem boundarySettlesAndDispatches : Obligations.BoundarySettlesAndDispatches := by
  unfold Obligations.BoundarySettlesAndDispatches
  refine ⟨fun s a ms ha hb hrange hfits => ?_, fun s a ms ha hb hrange hfits _ hact => ?_⟩
  · have hslot : slotAfter a 1 = BitVec.ofNat 32 (a.toNat + 1) := slotAfter_of_lt (by omega)
    have hsettles := boundary_settles ha hb hrange hfits
    rw [hslot] at hsettles
    exact hsettles
  · obtain ⟨-, -, -, -, -, ⟨-, hlead⟩, -⟩ := hrange
    have hslot : slotAfter a 1 = BitVec.ofNat 32 (a.toNat + 1) := slotAfter_of_lt (by omega)
    have hexec := exec_boundary ha hb
    have hdispatched := afterOpening_dispatched (s.opened a) (slotAfter a 1) s.base
    have hactive : (s.opened a).engine.active = some (slotAfter a 1) := by rw [opened_engine]
    have halike := opened_alike (s := s) (a := a)
    have hgate := opened_gateOpen (s := s) (a := a)
    have hqueue := opened_queue (s := s) (a := a)
    have hopen := fun hg => opened_openFor ha hlead hfits hg hact
    have htargets := opened_targets ha hlead hfits
    have htarget := opened_target ha hlead hfits
    have hmark := opened_undelivered ha hlead hfits
    generalize s.opened a = o at hexec hdispatched hactive halike hgate hqueue hopen htargets htarget hmark
    rw [hslot] at hexec hdispatched hactive hopen htargets htarget hmark
    intro n resolve targets target opened ahead g agrees runs rests goes toward
    refine ⟨o.afterOpening n s.base, hexec, fun t => ?_, fun hg => ?_, fun hg => ?_⟩
    · obtain ⟨b, hslots⟩ := hdispatched.slots (slotPos n)
      rw [hslots]
      exact htargets t
    · obtain ⟨v, hu, hflag⟩ := afterOpening_shut (hgate.trans hg) hactive s.base
      rw [hmark] at hflag
      simp only [htarget] at hflag
      rw [hu]
      refine ⟨hqueue, halike.reservations, halike.stopRequests, fun t => ⟨halike.state t, ?_⟩, hflag⟩
      have hpower : (o.run t).power = (s.run t).power := by
        obtain ⟨c, d, hr⟩ := halike.run t
        rw [hr]
      exact hpower
    · have hopened := hopen hg
      obtain ⟨l, q, hu⟩ := afterOpening_open (hgate.trans hg) n s.base
      rw [hu]
      have hflag := hopened.undelivered s.base
      rw [show ((o.withPolls []).slots.get (slotPos n)).flags.undelivered = _ from hmark] at hflag
      have htrain := fun t => hopened.train s.base (t := t)
      have hrolls := fun t => hopened.train_rolls s.base (t := t)
      have hstarts := fun t => hopened.train_starts s.base (t := t)
      have htoward := fun t => hopened.toward_eq (t := t)
      simp only [htoward] at htrain hstarts
      simp only [startCause_chain] at hstarts
      generalize (o.withPolls []).runSlot n s.base = v at hflag htrain hrolls hstarts
      refine ⟨hflag, fun t hc => htrain t hc, fun t hone => ⟨fun m hruns hm hagrees => ?_, fun b g hto hrests => ?_⟩⟩
      · have hrolled := hrolls t hone hruns hm hagrees
        cases m <;> exact hrolled
      · exact hstarts t hone hto hrests

end Sys2Proof.Machine
end

section
/-! PROOF. A SCHEDULE taken item by item, and what each item makes of the slot ring (O36, R126 to R129). -/

namespace Sys2Proof.Machine

/-! ### A SCHEDULE taken from its desk (R3, R5, R127) -/

/-- A SCHEDULE with header `h` is taken, from the source `src` (R3, R5). -/
def State.schedules (s : State) (h : Header) (src : Source) : Prop :=
  h.dst = s.part.address ∧ s.sourceOf .u h (fun e => e.role == .desk) = some src

section
variable {s : State} {h : Header} {src : Source}

theorem exec_schedule {items : List Item} (hs : s.schedules h src) (hn : items.length ≤ 16) :
    exec (.schedule h items) s = .next (s.takeSchedule src items) := by
  obtain ⟨hown, hsource⟩ := hs
  refine congrArg Host.Outcome.next ?_
  rw [State.arriveSchedule, formed_of_suits s h _ hn rfl, steered_accepted _ _ _ _ (isOwn_true hown),
    sourced_of_sourceOf _ hsource]

theorem exec_schedule_one (hs : s.schedules h src) (i : Item) :
    exec (.schedule h [i]) s = .next (State.scheduleItem src s i) :=
  exec_schedule hs (by simp)

/-- A slot item leaves who the telegram comes from. -/
theorem scheduleItem_schedules (hs : s.schedules h src) (i : Item) : (State.scheduleItem src s i).schedules h src := by
  obtain ⟨hpart, -, -, -, -, -, -, -, -, hstations, -⟩ :=
    (tablesFrame s).toKeepsPlant.scheduleItem (tablesKept_refl s) src i
  obtain ⟨hown, hsource⟩ := hs
  exact ⟨by rw [hpart, hown], by rw [sourceOf_congr hstations, hsource]⟩

theorem exec_schedule_cons (hs : s.schedules h src) (i : Item) {rest : List Item} (hn : rest.length ≤ 15) :
    exec (.schedule h (i :: rest)) s = exec (.schedule h rest) (State.scheduleItem src s i) := by
  rw [exec_schedule hs (by simp; omega), exec_schedule (scheduleItem_schedules hs i) (by omega)]
  rfl

end

/-! ### Refusals before an item acts (R127) -/

/-- The three kinds of a SCHEDULE item (R127): COMMIT, FIRM and WITHDRAW. -/
def slotKind (k : Byte) : Prop := k = 0x30 ∨ k = 0x31 ∨ k = 0x32

theorem slotKind_iff (k : Byte) : slotKind k ↔ 0x30 ≤ k.toNat ∧ k.toNat ≤ 0x32 := by
  simp only [slotKind, ← BitVec.toNat_inj, BitVec.reduceToNat]
  omega

section
variable (s : State) (n : Word)

/-- Slot `n` is the active slot, an earlier one, or within the gate lead (R127). -/
def State.late : Prop := ∃ a, s.engine.active = some a ∧ n.toNat ≤ a.toNat + s.part.gateLead

/-- Slot `n` is beyond the ring's window (R127). -/
def State.far : Prop := ∃ a, s.engine.active = some a ∧ a.toNat + 47 < n.toNat

/-- Slot `n` holds its position and has passed gate closure (R127, R130). -/
def State.passed : Prop := (s.slotAt n).number = n ∧ (s.slotAt n).gatePassed = true

/-- The position of slot `n` is held by another slot and cannot be recycled (R126). -/
def State.taken : Prop :=
  (s.slotAt n).number ≠ n ∧ (s.slotAt n).state ≠ .free ∧ (s.slotAt n).state ≠ .closed ∧ s.engine.active = none

theorem late_iff : s.late n ↔ (s.engine.active.any fun a => n.toNat ≤ a.toNat + s.part.gateLead) = true := by
  simp [State.late, Option.any_eq_true]

theorem far_iff : s.far n ↔ (s.engine.active.any fun a => a.toNat + 47 < n.toNat) = true := by
  simp [State.far, Option.any_eq_true]

theorem taken_iff : s.taken n ↔ (s.slotAt n).number ≠ n ∧
    ((s.slotAt n).state == .free || (s.slotAt n).state == .closed || s.engine.active.isSome) = false := by
  simp [State.taken, and_assoc]

variable {s n} {k : Byte}

theorem slotRefusal_otherKind (hk : ¬ slotKind k) : s.slotRefusal k n = some Cause.kindIllegal :=
  if_pos ((slotKind_iff k).not.1 hk)

open Classical in
/-- R127: the refusals of an item of a kind a SCHEDULE takes, in their order. -/
theorem slotRefusal_slotKind (hk : slotKind k) : s.slotRefusal k n =
    if s.late n then some Cause.slotGateClosed
    else if s.far n then some Cause.slotOutOfWindow
    else if s.passed n then some Cause.slotGateClosed
    else if s.taken n then some Cause.slotOutOfWindow
    else none :=
  (if_neg (not_not_intro ((slotKind_iff k).1 hk))).trans <|
    if_congr (late_iff s n).symm rfl <| if_congr (far_iff s n).symm rfl <| if_congr Iff.rfl rfl <|
      if_congr (taken_iff s n).symm rfl rfl

end

/-! ### Items that act (R128, R129) -/

section
variable (s : State) (src : Source) (i : Item)

theorem scheduleItem_refused {c : Cause} (h : s.slotRefusal i.kind i.auxA = some c) :
    State.scheduleItem src s i = s.raise (slotFault src i c) := by
  unfold State.scheduleItem
  dsimp only
  rw [h]

theorem scheduleItem_fails {c : Cause} (h : s.slotRefusal i.kind i.auxA = none)
    (hact : s.actOnSlot src i (s.recordFor i.auxA) = .error c) :
    State.scheduleItem src s i = s.raise (slotFault src i c) := by
  unfold State.scheduleItem
  dsimp only
  rw [h, hact]

theorem scheduleItem_acts {x : Slot} (h : s.slotRefusal i.kind i.auxA = none)
    (hact : s.actOnSlot src i (s.recordFor i.auxA) = .ok x) : State.scheduleItem src s i = s.putSlot i.auxA x := by
  unfold State.scheduleItem
  dsimp only
  rw [h, hact]

variable {i} (r : Slot)

theorem actOnSlot_firm (hk : i.kind = 0x31) :
    s.actOnSlot src i r = .ok { r with state := .firm, desk := some src.entry } := by
  simp [State.actOnSlot, hk]

theorem actOnSlot_withdraw (hk : i.kind = 0x32) :
    s.actOnSlot src i r = .ok { r with commits := [], state := .free, desk := some src.entry } := by
  simp [State.actOnSlot, hk]

theorem actOnSlot_commit (hk : i.kind = 0x30) : s.actOnSlot src i r = s.commitItem src i r := if_pos hk

theorem commitItem_notPosition (href : i.refKind ≠ 3) : s.commitItem src i r = .error Cause.kindIllegal := if_pos href

theorem commitItem_unused (href : i.refKind = 3) (hid : 128 ≤ i.refId.toNat) :
    s.commitItem src i r = .error Cause.positionUnused :=
  (if_neg (not_not_intro href)).trans (dif_neg (by omega))

/-- The commitment a COMMIT item carries for a position (R128). -/
def commitOf (i : Item) (p : Fin 128) : Commit :=
  { position := p, power := i.value.toInt, up := readReserve i.auxB, down := readReserve i.auxC }

theorem commitItem_position {p : Fin 128} (href : i.refKind = 3) (hid : i.refId.toNat = p.val) : s.commitItem src i r =
    if (s.positions.get p).desk ≠ some src.entry then .error Cause.positionForeign
    else match placeCommit r.commits (commitOf i p) with
      | some l => .ok { r with commits := l, state := .provisional, desk := some src.entry }
      | none => .error Cause.slotFull := by
  have hlt : i.refId.toNat < 128 := hid ▸ p.isLt
  obtain rfl : p = ⟨i.refId.toNat, hlt⟩ := Fin.ext hid.symm
  exact (if_neg (not_not_intro href)).trans (dif_pos hlt)

variable {s src r} {p : Fin 128} (href : i.refKind = 3) (hid : i.refId.toNat = p.val)
include href hid

theorem commitItem_foreign (hdesk : (s.positions.get p).desk ≠ some src.entry) :
    s.commitItem src i r = .error Cause.positionForeign := by
  rw [commitItem_position s src r href hid, if_pos hdesk]

variable (hdesk : (s.positions.get p).desk = some src.entry)
include hdesk

theorem commitItem_placed {c : Commit} {l : List Commit} (hc : commitOf i p = c) (hl : placeCommit r.commits c = some l) :
    s.commitItem src i r = .ok { r with commits := l, state := .provisional, desk := some src.entry } := by
  rw [commitItem_position s src r href hid, if_neg (not_not_intro hdesk), hc, hl]

theorem commitItem_full {c : Commit} (hc : commitOf i p = c) (hl : placeCommit r.commits c = none) :
    s.commitItem src i r = .error Cause.slotFull := by
  rw [commitItem_position s src r href hid, if_neg (not_not_intro hdesk), hc, hl]

end

/-! ### Commitments placed (R128) -/

section
variable {l : List Commit} {c : Commit}

theorem readReserve_eq (w : Word) : readReserve w = (max w.toInt 0).toNat := by
  unfold readReserve
  omega

theorem placeCommit_replaces (h : ∃ d ∈ l, d.position = c.position) :
    placeCommit l c = some (l.map fun d => if d.position = c.position then c else d) :=
  if_pos (by simpa using h)

variable (h : ∀ d ∈ l, d.position ≠ c.position)
include h

theorem placeCommit_joins (hl : l.length < 8) : placeCommit l c = some (l ++ [c]) :=
  (if_neg (by simpa using h)).trans (if_neg (by omega))

theorem placeCommit_full (hl : 8 ≤ l.length) : placeCommit l c = none :=
  (if_neg (by simpa using h)).trans (if_pos hl)

end

/-! ### The obligation -/

/-- Settles O36: an item is refused by the first test of R127 that its slot meets, or by its own act on the record, or
puts the record it makes in place. -/
theorem scheduleItemsActOnTheRing : Obligations.ScheduleItemsActOnTheRing := by
  unfold Obligations.ScheduleItemsActOnTheRing
  intro h i rest s src hown hsource hrest n old here refused put late far passed taken x
  have hs : s.schedules h src := ⟨hown, hsource⟩
  have hhere : here = .next (State.scheduleItem src s i) := exec_schedule_one hs i
  have hrefused {c : Cause} (hc : s.slotRefusal i.kind n = some c) : here = refused c :=
    hhere.trans (congrArg Host.Outcome.next (scheduleItem_refused s src i hc))
  refine ⟨exec_schedule hs (by simp), ⟨_, hhere, exec_schedule_cons hs i hrest⟩,
    fun h0 h1 h2 => hrefused (slotRefusal_otherKind fun hk => hk.elim h0 fun hk => hk.elim h1 h2), fun hk => ?_⟩
  have horder := slotRefusal_slotKind (s := s) (n := n) hk
  refine ⟨fun (hlate : s.late n) => hrefused ?_, fun (hlate : ¬ s.late n) (hfar : s.far n) => hrefused ?_,
    fun (hlate : ¬ s.late n) (hfar : ¬ s.far n) (hpassed : s.passed n) => hrefused ?_,
    fun (hlate : ¬ s.late n) (hfar : ¬ s.far n) (htaken : s.taken n) => hrefused ?_,
    fun (hlate : ¬ s.late n) (hfar : ¬ s.far n) (hpassed : ¬ s.passed n) (htaken : ¬ s.taken n) => ?_⟩
  · rw [horder, if_pos hlate]
  · rw [horder, if_neg hlate, if_pos hfar]
  · rw [horder, if_neg hlate, if_neg hfar, if_pos hpassed]
  · rw [horder, if_neg hlate, if_neg hfar, if_neg fun hpassed => htaken.1 hpassed.1, if_pos htaken]
  have hadmitted : s.slotRefusal i.kind n = none := by
    rw [horder, if_neg hlate, if_neg hfar, if_neg hpassed, if_neg htaken]
  have hput {y : Slot} (hy : s.actOnSlot src i x = .ok y) : here = put y :=
    hhere.trans (congrArg Host.Outcome.next (scheduleItem_acts s src i hadmitted hy))
  have hfails {c : Cause} (hc : s.actOnSlot src i x = .error c) : here = refused c :=
    hhere.trans (congrArg Host.Outcome.next (scheduleItem_fails s src i hadmitted hc))
  refine ⟨fun hfirm => hput (actOnSlot_firm s src x hfirm), fun hwithdraw => hput (actOnSlot_withdraw s src x hwithdraw),
    fun hcommit href => hfails ?_, fun hcommit href hid => hfails ?_, fun p hcommit href hid => ?_⟩
  · rw [actOnSlot_commit s src x hcommit, commitItem_notPosition s src x href]
  · rw [actOnSlot_commit s src x hcommit, commitItem_unused s src x href hid]
  intro c
  have hc : commitOf i p = c := by
    unfold commitOf
    rw [readReserve_eq, readReserve_eq]
  have hact := actOnSlot_commit s src x hcommit
  refine ⟨fun hforeign => hfails ?_, fun hdesk hnew hroom => hput ?_, fun hdesk hnew hfull => hfails ?_,
    fun hdesk hold => hput ?_⟩
  · rw [hact, commitItem_foreign href hid hforeign]
  · rw [hact, commitItem_placed href hid hdesk hc (placeCommit_joins hnew hroom)]
  · rw [hact, commitItem_full href hid hdesk hc (placeCommit_full hnew hfull)]
  · rw [hact, commitItem_placed href hid hdesk hc (placeCommit_replaces hold)]

end Sys2Proof.Machine
end

section
/-! PROOF. The slot a time mark opens, and the slots that pass gate closure with it (O37, R130, R132). -/

namespace Sys2Proof.Machine

/-! ### Gate closure of the slots ahead (R130) -/

/-- A slot's record as gate closure leaves it (R130). -/
def Slot.gateClosed (x : Slot) : Slot :=
  match x.state with
  | .active | .closed => x
  | _ => { x with state := .firm, gatePassed := true }

theorem gateClosed_number (x : Slot) : x.gateClosed.number = x.number := by
  unfold Slot.gateClosed
  split <;> rfl

theorem gateClosed_firm {x : Slot} (ha : x.state ≠ .active) (hc : x.state ≠ .closed) :
    x.gateClosed.state = .firm ∧ x.gateClosed.gatePassed = true := by
  unfold Slot.gateClosed
  split
  · next h => exact absurd h ha
  · next h => exact absurd h hc
  · exact ⟨rfl, rfl⟩

section
variable (s : State)

/-- A record that is not FREE is the one its position holds, a recycled one being FREE (R126). -/
theorem slotAt_of_used {n : Word} (h : (s.recordFor n).state ≠ .free) : s.slots.get (slotPos n) = s.recordFor n := by
  unfold State.recordFor at h ⊢
  split
  · rfl
  · next hn =>
    rw [if_neg hn] at h
    exact absurd rfl h

/-- The record of a slot whose position holds another, or one neither ACTIVE nor CLOSED, is neither itself (R126). -/
theorem recordFor_loaded {n : Word}
    (h : (s.slotAt n).number ≠ n ∨ (s.slotAt n).state ≠ .active ∧ (s.slotAt n).state ≠ .closed) :
    (s.recordFor n).state ≠ .active ∧ (s.recordFor n).state ≠ .closed := by
  unfold State.recordFor
  split
  · next hn => exact h.resolve_left (not_not_intro hn)
  · exact ⟨nofun, nofun⟩

theorem passGate_get_same (n : Word) : (s.passGate n).slots.get (slotPos n) = (s.recordFor n).gateClosed := by
  have hused := slotAt_of_used s (n := n)
  unfold State.passGate Slot.gateClosed
  dsimp only
  generalize hr : s.recordFor n = r at hused
  obtain ⟨_, state, _⟩ := r
  cases state
  case active => exact hused nofun
  case closed => exact hused nofun
  all_goals exact (putSlot_get s n _ _).trans (if_pos rfl)

/-- The slots a fold of R130 has come to are past gate closure, the others as they stood. -/
theorem foldl_passGate_get {n : Word} {lead : Nat} (hlead : lead < 48) (hfits : n.toNat + lead < 4294967296) {k : Nat}
    (hk : k < lead) : ∀ j, j ≤ lead →
    ((List.range j).foldl (fun s k => s.passGate (slotAfter n (k + 1))) s).slots.get (slotPos (slotAfter n (k + 1))) =
      if k < j then (s.recordFor (slotAfter n (k + 1))).gateClosed else s.slots.get (slotPos (slotAfter n (k + 1))) := by
  intro j
  induction j with
  | zero => intro _; rfl
  | succ j ih =>
    intro hj
    have hbefore := ih (by omega)
    rw [List.range_succ, List.foldl_append]
    generalize (List.range j).foldl (fun s k => s.passGate (slotAfter n (k + 1))) s = u at hbefore
    show (u.passGate (slotAfter n (j + 1))).slots.get _ = _
    by_cases he : k = j
    · subst he
      rw [if_neg (Nat.lt_irrefl k)] at hbefore
      rw [passGate_get_same, recordFor_congr _ _ hbefore, if_pos (Nat.lt_succ_self k)]
    · have hother : slotPos (slotAfter n (k + 1)) ≠ slotPos (slotAfter n (j + 1)) := fun h => by
        have := slotPos_slotAfter_inj (a := n) (by omega) (by omega) (by omega) (by omega) h
        omega
      rw [passGate_get_other u hother, hbefore]
      exact if_congr (by omega) rfl rfl

theorem closeGateAhead_get_ahead {n : Word} (hlead : s.part.gateLead ≤ 12)
    (hfits : n.toNat + s.part.gateLead < 4294967296) {k : Nat} (hk : k < s.part.gateLead) :
    (s.closeGateAhead n).slots.get (slotPos (slotAfter n (k + 1))) = (s.recordFor (slotAfter n (k + 1))).gateClosed :=
  (foldl_passGate_get s (by omega) hfits hk _ le_rfl).trans (if_pos hk)

end

/-! ### The slot entered (R132) -/

section
variable (s : State) (n : Word) (o : Nat)

/-- The engine as a mark for slot `n` at offset `o` sets it (R132). -/
def State.markedEngine : Engine :=
  { active := some n
    boundary := some (seconds (s.part.slotLength - o))
    pre := preTimer s.part o
    ramp := some (seconds s.part.rampStep)
    step := s.part.rampStep
    mark := some (seconds s.part.markLimit) }

/-- The record a mark makes ACTIVE, but for what its opening adds (R132). -/
def State.enteredRecord : Slot :=
  { (if (s.recordFor n).state = .closed then recycled n else s.recordFor n) with state := .active, gatePassed := true }

/-- Slot `n` ACTIVE at offset `o`, before gate closure moves on and the slot opens (R132). -/
def State.entered : State := { s.putSlot n (s.enteredRecord n) with engine := s.markedEngine n o }

theorem synchronise_eq (b : TrainId → Nat) : s.synchronise n o b =
    (((s.entered n o).closeGateAhead n).openSlot n).afterOpening n b := rfl

theorem enteredRecord_number : (s.enteredRecord n).number = n := by
  show (if (s.recordFor n).state = .closed then recycled n else s.recordFor n).number = n
  split
  · rfl
  · exact recordFor_number s n

/-- What a mark that opens slot `n` at offset `o` leaves of the plant it finds. -/
structure State.Synchronised (s : State) (n : Word) (o : Nat) (u : State) : Prop where
  engine     : u.engine = s.markedEngine n o
  cfg        : ∀ t, u.cfg t = s.cfg t
  number     : (u.slots.get (slotPos n)).number = n
  active     : (u.slots.get (slotPos n)).state = .active
  gatePassed : (u.slots.get (slotPos n)).gatePassed = true
  ahead      : ∀ k, k < s.part.gateLead → ∃ b,
    u.slots.get (slotPos (slotAfter n (k + 1))) = (s.recordFor (slotAfter n (k + 1))).gateClosed.marked b

variable {s n}

theorem synchronise_synchronised (hlead : s.part.gateLead ≤ 12) (hfits : n.toNat + s.part.gateLead < 4294967296)
    (b : TrainId → Nat) : s.Synchronised n o (s.synchronise n o b) := by
  have hahead (k : Nat) (hk : k < s.part.gateLead) : slotPos (slotAfter n (k + 1)) ≠ slotPos n := fun h => by
    have := slotPos_slotAfter_inj (a := n) (j := k + 1) (k := 0) (by omega) (by omega) (by omega) (by omega)
      (by rwa [slotAfter_zero])
    omega
  have hentered (p : Fin 48) : (s.entered n o).slots.get p = if p = slotPos n then s.enteredRecord n else s.slots.get p :=
    putSlot_get s n _ p
  have hgates := closeGateAhead_frame (s.entered n o) n
  have hclosed : ((s.entered n o).closeGateAhead n).slots.get (slotPos n) = s.enteredRecord n := by
    rw [closeGateAhead_get_other (s.entered n o) fun k hk => (hahead k hk).symm, hentered, if_pos rfl]
  have hpassed (k : Nat) (hk : k < s.part.gateLead) :
      ((s.entered n o).closeGateAhead n).slots.get (slotPos (slotAfter n (k + 1))) =
        (s.recordFor (slotAfter n (k + 1))).gateClosed := by
    rw [closeGateAhead_get_ahead (s.entered n o) hlead hfits hk,
      recordFor_congr _ _ ((hentered _).trans (if_neg (hahead k hk)))]
  rw [synchronise_eq]
  generalize (s.entered n o).closeGateAhead n = w at hgates hclosed hpassed
  have hopened := openSlot_opened w (n := n) (by rw [hgates]; rfl)
  have hdispatched := afterOpening_dispatched (w.openSlot n) n b
  generalize (w.openSlot n).afterOpening n b = u at hdispatched
  obtain ⟨c, f, hactive⟩ := hopened.active
  obtain ⟨m, hslot⟩ := hdispatched.slots (slotPos n)
  rw [hactive, hclosed] at hslot
  refine ⟨?_, fun t => ?_, ?_, ?_, ?_, fun k hk => ?_⟩
  · rw [hdispatched.engine, hopened.frame, hgates]
    rfl
  · rw [hdispatched.cfg, hopened.cfg, hgates]
    rfl
  · rw [hslot]
    exact enteredRecord_number s n
  · rw [hslot]
    rfl
  · rw [hslot]
    rfl
  · rw [← hpassed k hk, ← hopened.others _ (hahead k hk)]
    exact hdispatched.slots _

end

end Sys2Proof.Machine
end

section
/-! PROOF. Time marks that open a slot, correct the active one, move the engine on or are refused (O37, R131 to R134). -/

namespace Sys2Proof.Machine

/-! ### A mark taken from its clock (R3, R5, R131) -/

theorem takenOffset_eq {l : Nat} (hl : 1 ≤ l) (w : Word) :
    takenOffset l w = (max 0 (min w.toInt ((l : Int) - 1))).toNat := by
  unfold takenOffset
  split
  · omega
  · split <;> omega

section
variable {s : State} {h : Header} {i : Item} {src : Source}

theorem exec_timemark (hdst : h.dst = s.part.address ∨ h.dst = 0xFFFF)
    (hsource : s.sourceOf .u h (fun e => e.role == .clock) = some src) :
    exec (.timemark h i) s = .next (s.takeMark h i) := by
  refine congrArg Host.Outcome.next ?_
  rw [State.arriveMark, formed_of_suits s h _ (by simp) rfl, steered_accepted _ _ _ _ (isOwnOrAll_true hdst),
    sourced_of_sourceOf _ hsource]
  rfl

variable (hk : i.kind = 0x3C)
include hk

theorem takeMark_unsynchronised (ha : s.engine.active = none) :
    s.takeMark h i = s.synchronise i.auxA (takenOffset s.part.slotLength i.value) s.base := by
  unfold State.takeMark
  rw [if_neg (not_not_intro hk), ha]

theorem takeMark_same (ha : s.engine.active = some i.auxA) :
    s.takeMark h i = s.correct (takenOffset s.part.slotLength i.value) := by
  unfold State.takeMark
  rw [if_neg (not_not_intro hk), ha]
  exact if_pos rfl

variable {a : Word} (ha : s.engine.active = some a)
include ha

theorem takeMark_earlier (hlt : i.auxA.toNat < a.toNat) : s.takeMark h i = s.raise
    { cause := Cause.timeBackward, category := some .time, station := some h.src, seq := some h.seq,
      detail := some i.auxA } := by
  have hne : i.auxA ≠ a := fun e => absurd hlt (by rw [e]; exact Nat.lt_irrefl _)
  unfold State.takeMark
  rw [if_neg (not_not_intro hk), ha]
  exact (if_neg hne).trans (if_pos hlt)

theorem takeMark_later (hlt : a.toNat < i.auxA.toNat) :
    s.takeMark h i = s.jump a i.auxA (takenOffset s.part.slotLength i.value) := by
  have hne : i.auxA ≠ a := fun e => absurd hlt (by rw [e]; exact Nat.lt_irrefl _)
  unfold State.takeMark
  rw [if_neg (not_not_intro hk), ha]
  exact (if_neg hne).trans (if_neg (Nat.lt_asymm hlt))

end

/-! ### The active slot corrected (R133) -/

section
variable (s : State) (o : Nat)

/-- The boundary and time-mark timers as a mark for the active slot sets them (R133). -/
def State.retimed : State :=
  { s with engine := { s.engine with boundary := some (seconds (s.part.slotLength - o)),
                                     mark := some (seconds s.part.markLimit) } }

/-- R133 but for the pre-reservation timer. -/
def State.corrected : State :=
  if s.part.timeTolerance < ((o : Int) - s.slotOffset).natAbs then
    (s.retimed o).modActive fun x => { x with flags := { x.flags with adjusted := true } }
  else s.retimed o

theorem corrected_within (h : ((o : Int) - s.slotOffset).natAbs ≤ s.part.timeTolerance) : s.corrected o = s.retimed o :=
  if_neg (Nat.not_lt.2 h)

theorem corrected_adjusted {n : Word} (ha : s.engine.active = some n)
    (h : s.part.timeTolerance < ((o : Int) - s.slotOffset).natAbs) : s.corrected o =
      (s.retimed o).modSlotAt (slotPos n) fun x => { x with flags := { x.flags with adjusted := true } } :=
  (if_pos h).trans (modActive_of_active (s.retimed o) ha _)

theorem corrected_frame : s.corrected o = { s.retimed o with slots := (s.corrected o).slots } := by
  unfold State.corrected
  split
  · exact modActive_frame _ _
  · rfl

theorem correct_cases : (s.engine.pre = .done ∧ s.correct o = s.corrected o) ∨
    (∃ ms, s.correct o = { s.corrected o with engine := { (s.corrected o).engine with pre := .running ms } }) ∨
    s.correct o = (s.corrected o).preReserve := by
  unfold State.correct
  split
  · next h => exact .inl ⟨h, rfl⟩
  · split
    · next ms _ => exact .inr (.inl ⟨ms, rfl⟩)
    · exact .inr (.inr rfl)

theorem correct_done (h : s.engine.pre = .done) : s.correct o = s.corrected o := if_pos h

/-- A pre-reservation leaves the trains, and the engine but for its own timer. -/
theorem preReserve_leaves {a : Word} (ha : s.engine.active = some a) :
    s.preReserve.engine = { s.engine with pre := .done } ∧ s.preReserve.trains = s.trains := by
  obtain ⟨w, hw, hasked⟩ := preReserve_asked ha
  unfold State.recachedOf at hw
  have hengine : w.engine = s.preDone.engine := by rw [hw]
  have htrains : w.trains = s.preDone.trains := by rw [hw]
  exact ⟨(congrArg State.engine hasked.frame).trans hengine, hasked.trains.trans htrains⟩

theorem correct_leaves {a : Word} (ha : s.engine.active = some a) :
    ∃ p, (s.correct o).engine = { (s.retimed o).engine with pre := p } ∧ (s.correct o).trains = s.trains := by
  have hframe := corrected_frame s o
  have hcases := correct_cases s o
  generalize s.corrected o = u at hframe hcases
  have hengine : u.engine = (s.retimed o).engine := by rw [hframe]
  have htrains : u.trains = s.trains := by rw [hframe]; rfl
  rcases hcases with ⟨-, hc⟩ | ⟨ms, hc⟩ | hc
  · exact ⟨s.engine.pre, by rw [hc, hengine]; rfl, by rw [hc, htrains]⟩
  · exact ⟨.running ms, by rw [hc, ← hengine], by rw [hc, ← htrains]⟩
  · obtain ⟨hpre, hkept⟩ := preReserve_leaves u (a := a) (by rw [hengine]; exact ha)
    exact ⟨.done, by rw [hc, hpre, hengine], by rw [hc, hkept, htrains]⟩

end

/-! ### A later slot (R134) -/

section
variable (s : State) (a n : Word)

/-- R134 before slot `n` opens: slot `a` settled as ADJUSTED, the slots skipped closed as MISSED. -/
def State.skippedTo : State :=
  let skipped := n.toNat - a.toNat - 1
  let s1 := s.accumulate.modActive fun x => { x with flags := { x.flags with adjusted := true } }
  let s2 := (s1.closeSlot a false).closeMissed a skipped
  if skipped = 0 then s2
  else s2.raise { cause := Cause.slotMissed, category := some .schedule, slot := some n, detail := some (nat skipped) }

theorem jump_eq (o : Nat) : s.jump a n o = (s.skippedTo a n).synchronise n o s.base := rfl

/-- From `s` to `u` only the ring, the activation's account, the history and what faults and frames touch differ. -/
def State.settledFrom (u s : State) : Prop :=
  u = { s with slots := u.slots, act := u.act, history := u.history, link := u.link, faults := u.faults, tiers := u.tiers }

variable {s}

theorem State.settledFrom.closeSlot {u : State} (h : u.settledFrom s) (n : Word) (missed : Bool) :
    (u.closeSlot n missed).settledFrom s := by
  unfold State.settledFrom at h ⊢
  rw [closeSlot_frame, h]
  rfl

theorem skippedTo_settledFrom : (s.skippedTo a n).settledFrom s := by
  unfold State.skippedTo
  extract_lets skipped s1 s2
  have h1 : s1.settledFrom s := by
    show s1 = _
    unfold s1
    rw [modActive_frame, accumulate_frame]
  have h2 : s2.settledFrom s :=
    foldl_keeps (P := fun u : State => u.settledFrom s) (fun _ _ hu => hu.closeSlot _ true) _ _ (h1.closeSlot a false)
  clear_value s2
  split
  · exact h2
  · unfold State.settledFrom at h2 ⊢
    rw [raise_frame, h2]

theorem jump_synchronised {o : Nat} (hlead : s.part.gateLead ≤ 12) (hfits : n.toNat + s.part.gateLead < 4294967296) :
    ∃ w : State, w.part = s.part ∧ (∀ t, w.cfg t = s.cfg t) ∧ w.Synchronised n o (s.jump a n o) := by
  have hframe : (s.skippedTo a n).settledFrom s := skippedTo_settledFrom a n
  rw [jump_eq]
  generalize s.skippedTo a n = w at hframe
  unfold State.settledFrom at hframe
  have hpart : w.part = s.part := by rw [hframe]
  exact ⟨w, hpart, cfg_of_trains (by rw [hframe]), synchronise_synchronised o (by rwa [hpart]) (by rwa [hpart]) s.base⟩

end

/-! ### The obligation -/

/-- Settles O37: a mark while UNSYNCHRONISED and one for a later slot open their slot alike, one for the active slot sets
its timers, and one for an earlier slot is refused. -/
theorem timeMarksSynchroniseAndCorrect : Obligations.TimeMarksSynchroniseAndCorrect := by
  unfold Obligations.TimeMarksSynchroniseAndCorrect
  intro h i s src hdst hsource hk hrange n o here opened
  have hkept : tablesKept s (s.takeMark h i) := (tablesFrame s).takeMark (tablesKept_refl s) h i
  have hhere : here = .next (s.takeMark h i) := exec_timemark hdst hsource
  obtain ⟨-, -, -, -, ⟨hslot, -, -⟩, ⟨-, hlead⟩, -⟩ := hrange
  have ho : takenOffset s.part.slotLength i.value = o := takenOffset_eq (by omega) i.value
  have hopened {w u : State} (hpart : w.part = s.part) (hcfg : ∀ t, w.cfg t = s.cfg t) (hu : w.Synchronised n o u)
      (hk : tablesKept s u) : opened u := by
    have hengine := hu.engine
    unfold State.markedEngine at hengine
    rw [hpart] at hengine
    exact ⟨by rw [hengine], by rw [hengine]; rfl, by rw [hengine]; rfl, by rw [hengine]; rfl, hu.number, hu.active,
      hu.gatePassed, fun t => (hu.cfg t).trans (hcfg t), hk⟩
  refine ⟨fun ha hfits => ?_, fun a ha hlt => ?_, fun b ha hb hpre => ?_, fun ha => ?_, fun a ha hlt hfits => ?_⟩
  · rw [takeMark_unsynchronised hk ha, ho] at hhere hkept
    have hsync : s.Synchronised n o (s.synchronise n o s.base) := synchronise_synchronised o hlead hfits s.base
    refine ⟨_, hhere, hopened rfl (fun _ => rfl) hsync hkept, fun k hk1 hk2 => ?_⟩
    obtain ⟨j, rfl⟩ := Nat.exists_eq_add_of_le' hk1
    intro m old
    have hm : slotAfter n (j + 1) = m := slotAfter_of_lt (by omega)
    obtain ⟨b, hahead⟩ := hsync.ahead j (by omega)
    rw [hm] at hahead
    rw [hahead]
    refine ⟨(gateClosed_number _).trans (recordFor_number s m), fun hloaded => ?_⟩
    have hstate : (s.recordFor m).state ≠ .active ∧ (s.recordFor m).state ≠ .closed := recordFor_loaded s hloaded
    exact gateClosed_firm hstate.1 hstate.2
  · rw [hhere, takeMark_earlier hk ha hlt]
  · intro err timed
    have hoffset : ((o : Int) - s.slotOffset).natAbs = err := by
      unfold State.slotOffset
      rw [hb]
      rfl
    rw [takeMark_same hk ha, ho, correct_done s o hpre] at hhere
    refine ⟨fun hwithin => ?_, fun hbeyond => ?_⟩
    · exact hhere.trans (congrArg Host.Outcome.next (corrected_within s o (hoffset ▸ hwithin)))
    · exact hhere.trans (congrArg Host.Outcome.next (corrected_adjusted s o ha (hoffset ▸ hbeyond)))
  · rw [takeMark_same hk ha, ho] at hhere hkept
    obtain ⟨p, hengine, htrains⟩ := correct_leaves s o ha
    exact ⟨_, hhere, by rw [hengine]; exact ha, by rw [hengine]; rfl, by rw [hengine]; rfl, by rw [hengine]; rfl,
      htrains, hkept⟩
  · rw [takeMark_later hk ha hlt, ho] at hhere hkept
    obtain ⟨w, hpart, hcfg, hsync⟩ := jump_synchronised (s := s) a n (o := o) hlead hfits
    exact ⟨_, hhere, hopened hpart hcfg hsync hkept⟩

end Sys2Proof.Machine
end

section
/-! PROOF. The trains the reserve unit moves, the end of an activation, and O41 (R150, R152, R154). -/

namespace Sys2Proof.Machine

/-! ### Activated energy added (R154) -/

theorem accumulate_unsynchronised {s : State} (h : s.engine.active = none) : s.accumulate = s := by
  unfold State.accumulate
  rw [h]

theorem accumulate_synchronised {s : State} {a : Word} (h : s.engine.active = some a) : s.accumulate =
    { s.modSlotAt (slotPos a) (fun x => { x with
        accumulator := x.accumulator + Int.tdiv (s.act.applied * s.act.since) 1000 }) with
      act := { s.act with since := 0 } } := by
  unfold State.accumulate
  rw [modActive_of_active s h, h]
  rfl

/-- An addition leaves the activation record, but for the time since the last one. -/
theorem accumulate_act (s : State) : ∃ n, s.accumulate.act = { s.act with since := n } := by
  cases h : s.engine.active with
  | none => exact ⟨s.act.since, by rw [accumulate_unsynchronised h]⟩
  | some a => exact ⟨0, by rw [accumulate_synchronised h]⟩

/-! ### Trains moved (R150) -/

/-- From `s` to `u` the trains `l` are moved: shares and carriers stand, each of `l` has a movement unfinished, and the
running conditions of the other trains stand. -/
structure State.Moved (s : State) (l : List TrainId) (u : State) : Prop where
  frame      : u = { s with link := u.link, queue := u.queue, trains := u.trains, shares := u.shares }
  run        : ∀ v, v ∉ l → u.run v = s.run v
  share      : ∀ v, (u.shares.get v).share = (s.shares.get v).share
  carrier    : ∀ v, (u.shares.get v).carrier = (s.shares.get v).carrier
  unfinished : ∀ v, (u.shares.get v).unfinished = true ↔ v ∈ l ∨ (s.shares.get v).unfinished = true

theorem moved_refl (s : State) : s.Moved [] s :=
  ⟨rfl, fun _ _ => rfl, fun _ => rfl, fun _ => rfl, fun _ => by simp⟩

theorem State.Moved.trans {s u w : State} {l k : List TrainId} (h : s.Moved l u) (h' : u.Moved k w) :
    s.Moved (l ++ k) w where
  frame := by rw [h'.frame, h.frame]
  run := fun v hv => by
    rw [List.mem_append, not_or] at hv
    rw [h'.run v hv.2, h.run v hv.1]
  share := fun v => (h'.share v).trans (h.share v)
  carrier := fun v => (h'.carrier v).trans (h.carrier v)
  unfinished := fun v => by
    rw [h'.unfinished, h.unfinished, List.mem_append]
    tauto

theorem markMoved_moved (s : State) (t : TrainId) (n : Nat) :
    s.Moved [t] (s.modShare t fun h => { h with aim := n, unfinished := true }) := by
  have hshare (v : TrainId) := modAt_get s.shares t v fun h => { h with aim := n, unfinished := true }
  refine ⟨rfl, fun _ _ => rfl, fun v => ?_, fun v => ?_, fun v => ?_⟩ <;>
    rw [State.modShare_shares, hshare] <;> by_cases hv : v = t <;> simp [hv]

/-- R142, R150: a POWER value offered changes the drive queue, what leaves it, and the train it is offered to. -/
theorem offerPower_frame (s : State) (t : TrainId) (n : Nat) (o : Origin) : s.offerPower t n o =
    { s with link := (s.offerPower t n o).link, queue := (s.offerPower t n o).queue,
             trains := (s.offerPower t n o).trains } := by
  unfold State.offerPower
  dsimp only
  split
  · rfl
  · exact offer_frame s _

theorem offerPower_run_other {s : State} {t v : TrainId} (hrunning : (s.run t).state = .running) (hv : v ≠ t) (n : Nat)
    {o : Origin} (ho : o ≠ .admitted) : (s.offerPower t n o).run v = s.run v := by
  unfold State.offerPower
  dsimp only
  split
  · rfl
  · exact (actsOn_offer s t _ rfl ho hrunning).others.2 v hv

/-- R150: one train moved. -/
theorem moveTrain_moved (s : State) (t : TrainId) : s.Moved [t] (s.moveTrain t) := by
  have hmarked := markMoved_moved s t (s.shareAim t)
  have hrun : (s.modShare t fun h => { h with aim := s.shareAim t, unfinished := true }).run t = s.run t := rfl
  unfold State.moveTrain
  dsimp only
  generalize s.modShare t (fun h => { h with aim := s.shareAim t, unfinished := true }) = x at hmarked hrun ⊢
  split
  · next hauto =>
    have hrunning : (x.run t).state = .running := by
      rw [hrun]
      exact ((autoRunning_iff s t).1 hauto).1
    have hframe := offerPower_frame x t
      (stepToward (s.run t).power (s.shareAim t) ((s.cfg t).reserveRamp * s.engine.step)) .reserve
    refine ⟨?_, fun v hv => ?_, ?_, ?_, ?_⟩
    · rw [hframe, hmarked.frame]
    · rw [offerPower_run_other hrunning (by simpa using hv) _ (by decide), hmarked.run v hv]
    · rw [hframe]
      exact hmarked.share
    · rw [hframe]
      exact hmarked.carrier
    · rw [hframe]
      exact hmarked.unfinished
  · exact hmarked

theorem foldl_moveTrain_moved (l : List TrainId) : ∀ s : State, s.Moved l (l.foldl State.moveTrain s) := by
  induction l with
  | nil => exact moved_refl
  | cons t l ih => exact fun s => (moveTrain_moved s t).trans (ih _)

theorem moveTrains_moved (s : State) (changed : TrainId → Bool) :
    s.Moved ((fins 6).filter changed) (s.moveTrains changed) := by
  have hmoved := foldl_moveTrain_moved ((fins 6).filter changed) (s.withPolls [])
  have hframe : s.moveTrains changed = _ := pollsLast_frame s _
  rw [hframe]
  refine ⟨?_, hmoved.run, hmoved.share, hmoved.carrier, hmoved.unfinished⟩
  have h := hmoved.frame
  generalize ((fins 6).filter changed).foldl State.moveTrain (s.withPolls []) = x at h ⊢
  rw [h]
  rfl

/-! ### The end of an activation (R152) -/

section
variable (s : State)

/-- The activation record and the shares ended, before the trains are moved (R152, steps 1 to 3). -/
def State.disarmed : State :=
  { s.accumulate.modAct fun a => { a with active := false, hold := none, requested := 0, limited := 0, applied := 0 } with
    shares := tabMap (fun h : Share => { h with share := 0, carrier := false }) s.accumulate.shares }

theorem disarmed_frame :
    s.disarmed = { s with slots := s.disarmed.slots, act := s.disarmed.act, shares := s.disarmed.shares } := by
  unfold State.disarmed
  rw [accumulate_frame]
  rfl

theorem disarmed_share (t : TrainId) : s.disarmed.shares.get t = { s.shares.get t with share := 0, carrier := false } := by
  have hshares : s.accumulate.shares = s.shares := by rw [accumulate_frame]
  unfold State.disarmed
  rw [hshares]
  exact tabMap_get _ _ _

/-- From `s` to `u` the activation has ended: the record is cleared but for its id, no train has a share, and the trains
that had one are on their way back (R152). -/
structure State.Ended (s u : State) : Prop where
  act        : ∃ n, u.act = { s.act with active := false, hold := none, requested := 0, limited := 0, applied := 0,
                                         since := n }
  engine     : u.engine = s.engine
  faults     : u.faults = s.faults
  shares     : ∀ t, (u.shares.get t).share = 0 ∧ (u.shares.get t).carrier = false
  run        : ∀ t, (s.shares.get t).share = 0 → u.run t = s.run t
  unfinished : ∀ t, (s.shares.get t).share ≠ 0 → (u.shares.get t).unfinished = true

theorem endActivation_ended : s.Ended s.endActivation := by
  have hmoved : s.disarmed.Moved ((fins 6).filter fun t => (s.shares.get t).share != 0) s.endActivation :=
    moveTrains_moved s.disarmed _
  have hframe := disarmed_frame s
  obtain ⟨n, hact⟩ := accumulate_act s
  refine ⟨⟨n, ?_⟩, ?_, ?_, fun t => ⟨?_, ?_⟩, fun t ht => ?_, fun t ht => ?_⟩
  · rw [hmoved.frame]
    show s.disarmed.act = _
    unfold State.disarmed
    rw [State.modAct_act, hact]
  · rw [hmoved.frame, hframe]
  · rw [hmoved.frame, hframe]
  · rw [hmoved.share, disarmed_share]
  · rw [hmoved.carrier, disarmed_share]
  · have hstays : s.endActivation.run t = s.disarmed.run t := hmoved.run t (by simp [ht])
    exact hstays.trans (run_of_trains (congrArg State.trains hframe) t)
  · exact (hmoved.unfinished t).2 (.inl (by simp [ht, mem_fins]))

end

/-! ### The hold timer (R152) -/

@[simp] theorem raise_act (s : State) (f : FaultInfo) : (s.raise f).act = s.act := by rw [raise_frame]
@[simp] theorem raise_shares (s : State) (f : FaultInfo) : (s.raise f).shares = s.shares := by rw [raise_frame]

theorem expireHold_idle {s : State} (h : s.act.hold = none) : s.expireHold = s := by
  unfold State.expireHold
  rw [h]

theorem expireHold_running {s : State} {ms : Nat} (h : s.act.hold = some ms) : s.expireHold = s.endActivation.raise
    { cause := Cause.activationExpired, slot := s.engine.active, detail := s.act.id } := by
  unfold State.expireHold
  rw [h]

/-- Settles O41: the hold timer's expiry is the end of the activation and one fault. -/
theorem holdExpiryAndActivatedEnergy : Obligations.HoldExpiryAndActivatedEnergy := by
  unfold Obligations.HoldExpiryAndActivatedEnergy
  refine ⟨fun s => ⟨fun h => congrArg Host.Outcome.next (expireHold_idle h), fun ms h => ?_⟩,
    fun s => ⟨accumulate_unsynchronised, fun a => accumulate_synchronised⟩⟩
  have hkept : tablesKept s s.expireHold := (tablesFrame s).expireHold (tablesKept_refl s)
  have hended := endActivation_ended s
  obtain ⟨n, hact⟩ := hended.act
  refine ⟨s.expireHold, rfl, ?_⟩
  rw [expireHold_running h] at hkept ⊢
  simp only [raise_act, raise_shares, raise_run, raise_faults, hact, add_counter, add_getLast, hended.faults,
    true_and]
  refine ⟨hended.shares, hended.run, hended.unfinished, hkept, ?_⟩
  show some (Cause.activationExpired, Category.reserve, s.engine.active.or s.endActivation.engine.active, s.act.id) = _
  rw [hended.engine, Option.or_self]

end Sys2Proof.Machine
end

section
/-! PROOF. The reserve band, the limited request and its split over the trains (O40, R148, R149). -/

namespace Sys2Proof.Machine

/-! ### The reserve band (R148) -/

/-- The commitments that carry reserve so far, and one more resolved after them. -/
def carriedOne (x : State × List Commit) (c : Commit) : State × List Commit :=
  let r := x.1.lookup true c.position.val
  (r.1, match r.2 with
    | .ok y => if y.allow.getLsbD 2 then x.2 ++ [c] else x.2
    | .error _ => x.2)

/-- A band as worked out by the model, and the commitments whose reserves it sums. -/
structure BandOf (x : State × ReserveBand) (y : State × List Commit) : Prop where
  state : x.1.translatesAs y.1
  up    : x.2.up = (y.2.map fun c => c.up).sum
  down  : x.2.down = (y.2.map fun c => c.down).sum

theorem BandOf.bandOne {x : State × ReserveBand} {y : State × List Commit} (h : BandOf x y) (c : Commit) :
    BandOf (State.bandOne x c) (carriedOne y c) := by
  obtain ⟨hresult, hstate⟩ := lookup_congr h.state true c.position.val
  rcases hlookup : x.1.lookup true c.position.val with ⟨u, r⟩
  rcases hlookup' : y.1.lookup true c.position.val with ⟨u', r'⟩
  rw [hlookup, hlookup'] at hresult hstate
  obtain rfl : r = r' := hresult
  unfold State.bandOne carriedOne
  rw [hlookup']
  cases r with
  | error f =>
    rw [resolveCommit_error hlookup]
    exact ⟨hstate, h.up, h.down⟩
  | ok r =>
    rw [resolveCommit_ok hlookup]
    dsimp only
    by_cases hallowed : r.allow.getLsbD 2 = true
    · rw [if_pos (by rintro m ⟨⟩; exact hallowed), if_pos hallowed]
      exact ⟨hstate, by simp [h.up], by simp [h.down]⟩
    · rw [if_neg fun hall => hallowed (hall 2 rfl), if_neg hallowed]
      exact ⟨hstate, h.up, h.down⟩

theorem foldl_bandOf (l : List Commit) : ∀ {x : State × ReserveBand} {y : State × List Commit}, BandOf x y →
    BandOf (l.foldl State.bandOne x) (l.foldl carriedOne y) := by
  induction l with
  | nil => exact fun h => h
  | cons c l ih => exact fun h => ih (h.bandOne c)

/-! ### The limited request (R148) -/

/-- A requested value limited to a band. -/
def ReserveBand.limit (b : ReserveBand) (q : Int) : Int := max (-(b.down : Int)) (min b.up q)

section
variable (s : State) (b : ReserveBand)

theorem limitRequest_frame : s.limitRequest b =
    { s with act := (s.limitRequest b).act, link := (s.limitRequest b).link, faults := (s.limitRequest b).faults,
             tiers := (s.limitRequest b).tiers } := by
  unfold State.limitRequest
  dsimp only
  split
  · rfl
  · rw [raise_frame]
    rfl

theorem limitRequest_act : (s.limitRequest b).act =
    { s.act with up := b.up, down := b.down, limited := b.limit s.act.requested } := by
  rw [ReserveBand.limit, min_comm, ← clampInt_eq (by omega)]
  unfold State.limitRequest
  dsimp only
  split
  · rfl
  · rw [raise_act]
    rfl

end

/-! ### The split (R149) -/

theorem carries_iff (s : State) (b : ReserveBand) (t : TrainId) : s.carries b t = true ↔
    (s.cfg t).configured = true ∧ ((s.run t).state = .running ∧ (s.run t).auto = true) ∧ b.trains.getLsbD t.val = true ∧
      s.reachable t = true := by
  rw [← autoRunning_iff]
  simp [State.carries, and_assoc]

theorem carries_congr {x y : State} (htrains : x.trains = y.trains) (hstations : x.stations = y.stations)
    (b : ReserveBand) (t : TrainId) : x.carries b t = y.carries b t := by
  have reads_only (s : State) : s.carries b t =
      State.carries { y with trains := s.trains, stations := s.stations } b t := rfl
  rw [reads_only x, htrains, hstations]

/-- What splitting the rest of a value over the trains `l` leaves: only their shares change, a train of `l` is a carrier
where it is eligible and has no share otherwise, and the shares stay within the value. -/
structure SplitOver (b : ReserveBand) (l : List TrainId) (x y : State × Nat) : Prop where
  frame   : y.1 = { x.1 with shares := y.1.shares }
  others  : ∀ v, v ∉ l → y.1.shares.get v = x.1.shares.get v
  carrier : ∀ v ∈ l, (y.1.shares.get v).carrier = x.1.carries b v
  idle    : ∀ v ∈ l, (y.1.shares.get v).carrier = false → (y.1.shares.get v).share = 0
  within  : ((l.map fun v => (y.1.shares.get v).share).sum).natAbs + y.2 ≤ x.2

theorem setShare_splitOver {b : ReserveBand} {x : State × Nat} {t : TrainId} {v : Int} {n : Nat}
    (hidle : x.1.carries b t = false → v = 0) (hwithin : v.natAbs + n ≤ x.2) :
    SplitOver b [t] x (x.1.modShare t fun h => { h with share := v, carrier := x.1.carries b t }, n) := by
  refine ⟨rfl, fun u hu => upd_get_ne _ _ _ _ (by simpa using hu), fun u hu => ?_, fun u hu => ?_, ?_⟩
  · obtain rfl := List.mem_singleton.1 hu
    simp
  · obtain rfl := List.mem_singleton.1 hu
    simpa using hidle
  · simpa using hwithin

/-- R149: one train's part of what is left. -/
theorem splitOne_splitOver (b : ReserveBand) (up : Bool) (x : State × Nat) (t : TrainId) :
    SplitOver b [t] x (State.splitOne b up x t) := by
  unfold State.splitOne
  split
  · next h =>
    rw [← h]
    refine setShare_splitOver (fun hidle => absurd (h.symm.trans hidle) (by decide)) ?_
    split <;> omega
  · next h =>
    rw [← Bool.eq_false_of_not_eq_true h]
    exact setShare_splitOver (fun _ => rfl) (by simp)

theorem foldl_splitOver (b : ReserveBand) (up : Bool) (l : List TrainId) (hl : l.Nodup) : ∀ x : State × Nat,
    SplitOver b l x (l.foldl (State.splitOne b up) x) := by
  induction l with
  | nil => exact fun x => ⟨rfl, fun _ _ => rfl, nofun, nofun, by simp⟩
  | cons t l ih =>
    intro x
    obtain ⟨ht, hl⟩ := List.nodup_cons.1 hl
    have hone := splitOne_splitOver b up x t
    rw [List.foldl_cons]
    generalize State.splitOne b up x t = z at hone ⊢
    have hrest := ih hl z
    generalize l.foldl (State.splitOne b up) z = y at hrest ⊢
    have hfirst : y.1.shares.get t = z.1.shares.get t := hrest.others t ht
    have hcarries (v : TrainId) : z.1.carries b v = x.1.carries b v :=
      carries_congr (by rw [hone.frame]) (by rw [hone.frame]) b v
    refine ⟨by rw [hrest.frame, hone.frame], fun v hv => ?_, fun v hv => ?_, fun v hv => ?_, ?_⟩
    · obtain ⟨hvt, hvl⟩ := not_or.1 (mt List.mem_cons.2 hv)
      rw [hrest.others v hvl, hone.others v (by simpa using hvt)]
    · rcases List.mem_cons.1 hv with rfl | hv
      · rw [hfirst, hone.carrier v (by simp)]
      · rw [hrest.carrier v hv, hcarries]
    · rcases List.mem_cons.1 hv with rfl | hv
      · rw [hfirst]
        exact hone.idle v (by simp)
      · exact hrest.idle v hv
    · have hshare := hone.within
      have hshares := hrest.within
      rw [List.map_cons, List.sum_cons, hfirst]
      simp only [List.map_cons, List.map_nil, List.sum_cons, List.sum_nil, add_zero] at hshare
      omega

/-- R149: what a split leaves: the shares are those of the eligible trains, and the applied value is their sum. -/
structure State.Split (s : State) (b : ReserveBand) (u : State) : Prop where
  frame   : u = { s with act := u.act, shares := u.shares }
  act     : u.act = { s.act with applied := u.sumShares }
  within  : u.sumShares.natAbs ≤ s.act.limited.natAbs
  carrier : ∀ t, (u.shares.get t).carrier = s.carries b t
  idle    : ∀ t, (u.shares.get t).carrier = false → (u.shares.get t).share = 0

theorem split_split (s : State) (b : ReserveBand) : s.Split b (s.split b) := by
  have hover := foldl_splitOver b (decide (0 < s.act.limited)) (fins 6) (fins_nodup 6) (s, s.act.limited.natAbs)
  unfold State.split
  dsimp only
  generalize (fins 6).foldl (State.splitOne b (decide (0 < s.act.limited))) (s, s.act.limited.natAbs) = y at hover ⊢
  have hact : y.1.act = s.act := by rw [hover.frame]
  refine ⟨?_, ?_, ?_, fun t => hover.carrier t (mem_fins t), fun t => hover.idle t (mem_fins t)⟩
  · rw [hover.frame]
    rfl
  · rw [State.modAct_act, hact]
    rfl
  · exact (Nat.le_add_right _ _).trans hover.within

end Sys2Proof.Machine
end

section
/-! PROOF. An ACTIVATION taken from the grid gateway, decided in the order of R147 (O40, R147 to R149). -/

namespace Sys2Proof.Machine

/-! ### An ACTIVATION decided (R147) -/

/-- What a fault of an ACTIVATION carries (R147). -/
def activationFault (h : Header) (i : Item) (c : Cause) : FaultInfo :=
  { cause := c, station := some h.src, seq := some h.seq, act := some i.auxA }

section
variable {s : State} {h : Header} {i : Item}

theorem exec_activation {src : Source} (hdst : h.dst = s.part.address ∨ h.dst = 0xFFFF)
    (hsource : s.sourceOf .u h (fun e => e.role == .grid) = some src) :
    exec (.activation h i) s = .next (s.takeActivation h i) := by
  refine congrArg Host.Outcome.next ?_
  rw [State.arriveActivation, formed_of_suits s h _ (by simp) rfl, steered_accepted _ _ _ _ (isOwnOrAll_true hdst),
    sourced_of_sourceOf _ hsource]
  rfl

theorem takeActivation_otherKind (hk : i.kind ≠ 0x38) : s.takeActivation h i =
    (s.setOutcome .refusedKind).raise
      { activationFault h i Cause.kindIllegal with detail := some (i.kind.setWidth 32) } := if_pos hk

variable (hk : i.kind = 0x38)
include hk

theorem takeActivation_unsynchronised (ha : s.engine.active = none) :
    s.takeActivation h i = s.setOutcome .refusedUnsynchronised :=
  (if_neg (not_not_intro hk)).trans (if_pos ha)

variable {a : Word} (ha : s.engine.active = some a)
include ha

theorem takeActivation_synchronised : s.takeActivation h i =
    if !s.gateOpen then (s.setOutcome .refusedGate).raise (activationFault h i Cause.gateClosed)
    else if i.value = 0 then s.endActivation.setOutcome .ended
    else s.activate i.auxA i.value.toInt :=
  (if_neg (not_not_intro hk)).trans (if_neg (by simp [ha]))

theorem takeActivation_shut (hg : s.gateOpen = false) : s.takeActivation h i =
    (s.setOutcome .refusedGate).raise (activationFault h i Cause.gateClosed) := by
  rw [takeActivation_synchronised hk ha, hg]
  rfl

theorem takeActivation_ends (hg : s.gateOpen = true) (hv : i.value = 0) :
    s.takeActivation h i = s.endActivation.setOutcome .ended := by
  rw [takeActivation_synchronised hk ha, hg]
  exact if_pos hv

theorem takeActivation_activates (hg : s.gateOpen = true) (hv : i.value ≠ 0) :
    s.takeActivation h i = s.activate i.auxA i.value.toInt := by
  rw [takeActivation_synchronised hk ha, hg]
  exact if_neg hv

end

/-! ### An activation accepted (R147 to R149) -/

section
variable (s : State) (id : Word) (q : Int)

/-- The requested value recorded, before the band is worked out (R147). -/
def State.requested : State := s.accumulate.modAct fun a => { a with active := true, id := some id, requested := q }

/-- The request limited to the band of the active slot (R148). -/
def State.limitedToBand : State := (s.requested id q).reserveBand.1.limitRequest (s.requested id q).reserveBand.2

/-- The limited request split over the trains (R149). -/
def State.splitRequest : State := (s.limitedToBand id q).split (s.requested id q).reserveBand.2

theorem requested_frame :
    s.requested id q = { s with slots := (s.requested id q).slots, act := (s.requested id q).act } := by
  unfold State.requested
  rw [accumulate_frame]
  rfl

theorem requested_act : ∃ n, (s.requested id q).act =
    { s.act with active := true, id := some id, requested := q, since := n } := by
  obtain ⟨n, hn⟩ := accumulate_act s
  exact ⟨n, by rw [State.requested, State.modAct_act, hn]⟩

theorem requested_translatesAs : (s.requested id q).translatesAs s := by
  rw [requested_frame]
  exact ⟨rfl, rfl, rfl, rfl, fun _ => rfl⟩

/-- R148: the band sums the reserves of the active slot's commitments that carry one. -/
theorem reserveBand_bandOf {a : Word} (ha : s.engine.active = some a) :
    BandOf (s.requested id q).reserveBand ((s.slots.get (slotPos a)).commits.foldl carriedOne (s, [])) := by
  obtain ⟨n, hn⟩ := accumulate_slot s (slotPos a)
  have hactive : (s.requested id q).engine.active = some a := by rw [requested_frame, ha]
  have hcommits : ((s.requested id q).activeSlot.map Slot.commits).getD [] = (s.slots.get (slotPos a)).commits := by
    rw [State.activeSlot, hactive]
    show (s.accumulate.slots.get (slotPos a)).commits = _
    rw [hn]
  rw [State.reserveBand, hcommits]
  exact foldl_bandOf _ ⟨requested_translatesAs s id q, rfl, rfl⟩

theorem limitedToBand_act : ∃ n, (s.limitedToBand id q).act =
    let b := (s.requested id q).reserveBand.2
    { s.act with active := true, id := some id, requested := q, up := b.up, down := b.down,
                 limited := b.limit q, since := n } := by
  obtain ⟨n, hn⟩ := requested_act s id q
  have hband : (s.requested id q).reserveBand.1.act = (s.requested id q).act := by rw [reserveBand_recached]
  refine ⟨n, ?_⟩
  rw [State.limitedToBand, limitRequest_act, hband, hn]

theorem limitedToBand_carries (b : ReserveBand) (t : TrainId) : (s.limitedToBand id q).carries b t = s.carries b t := by
  refine carries_congr ?_ ?_ b t <;>
    rw [State.limitedToBand, limitRequest_frame, reserveBand_recached, requested_frame]

/-- From `s` to `u` the activation `id` of value `q` is accepted: its record is the request, the band, the limited value
and the sum of the shares, and a train is a carrier where it is eligible (R147 to R149). -/
structure State.Activated (s : State) (id : Word) (q : Int) (b : ReserveBand) (u : State) : Prop where
  act     : ∃ n, u.act =
    { active := true, id := some id, requested := q, up := b.up, down := b.down, limited := b.limit q,
      applied := u.sumShares, hold := some (s.part.holdTime * 1000),
      outcome := if b.limit q = q then .accepted else .limited, since := n }
  within  : u.sumShares.natAbs ≤ (b.limit q).natAbs
  carrier : ∀ t, (u.shares.get t).carrier = s.carries b t
  idle    : ∀ t, (u.shares.get t).carrier = false → (u.shares.get t).share = 0

theorem sumShares_congr {x y : State} (h : ∀ t, (x.shares.get t).share = (y.shares.get t).share) :
    x.sumShares = y.sumShares := by
  simp only [State.sumShares, h]

theorem activate_stages : s.activate id q = ((s.splitRequest id q).moveTrains fun t =>
    (s.shares.get t).share != ((s.splitRequest id q).shares.get t).share).modAct fun a =>
      { a with hold := some (seconds s.part.holdTime),
               outcome := if a.limited = a.requested then .accepted else .limited } := rfl

/-- R147: an accepted ACTIVATION of another value than 0. -/
theorem activate_activated : s.Activated id q (s.requested id q).reserveBand.2 (s.activate id q) := by
  obtain ⟨n, hlimited⟩ := limitedToBand_act s id q
  have hsplit : (s.limitedToBand id q).Split (s.requested id q).reserveBand.2 (s.splitRequest id q) := split_split _ _
  have hmoved := moveTrains_moved (s.splitRequest id q) fun t =>
    (s.shares.get t).share != ((s.splitRequest id q).shares.get t).share
  rw [activate_stages]
  generalize (s.splitRequest id q).moveTrains (fun t =>
    (s.shares.get t).share != ((s.splitRequest id q).shares.get t).share) = w at hmoved ⊢
  have hact : w.act = (s.splitRequest id q).act := by rw [hmoved.frame]
  have hsum : w.sumShares = (s.splitRequest id q).sumShares := sumShares_congr hmoved.share
  refine ⟨⟨n, ?_⟩, ?_, fun t => ?_, fun t ht => ?_⟩
  · rw [State.modAct_act, hact, hsplit.act, hlimited, ← hsum]
    rfl
  · have hwithin := hsplit.within
    rw [hlimited, ← hsum] at hwithin
    exact hwithin
  · exact (hmoved.carrier t).trans ((hsplit.carrier t).trans (limitedToBand_carries s id q _ t))
  · exact (hmoved.share t).trans (hsplit.idle t ((hmoved.carrier t).symm.trans ht))

end

/-! ### The obligation -/

/-- Settles O40: a refusal, the end of the activation, or an activation within the band of the active slot. -/
theorem activationsAreDecided : Obligations.ActivationsAreDecided := by
  unfold Obligations.ActivationsAreDecided
  intro h i s src hdst hsource here outcome info
  have hhere : here = .next (s.takeActivation h i) := exec_activation hdst hsource
  have hkept : tablesKept s (s.takeActivation h i) := (tablesFrame s).takeActivation (tablesKept_refl s) h i
  rw [hhere]
  refine ⟨fun hk => congrArg Host.Outcome.next (takeActivation_otherKind hk),
    fun hk ha => congrArg Host.Outcome.next (takeActivation_unsynchronised hk ha),
    fun a hk ha => ⟨fun hg => congrArg Host.Outcome.next (takeActivation_shut hk ha hg), fun hg hv => ?_, fun hg hv => ?_⟩⟩
  · rw [takeActivation_ends hk ha hg hv] at hkept ⊢
    have hended := endActivation_ended s
    obtain ⟨n, hact⟩ := hended.act
    refine ⟨_, rfl, ?_⟩
    rw [State.setOutcome, State.modAct_act, hact]
    exact ⟨rfl, rfl, rfl, rfl, rfl, rfl, rfl, hended.shares, hended.faults, hkept⟩
  · rw [takeActivation_activates hk ha hg hv] at hkept ⊢
    have hband := reserveBand_bandOf s i.auxA i.value.toInt ha
    have hactivated := activate_activated s i.auxA i.value.toInt
    obtain ⟨n, hact⟩ := hactivated.act
    refine ⟨_, rfl, ?_⟩
    rw [hact]
    refine ⟨rfl, rfl, rfl, rfl, ⟨hband.up, hband.down⟩, rfl, rfl, rfl, hactivated.within, fun t ht => ?_,
      hactivated.idle, hkept⟩
    rw [hactivated.carrier, carries_iff] at ht
    obtain ⟨hconfigured, ⟨hrunning, hauto⟩, -, hreachable⟩ := ht
    exact ⟨hconfigured, hrunning, hauto, hreachable⟩

end Sys2Proof.Machine
end

section
/-! PROOF. The shared operations of the instrument bus controller: what a point written leaves, what the replies and the
arbiter change. -/

namespace Sys2Proof.Machine

/-! ### What a measured point leaves (R91, R109, R165) -/

/-- What a recomputation of a cavern or a store leaves: the points, the bus and its table, the settings, the gate, the
stations. -/
def pointsKept (s u : State) : Prop :=
  u.points = s.points ∧ u.bus = s.bus ∧ u.scan = s.scan ∧ u.part = s.part ∧ u.gateOpen = s.gateOpen ∧
    u.stations = s.stations

theorem pointsKept_refl (s : State) : pointsKept s s := ⟨rfl, rfl, rfl, rfl, rfl, rfl⟩

theorem pointsKept.trans {s u v : State} (h : pointsKept s u) (h' : pointsKept u v) : pointsKept s v := by
  obtain ⟨hpoints, hbus, hscan, hpart, hgate, hstations⟩ := h
  obtain ⟨hpoints', hbus', hscan', hpart', hgate', hstations'⟩ := h'
  exact ⟨hpoints'.trans hpoints, hbus'.trans hbus, hscan'.trans hscan, hpart'.trans hpart, hgate'.trans hgate,
    hstations'.trans hstations⟩

theorem pointsFrame (s : State) : KeepsPlant (pointsKept s) where
  link := fun _ _ _ h => h
  faults := fun _ _ _ h => h
  tiers := fun _ _ _ h => h
  queue := fun _ _ _ _ _ _ h => h
  trains := fun _ _ h => h
  caverns := fun _ _ _ h => h
  reservations := fun _ _ _ h => h
  slots := fun _ _ _ h => h
  stopRequests := fun _ _ h => h

section
variable {s u : State} (hu : pointsKept s u)
include hu

theorem pointsKept.modLayer (l : LayerId) (f : Layer → Layer) : pointsKept s (u.modLayer l f) := hu

theorem pointsKept.account (k : StoreId) : pointsKept s (u.account k) :=
  foldl_keeps (P := pointsKept s) (fun _ _ hx => pointsKept.modLayer hx _ _) _ u hu

theorem pointsKept.recomputeStore (k : StoreId) : pointsKept s (u.recomputeStore k) := by
  unfold State.recomputeStore
  split
  · exact (pointsFrame s).trim (hu.account k) k
  · exact hu

theorem pointsKept.layerChanged (l : LayerId) : pointsKept s (u.layerChanged l) := by
  unfold State.layerChanged
  split
  · exact hu.recomputeStore _
  · exact hu

end

/-- The unit that owns a point takes it without a change to any point. -/
theorem pointWritten_kept (s : State) (i : ScanId) (v : Option Int) : pointsKept s (s.pointWritten i v) := by
  have hs := pointsKept_refl s
  unfold State.pointWritten
  dsimp only
  split
  · split
    · split
      · exact (pointsFrame s).recomputeCavern ((pointsFrame s).setStale hs _ _ _) _
      · exact (pointsFrame s).recomputeCavern hs _
    · exact hs
  · split
    · split
      · exact pointsKept.layerChanged (hs.modLayer _ _) _
      · exact hs.layerChanged _
    · exact hs
  · exact hs

/-! ### Results of a scan transaction (R165) -/

/-- A result of entry `i` taken: its point changed by `f`; the other points, the bus and its table and the settings
stand. -/
structure PointTaken (s : State) (i : ScanId) (f : Point → Point) (u : State) : Prop where
  points : u.points = modAt s.points i f
  bus    : u.bus = s.bus
  scan   : u.scan = s.scan
  part   : u.part = s.part

section
variable {s u : State} {i : ScanId} {f : Point → Point}

theorem PointTaken.same (h : PointTaken s i f u) : u.points.get i = f (s.points.get i) := by
  rw [h.points, modAt_get_same]

theorem PointTaken.other (h : PointTaken s i f u) {j : ScanId} (hj : j ≠ i) : u.points.get j = s.points.get j := by
  rw [h.points, modAt_get, if_neg hj]

/-- A point changed, a fault perhaps raised, and the point handed to its unit. -/
theorem pointTaken_of_written (hpoints : u.points = modAt s.points i f) (hbus : u.bus = s.bus) (hscan : u.scan = s.scan)
    (hpart : u.part = s.part) (v : Option Int) : PointTaken s i f (u.pointWritten i v) := by
  obtain ⟨hp, hb, hs, ha, -, -⟩ := pointWritten_kept u i v
  exact ⟨hp.trans hpoints, hb.trans hbus, hs.trans hscan, ha.trans hpart⟩

theorem scanOk_taken (s : State) (i : ScanId) (e : ScanEntry) (b0 b1 b2 : Byte) :
    PointTaken s i
      (fun _ => Point.succeed (convert e.gain e.offset (rawReading e.format b0 b1 b2) (s.scan.get i).destKind))
      (s.scanOk i e b0 b1 b2) := by
  unfold State.scanOk
  refine pointTaken_of_written ?_ ?_ ?_ ?_ _ <;> rfl

theorem scanFail_taken (s : State) (i : ScanId) (x : PointResult) :
    PointTaken s i (fun p => p.fail x) (s.scanFail i x) := by
  unfold State.scanFail
  dsimp only
  split
  · rw [raise_frame]
    refine pointTaken_of_written ?_ ?_ ?_ ?_ none <;> rfl
  · refine pointTaken_of_written ?_ ?_ ?_ ?_ none <;> rfl

/-- A fault of a scan transaction and its failure told to the scanner. -/
theorem tellScanner_taken (s : State) {t : Txn} (hentry : s.bus.entry = some i) (ht : t.discarded = false) (c : Cause)
    (d : Word) (x : PointResult) :
    PointTaken s i (fun p => p.fail x) ((s.busFault c d).tellScanner t x) := by
  have hfault : (s.busFault c d).bus.entry = some i := by rw [State.busFault, raise_frame]; exact hentry
  simp only [State.tellScanner, hfault, ht, Bool.false_eq_true, if_false]
  have h := scanFail_taken (s.busFault c d) i x
  rw [State.busFault, raise_frame] at h ⊢
  exact ⟨h.points, h.bus, h.scan, h.part⟩

end

theorem count255_eq (n : Nat) : count255 n = min n 255 := by
  unfold count255
  split <;> omega

/-! ### Replies (R166, R178) -/

section
variable (s : State) (dst seq : HWord) (x : Status) (b c : Word) (l : List Item)

theorem replyDone_frame : s.replyDone dst seq x b c l =
    { s with link := (s.replyDone dst seq x b c l).link, free := s.free + 1 } :=
  answer_frame { s with free := s.free + 1 } _ _ _ _

@[simp] theorem replyDone_bus : (s.replyDone dst seq x b c l).bus = s.bus := by rw [replyDone_frame]
@[simp] theorem replyDone_faults : (s.replyDone dst seq x b c l).faults = s.faults := by rw [replyDone_frame]
@[simp] theorem replyDone_points : (s.replyDone dst seq x b c l).points = s.points := by rw [replyDone_frame]

end

section
variable (s : State) (r : TransferResult) (n : Nat) (l : List Byte)

theorem endTransfer_held {x : Transfer} (h : s.bus.transfer = some x) : s.endTransfer r n l =
    (s.modBus fun b => { b with
      transfer := none
      buffer := if x.write then s.bus.buffer else overwrite s.bus.buffer (l.take x.count) }).replyDone x.dst x.seq .done
        absent absent
        (transferFields x r n (if x.write then s.bus.buffer else overwrite s.bus.buffer (l.take x.count))) := by
  simp only [State.endTransfer, h]

theorem endTransfer_none (h : s.bus.transfer = none) : s.endTransfer r n l = s := by
  simp only [State.endTransfer, h]

/-- The end of a transfer leaves nothing held, and of the controller changes the buffer alone besides. -/
theorem endTransfer_bus : ∃ buf, (s.endTransfer r n l).bus = { s.bus with transfer := none, buffer := buf } := by
  cases h : s.bus.transfer with
  | none => exact ⟨s.bus.buffer, by rw [endTransfer_none s r n l h, ← h]⟩
  | some x => exact ⟨_, by rw [endTransfer_held s r n l h, replyDone_bus, State.modBus_bus]⟩

@[simp] theorem endTransfer_faults : (s.endTransfer r n l).faults = s.faults := by
  cases h : s.bus.transfer with
  | none => rw [endTransfer_none s r n l h]
  | some x => rw [endTransfer_held s r n l h, replyDone_faults, State.modBus_faults]

@[simp] theorem endTransfer_points : (s.endTransfer r n l).points = s.points := by
  cases h : s.bus.transfer with
  | none => rw [endTransfer_none s r n l h]
  | some x => rw [endTransfer_held s r n l h, replyDone_points, State.modBus_points]

end

/-! ### The transfer buffer (R166) -/

/-- A byte laid over place `i` of the buffer, where there is one. -/
def layByte (bytes : List Byte) (v : Vector Byte 32) (i : Fin 32) : Vector Byte 32 :=
  upd v i (bytes[i.val]?.getD (v.get i))

theorem upd_get_self {α : Type} {n : Nat} (v : Vector α n) (i : Fin n) : upd v i (v.get i) = v := by
  refine vector_ext_get fun j => ?_
  rw [upd_get]
  split
  next h => rw [h]
  next => rfl

theorem overwrite_eq_layByte (buf : Vector Byte 32) (bytes : List Byte) :
    overwrite buf bytes = (fins 32).foldl (layByte bytes) buf := by
  unfold overwrite
  congr 1
  funext v i
  unfold layByte
  cases bytes[i.val]? with
  | none => exact (upd_get_self v i).symm
  | some b => rfl

theorem foldl_layByte_get (bytes : List Byte) (l : List (Fin 32)) (v : Vector Byte 32) (k : Fin 32) :
    (l.foldl (layByte bytes) v).get k = if k ∈ l then bytes[k.val]?.getD (v.get k) else v.get k := by
  induction l generalizing v with
  | nil => rfl
  | cons i l ih =>
    rw [List.foldl_cons, ih, layByte, upd_get]
    by_cases hk : k = i
    · subst hk
      cases bytes[k.val]? <;> simp
    · simp [hk]

theorem overwrite_get (buf : Vector Byte 32) (bytes : List Byte) (k : Fin 32) :
    (overwrite buf bytes).get k = bytes[k.val]?.getD (buf.get k) := by
  rw [overwrite_eq_layByte, foldl_layByte_get, if_pos (mem_fins k)]

/-! ### Rounds and the arbiter (R164, R167) -/

section
variable (s : State)

theorem endRoundOnce_stands (h : s.bus.inRound = false ∨ s.nextDue.isSome = true) : s.endRoundOnce = s := by
  refine if_neg fun hc => ?_
  obtain ⟨hround, hnone⟩ := Bool.and_eq_true_iff.1 hc
  rcases h with h | h
  · exact Bool.false_ne_true (h.symm.trans hround)
  · rw [Option.isNone_iff_eq_none.1 hnone] at h
    exact Bool.false_ne_true h

/-- A round with a due entry left goes on. -/
theorem endRound_stands (h : s.bus.inRound = false ∨ s.nextDue.isSome = true) : s.endRound = s := by
  rw [State.endRound, endRoundOnce_stands s h, endRoundOnce_stands s h]

/-- A round with no due entry left ends, where none is owed. -/
theorem endRound_ends (hround : s.bus.inRound = true) (hdue : s.nextDue = none) (howed : s.bus.owedRound = false) :
    s.endRound = s.modBus fun b => { b with inRound := false } := by
  have honce : s.endRoundOnce = s.modBus fun b => { b with inRound := false } := by
    simp [State.endRoundOnce, hround, hdue, howed, State.modBus]
  rw [State.endRound, honce, endRoundOnce_stands _ (.inl rfl)]

theorem endRoundOnce_frame : ∃ inRound round cursor owed periods, s.endRoundOnce =
    { s with bus := { s.bus with
      inRound := inRound, round := round, cursor := cursor, owedRound := owed, periods := periods } } := by
  unfold State.endRoundOnce
  split
  · by_cases h : s.bus.owedRound = true
    · exact ⟨true, s.bus.round + 1, 0, false, tabMap ScanEntry.period s.scan, by simp [State.modBus, h, Bus.beginRound]⟩
    · exact ⟨false, s.bus.round, s.bus.cursor, s.bus.owedRound, s.bus.periods, by simp [State.modBus, h]⟩
  · exact ⟨_, _, _, _, _, rfl⟩

/-- The end of rounds changes the scanner's part of the controller alone. -/
theorem endRound_frame : ∃ inRound round cursor owed periods, s.endRound =
    { s with bus := { s.bus with
      inRound := inRound, round := round, cursor := cursor, owedRound := owed, periods := periods } } := by
  obtain ⟨_, _, _, _, _, h⟩ := endRoundOnce_frame s
  obtain ⟨a, b, c, d, e, h'⟩ := endRoundOnce_frame s.endRoundOnce
  refine ⟨a, b, c, d, e, h'.trans ?_⟩
  rw [h]

theorem arbitrate_of_busy (h : s.bus.state ≠ .idle) : s.arbitrate = s := if_pos h

theorem arbitrate_frame : s.arbitrate = { s with bus := s.arbitrate.bus } := by
  unfold State.arbitrate
  obtain ⟨_, _, _, _, _, h⟩ := endRound_frame s
  rw [h]
  dsimp only
  split
  · rfl
  · split
    · rfl
    · split <;> rfl

variable (hidle : s.bus.state = .idle)
include hidle

theorem arbitrate_quiet (htransfer : s.bus.transfer = none) (hround : s.bus.inRound = false) : s.arbitrate = s := by
  simp [State.arbitrate, hidle, endRound_stands s (.inl hround), htransfer, hround]

/-- The scanner's next due entry is granted an IDLE bus. -/
theorem arbitrate_grants (htransfer : s.bus.transfer = none) (hround : s.bus.inRound = true) {i : ScanId}
    (hdue : s.nextDue = some i) : s.arbitrate = s.modBus fun b =>
      { b with state := .scanActive, attempt := 1, entry := some i, cursor := i.val + 1,
               txn := some (grantedTxn (s.scan.get i)) } := by
  have hstands : s.endRound = s := endRound_stands s (.inr (by rw [hdue]; rfl))
  simp [State.arbitrate, hidle, hstands, htransfer, hround, hdue]

/-- A waiting transfer is granted an IDLE bus first. -/
theorem arbitrate_transfer {x : Transfer} (htransfer : s.bus.transfer = some x) :
    s.arbitrate.bus.state = .mgmtActive ∧ s.arbitrate.bus.attempt = 1 ∧
      s.arbitrate.bus.transfer = some { x with active := true } ∧ s.arbitrate.bus.buffer = s.bus.buffer := by
  obtain ⟨_, _, _, _, _, h⟩ := endRound_frame s
  simp [State.arbitrate, hidle, h, htransfer]

end

@[simp] theorem arbitrate_points (s : State) : s.arbitrate.points = s.points := by rw [arbitrate_frame]
@[simp] theorem arbitrate_scan (s : State) : s.arbitrate.scan = s.scan := by rw [arbitrate_frame]
@[simp] theorem arbitrate_part (s : State) : s.arbitrate.part = s.part := by rw [arbitrate_frame]

end Sys2Proof.Machine
end

section
/-! PROOF. Scan rounds begin; transactions start, are made again, or end ARB_LOST (O42). -/

namespace Sys2Proof.Machine

/-! ### Bytes kept at a lost attempt (R158, R166) -/

/-- A WRITE, and a transfer not yet begun, has received nothing. -/
theorem keepReceived_none (s : State) (moved : List Byte)
    (h : ∀ f, s.bus.transfer = some f → f.active = false ∨ f.write = true) :
    s.keepReceived moved = s := by
  unfold State.keepReceived
  split
  next f hf => rcases h f hf with hf | hf <;> simp [hf]
  next => rfl

/-! ### Rounds (R163, R164) -/

/-- An entry due in the round that the next expiry of the scan interval begins. -/
def State.dueNext (s : State) (i : ScanId) : Prop :=
  (s.scan.get i).inUse = true ∧ (s.bus.round + 1).toNat % (s.scan.get i).period = 0

/-- The scan interval restarted and a round begun, before the arbiter is asked. -/
def State.roundBegun (s : State) : State :=
  { s with bus := { s.bus with
      interval := some s.part.scanInterval, inRound := true, round := s.bus.round + 1, cursor := 0,
      periods := tabMap ScanEntry.period s.scan } }

section
variable {s : State}

theorem roundBegun_test (i : ScanId) :
    (decide (s.roundBegun.bus.cursor ≤ i.val) && s.roundBegun.bus.due i (s.roundBegun.scan.get i)) = true ↔
      s.dueNext i := by
  simp [State.roundBegun, Bus.due, State.dueNext]

theorem roundBegun_nextDue {i : ScanId} (h : leastIndex s.dueNext i) : s.roundBegun.nextDue = some i :=
  find_fins_of_least ⟨(roundBegun_test i).2 h.1, fun j hj => mt (roundBegun_test j).1 (h.2 j hj)⟩

theorem roundBegun_nextDue_none (h : ∀ i, ¬ s.dueNext i) : s.roundBegun.nextDue = none :=
  find_fins_none fun i => mt (roundBegun_test i).1 (h i)

theorem roundBegun_nextDue_isSome (h : ∃ i, s.dueNext i) : s.roundBegun.nextDue.isSome = true := by
  obtain ⟨i, hi⟩ := h
  rw [State.nextDue, List.find?_isSome]
  exact ⟨i, mem_fins i, (roundBegun_test i).2 hi⟩

section
variable {ms : Nat} (hms : s.bus.interval = some ms)
include hms

theorem expireInterval_failed (h : s.bus.state = .failed) :
    s.expireInterval = s.modBus fun b => { b with interval := some s.part.scanInterval } := by
  simp only [State.expireInterval, hms, h, if_true]

section
variable (hstate : s.bus.state ≠ .failed)
include hstate

/-- A round still under way is overrun, and another is owed. -/
theorem expireInterval_overrun (h : s.bus.inRound = true) : s.expireInterval =
    (s.modBus fun b => { b with interval := some s.part.scanInterval, owedRound := true }).raise
      { cause := Cause.scanOverrun, detail := some s.bus.round } := by
  simp only [State.expireInterval, hms, if_neg hstate, h, if_true]
  rfl

section
variable (hround : s.bus.inRound = false)
include hround

theorem expireInterval_begins : s.expireInterval = s.roundBegun.endRound.arbitrate := by
  simp only [State.expireInterval, hms, if_neg hstate, hround, Bool.false_eq_true, if_false]
  rfl

/-- A round with an entry due goes on while the bus is not IDLE. -/
theorem expireInterval_waits (hbusy : s.bus.state ≠ .idle) (h : ∃ i, s.dueNext i) :
    s.expireInterval = s.roundBegun := by
  rw [expireInterval_begins hms hstate hround, endRound_stands _ (.inr (roundBegun_nextDue_isSome h)),
    arbitrate_of_busy s.roundBegun hbusy]

/-- A round in which nothing is due ends at once. -/
theorem expireInterval_ends (howed : s.bus.owedRound = false) (hbus : s.bus.state ≠ .idle ∨ s.bus.transfer = none)
    (h : ∀ i, ¬ s.dueNext i) : s.expireInterval = s.roundBegun.modBus fun b => { b with inRound := false } := by
  rw [expireInterval_begins hms hstate hround, endRound_ends _ rfl (roundBegun_nextDue_none h) howed]
  by_cases hidle : s.bus.state = .idle
  · exact arbitrate_quiet _ hidle (hbus.resolve_left (not_not.2 hidle)) rfl
  · exact arbitrate_of_busy _ hidle

/-- The first entry due is granted an IDLE bus. -/
theorem expireInterval_grants (hidle : s.bus.state = .idle) (htransfer : s.bus.transfer = none) {i : ScanId}
    (h : leastIndex s.dueNext i) : s.expireInterval = s.roundBegun.modBus fun b =>
      { b with state := .scanActive, attempt := 1, entry := some i, cursor := i.val + 1,
               txn := some (grantedTxn (s.scan.get i)) } := by
  have hdue := roundBegun_nextDue h
  rw [expireInterval_begins hms hstate hround, endRound_stands _ (.inr (by rw [hdue]; rfl))]
  exact arbitrate_grants s.roundBegun hidle htransfer rfl hdue

end

end

end

/-! ### Start conditions (R157, R160) -/

section
variable {x : Txn} (hx : s.bus.txn = some x)
include hx

section
variable (hwaits : x.started = false)
include hwaits

/-- A first attempt takes the speed and the entry's fields as they stand. -/
theorem startTransaction_first (hfirst : x.retry = false) : s.startTransaction true true =
    s.modBus fun b => { b with
      clockLow := none
      dataLow := none
      txn := some { x with
        started := true, fast := s.part.fastBus, fields := (s.bus.entry.map s.scan.get).getD x.fields } } := by
  simp only [State.startTransaction, hx, hwaits, hfirst]
  cases hentry : s.bus.entry <;> simp [State.modBus, hentry]

/-- An attempt made again is counted as it starts. -/
theorem startTransaction_again (hagain : x.retry = true) : s.startTransaction true true =
    s.modBus fun b => { b with
      clockLow := none, dataLow := none, attempt := b.attempt + 1
      txn := some { x with started := true, retry := false } } := by
  simp [State.startTransaction, hx, hwaits, hagain]

theorem startTransaction_low {c d : Bool} (hlow : (c && d) = false) : s.startTransaction c d =
    s.modBus fun b => { b with
      clockLow := if c then none else some (b.clockLow.getD s.part.stretchLimit)
      dataLow := if d then none else some (b.dataLow.getD s.part.hangLimit) } := by
  simp only [State.startTransaction, hx, hwaits, hlow, Bool.false_eq_true, if_false]

end

/-! ### Arbitration lost (R159) -/

section
variable (hstarted : x.started = true) (moved : List Byte)
include hstarted

theorem loseArbitration_again (hattempt : s.bus.attempt < 4)
    (h : ∀ f, s.bus.transfer = some f → f.active = false ∨ f.write = true) : s.loseArbitration moved =
    s.modBus fun b => { b with
      txn := some { x with started := false, retry := true }, clockLow := none
      dataLow := some (b.dataLow.getD s.part.hangLimit) } := by
  have hnone : s.keepReceived moved = s := keepReceived_none s moved h
  simp [State.loseArbitration, hx, hstarted, lastAttempt, hattempt, hnone]

theorem loseArbitration_last (hattempt : 4 ≤ s.bus.attempt) (hscan : s.bus.state = .scanActive) :
    s.loseArbitration moved =
      (((s.busFault Cause.busArbLost (targetDetail x.fields)).tellScanner x .arbLost).modBus
        Bus.release).arbitrate := by
  simp [State.loseArbitration, hx, hstarted, lastAttempt, Nat.not_lt.2 hattempt, hscan]

end

end

end

/-- Settles O42: the expiry of the scan interval by bus state and round, then the start and the loss of a
transaction. -/
theorem scanRoundsAndTransactions : Obligations.ScanRoundsAndTransactions := by
  refine ⟨fun s ms hms => ?_, fun s x moved hx => ?_⟩
  · intro b periods due
    exact ⟨fun hfailed => congrArg Host.Outcome.next (expireInterval_failed hms hfailed),
      fun hstate hround => congrArg Host.Outcome.next (expireInterval_overrun hms hstate hround),
      fun hstate hround howed =>
        ⟨fun hbusy hdue => congrArg Host.Outcome.next (expireInterval_waits hms hstate hround hbusy hdue),
          fun hbus hdue => congrArg Host.Outcome.next (expireInterval_ends hms hstate hround howed hbus hdue),
          fun i hidle htransfer hi =>
            congrArg Host.Outcome.next (expireInterval_grants hms hstate hround hidle htransfer hi)⟩⟩
  · refine ⟨fun hwaits hfirst => congrArg Host.Outcome.next (startTransaction_first hx hwaits hfirst),
      fun hwaits hagain => congrArg Host.Outcome.next (startTransaction_again hx hwaits hagain),
      fun c d hwaits hlow => congrArg Host.Outcome.next (startTransaction_low hx hwaits hlow),
      fun hstarted hattempt h => congrArg Host.Outcome.next (loseArbitration_again hx hstarted moved hattempt h),
      fun i hstarted hattempt hscan hentry hkept => ⟨_, rfl, ?_⟩⟩
    have htaken := tellScanner_taken s hentry hkept Cause.busArbLost (targetDetail x.fields) .arbLost
    rw [loseArbitration_last hx hstarted moved hattempt hscan, arbitrate_points, State.modBus_points]
    rw [htaken.same]
    exact ⟨rfl, count255_eq _, rfl, fun j hj => htaken.other hj⟩

end Sys2Proof.Machine
end

section
/-! PROOF. A scan transaction and a management transfer end (O43). -/

namespace Sys2Proof.Machine

/-! ### Readings (R165) -/

/-- The bytes of a reading, U16 as a sum. -/
theorem rawReading_eq (f : ScanFormat) (b0 b1 b2 : Byte) : rawReading f b0 b1 b2 =
    match f with
    | .u16 => (b0.toNat * 256 + b1.toNat : Nat)
    | .s16 => (b0 ++ b1).toInt
    | .s24 => (b0 ++ b1 ++ b2).toInt := by
  cases f with
  | u16 =>
    have hsum : (b0 ++ b1).toNat = b0.toNat * 256 + b1.toNat := by
      rw [BitVec.toNat_append, ← Nat.shiftLeft_add_eq_or_of_lt b1.isLt, Nat.shiftLeft_eq]
    exact congrArg Int.ofNat hsum
  | s16 => rfl
  | s24 => rfl

theorem convert_eq (gain offset raw : Int) (k : DestKind) : convert gain offset raw k =
    if k = .cavernA ∨ k = .cavernB then max 0 (min 30000 (Int.fdiv (raw * gain) 1000 + offset))
    else Int.fdiv (raw * gain) 1000 + offset := by
  rw [convert, clampInt_eq (by decide), min_comm]

/-- A failure, as R165 counts it and judges the quality. -/
theorem fail_eq (p : Point) (x : PointResult) : p.fail x =
    { p with failures := min (p.failures + 1) 255, last := x
             quality := if p.value = none then .bad else if min (p.failures + 1) 255 ≤ 2 then .suspect else .bad } := by
  simp only [Point.fail, count255_eq, Option.isNone_iff_eq_none]

/-! ### A scan transaction ends (R157, R158) -/

section
variable {s : State} {x : Txn} {i : ScanId} (hscan : s.bus.state = .scanActive) (hx : s.bus.txn = some x)
  (hentry : s.bus.entry = some i) (hstarted : x.started = true)
include hscan hx hentry hstarted

theorem scanComplete_ok (hkept : x.discarded = false) (b0 b1 b2 : Byte) :
    s.scanComplete (.ok b0 b1 b2) = ((s.scanOk i x.fields b0 b1 b2).modBus Bus.release).arbitrate := by
  simp [State.scanComplete, hscan, hx, hentry, hstarted, hkept]

theorem scanComplete_noAck : s.scanComplete .noAck =
    (((s.busFault Cause.busNoAck (targetDetail x.fields)).tellScanner x .noAck).modBus Bus.release).arbitrate := by
  simp [State.scanComplete, hscan, hx, hentry, hstarted]

end

/-- A result taken stands when the bus is released and the arbiter asked. -/
theorem PointTaken.released {s u : State} {i : ScanId} {f : Point → Point} (h : PointTaken s i f u) :
    (u.modBus Bus.release).arbitrate.points.get i = f (s.points.get i) ∧
      (∀ j, j ≠ i → (u.modBus Bus.release).arbitrate.points.get j = s.points.get j) ∧
      (u.modBus Bus.release).arbitrate.scan = s.scan ∧ (u.modBus Bus.release).arbitrate.part = s.part := by
  rw [arbitrate_points, arbitrate_scan, arbitrate_part]
  exact ⟨h.same, fun j hj => h.other hj, h.scan, h.part⟩

/-! ### A management transfer ends (R166) -/

/-- The items of a transfer's reply after the STATUS item. -/
theorem transferFields_eq (f : Transfer) (r : TransferResult) (n : Nat) (buf : Vector Byte 32) :
    transferFields f r n buf =
    fieldItem 0 0 (code transferResults r) :: fieldItem 0 1 (nat n) ::
      (List.range (if f.write then 0 else (f.count + 3) / 4)).map fun k =>
        fieldItem 0 (2 + k) (bufferWord buf f.count k) := by
  unfold transferFields
  cases f.write <;> rfl

/-- What the end of a held transfer comes to once the bus is released, its reply among it. -/
structure TransferEnded (s : State) (f : Transfer) (r : TransferResult) (n : Nat) (received : List Byte) (v : State) :
    Prop where
  state    : v.bus.state = .idle
  transfer : v.bus.transfer = none
  txn      : v.bus.txn = none
  buffer   : v.bus.buffer = if f.write then s.bus.buffer else overwrite s.bus.buffer (received.take f.count)
  link     : ∃ a, v.link = (State.answer s 0x0B f.dst f.seq
    (({ kind := 0x60, value := 0, auxA := a, auxB := 0xFFFFFFFF, auxC := 0xFFFFFFFF } ::
      transferFields f r n v.bus.buffer).take 16)).link

theorem endTransfer_ended {s : State} {f : Transfer} (hf : s.bus.transfer = some f) (r : TransferResult) (n : Nat)
    (received : List Byte) : TransferEnded s f r n received ((s.endTransfer r n received).modBus Bus.release) := by
  rw [endTransfer_held s r n received hf]
  have hbus := replyDone_bus (s.modBus fun b => { b with
      transfer := none
      buffer := if f.write then s.bus.buffer else overwrite s.bus.buffer (received.take f.count) }) f.dst f.seq .done
        absent absent
        (transferFields f r n (if f.write then s.bus.buffer else overwrite s.bus.buffer (received.take f.count)))
  refine ⟨rfl, ?_, rfl, ?_, Config.statusCauseWord s.free, ?_⟩
  · rw [State.modBus_bus, hbus]
    rfl
  · rw [State.modBus_bus, hbus]
    rfl
  · rw [State.modBus_link, State.modBus_bus, hbus]
    rfl

/-- A READ's bytes stand in the buffer. -/
theorem TransferEnded.read {s v : State} {f : Transfer} {r : TransferResult} {n : Nat} {received : List Byte}
    (h : TransferEnded s f r n received v) (hread : f.write = false) {k : Fin 32} {b : Byte} (hk : k.val < f.count)
    (hb : received[k.val]? = some b) : v.bus.buffer.get k = b := by
  rw [h.buffer, hread, if_neg Bool.false_ne_true, overwrite_get, List.getElem?_take_of_lt hk, hb, Option.getD_some]

section
variable {s : State} {x : Txn} {f : Transfer} (hmgmt : s.bus.state = .mgmtActive) (hx : s.bus.txn = some x)
  (hf : s.bus.transfer = some f) (hstarted : x.started = true) (bytes : List Byte)
include hmgmt hx hf hstarted

theorem transferComplete_ok :
    s.transferComplete (.ok bytes) = ((s.endTransfer .ok f.count bytes).modBus Bus.release).arbitrate := by
  simp [State.transferComplete, hmgmt, hx, hf, hstarted]

theorem transferComplete_noAck :
    s.transferComplete (.noAck bytes) = ((s.endTransfer .noAck bytes.length bytes).modBus Bus.release).arbitrate := by
  simp [State.transferComplete, hmgmt, hx, hf, hstarted]

end

/-- Settles O43: what the result of a scan transaction makes of its point, then the end of a transfer with its reply. -/
theorem transactionsEndWithResults : Obligations.TransactionsEndWithResults := by
  refine ⟨fun s x i b0 b1 b2 hscan hx hentry hstarted hkept => ?_, fun s x f bytes hmgmt hx hf hstarted => ?_⟩
  · intro raw v kind p n
    refine ⟨⟨_, rfl, ?_⟩, ⟨_, rfl, ?_⟩⟩
    · obtain ⟨hpoint, hrest⟩ := (scanOk_taken s i x.fields b0 b1 b2).released
      rw [convert_eq, rawReading_eq] at hpoint
      rw [scanComplete_ok hscan hx hentry hstarted hkept]
      exact ⟨hpoint, hrest⟩
    · obtain ⟨hpoint, hrest⟩ :=
        (tellScanner_taken s hentry hkept Cause.busNoAck (targetDetail x.fields) .noAck).released
      rw [fail_eq] at hpoint
      rw [scanComplete_noAck hscan hx hentry hstarted]
      exact ⟨hpoint, hrest⟩
  · intro n ended
    have hended {r : TransferResult} {count : Nat} (result : Word) (hr : code transferResults r = result) :
        ended result count ((s.endTransfer r count bytes).modBus Bus.release).arbitrate := by
      have h := endTransfer_ended hf r count bytes
      obtain ⟨a, hlink⟩ := h.link
      rw [transferFields_eq, hr] at hlink
      refine ⟨_, rfl, h.state, h.transfer, h.txn, fun hwrite => ?_, fun hread k b => h.read hread, a, _, hlink, rfl⟩
      rw [h.buffer, if_pos hwrite]
    refine ⟨⟨_, rfl, ?_⟩, ⟨_, rfl, ?_⟩⟩
    · rw [transferComplete_ok hmgmt hx hf hstarted]
      exact hended 0 rfl
    · rw [transferComplete_noAck hmgmt hx hf hstarted]
      exact hended 1 rfl

end Sys2Proof.Machine
end

section
/-! PROOF. Guard timers end transactions HUNG, and recoveries end (O44). -/

namespace Sys2Proof.Machine

/-! ### Transactions hung (R160) -/

theorem busFault_faults (s : State) (c : Cause) (d : Word) :
    ((s.busFault c d).faults.ring.getLast?.map fun r => (r.cause, r.detail)) = some (c, some d) := by
  rw [State.busFault, raise_faults, add_getLast]
  rfl

theorem busFault_bus (s : State) (c : Cause) (d : Word) : (s.busFault c d).bus = s.bus := by
  rw [State.busFault, raise_frame]

section
variable {s : State} {x : Txn} (hx : s.bus.txn = some x) (line : Word) (bytes : List Byte)
include hx

/-- A hung management transfer ends with nothing held, and BUS_HUNG is the last fault. -/
theorem hang_transfer (hmgmt : s.bus.state = .mgmtActive) :
    (s.hang line bytes).bus.state = .recovering ∧ (s.hang line bytes).bus.pulses = 0 ∧
      (s.hang line bytes).bus.txn = none ∧ (s.hang line bytes).bus.transfer = none ∧
      ((s.hang line bytes).faults.ring.getLast?.map fun r => (r.cause, r.detail)) =
        some (Cause.busHung, some line) := by
  have hhang : s.hang line bytes = ((s.busFault Cause.busHung line).endTransfer .hung (s.bus.moved bytes).length
      (s.bus.moved bytes)).modBus Bus.startRecovery := by
    simp [State.hang, hx, hmgmt]
  obtain ⟨buf, hbus⟩ := endTransfer_bus (s.busFault Cause.busHung line) .hung (s.bus.moved bytes).length
    (s.bus.moved bytes)
  rw [hhang, State.modBus_bus, hbus, State.modBus_faults, endTransfer_faults]
  exact ⟨rfl, rfl, rfl, rfl, busFault_faults s _ _⟩

/-- A hung scan transaction leaves its point's last result HUNG. -/
theorem hang_scan (hscan : s.bus.state = .scanActive) {i : ScanId} (hentry : s.bus.entry = some i)
    (hkept : x.discarded = false) :
    (s.hang line bytes).bus.state = .recovering ∧ (s.hang line bytes).bus.pulses = 0 ∧
      ((s.hang line bytes).points.get i).last = .hung := by
  have hhang : s.hang line bytes =
      ((s.busFault Cause.busHung line).tellScanner x .hung).modBus Bus.startRecovery := by
    simp [State.hang, hx, hscan]
  rw [hhang, State.modBus_points, (tellScanner_taken s hentry hkept Cause.busHung line .hung).same]
  exact ⟨rfl, rfl, rfl⟩

end

section
variable (s : State) (bytes : List Byte) (pulses : Nat)

theorem expireClockLow_hangs (h : s.bus.state = .scanActive ∨ s.bus.state = .mgmtActive) :
    s.expireClockLow bytes pulses = s.hang 1 bytes := by
  rcases h with h | h <;> simp only [State.expireClockLow, h]

theorem expireDataLow_hangs (h : s.bus.state = .scanActive ∨ s.bus.state = .mgmtActive) :
    s.expireDataLow bytes = s.hang 2 bytes := by
  rcases h with h | h <;> simp only [State.expireDataLow, h]

theorem expireClockLow_recovering (h : s.bus.state = .recovering) :
    s.expireClockLow bytes pulses = s.failRecovery pulses := by
  simp only [State.expireClockLow, h]

/-- Outside a transaction or a recovery nothing hangs. -/
theorem guards_stand (h : s.bus.state = .idle ∨ s.bus.state = .failed) :
    s.expireClockLow bytes pulses = s ∧ s.expireDataLow bytes = s := by
  rcases h with h | h <;> simp only [State.expireClockLow, State.expireDataLow, h, and_self]

end

/-! ### Recoveries (R161, R162) -/

section
variable (s : State)

/-- The reply owed for a recovery sent: nothing is owed, and of the rest only the ports and the free values are used. -/
theorem replyRecovery_frame : ∃ link n, s.replyRecovery =
    { s with bus := { s.bus with owed := none }, link := link, free := n } := by
  unfold State.replyRecovery
  split
  next dst seq _ => exact ⟨_, _, replyDone_frame _ _ _ _ _ _ _⟩
  next h => exact ⟨s.link, s.free, by rw [← h]⟩

variable (pulses : Nat)

theorem failRecovery_failed :
    (s.failRecovery pulses).bus.state = .failed ∧ (s.failRecovery pulses).bus.pulses = pulses ∧
      (s.failRecovery pulses).bus.inRound = false ∧ (s.failRecovery pulses).bus.owedRound = false ∧
      (s.failRecovery pulses).bus.transfer = none ∧ (s.failRecovery pulses).bus.owed = none ∧
      (s.failRecovery pulses).points = s.points ∧
      ((s.failRecovery pulses).faults.ring.getLast?.map fun r => (r.cause, r.detail)) =
        some (Cause.busFailed, some (nat pulses)) := by
  unfold State.failRecovery
  extract_lets s1
  obtain ⟨link, n, hreply⟩ :=
    replyRecovery_frame
      ((s1.raise { cause := Cause.busFailed, detail := some (nat pulses) }).endTransfer .notStarted 0 [])
  obtain ⟨buf, hbus⟩ :=
    endTransfer_bus (s1.raise { cause := Cause.busFailed, detail := some (nat pulses) }) .notStarted 0 []
  have hraise : (s1.raise { cause := Cause.busFailed, detail := some (nat pulses) }).bus = s1.bus ∧
      (s1.raise { cause := Cause.busFailed, detail := some (nat pulses) }).points = s1.points := by
    rw [raise_frame]
    exact ⟨rfl, rfl⟩
  rw [hreply]
  dsimp only
  rw [hbus, hraise.1, endTransfer_points, hraise.2, endTransfer_faults, raise_faults, add_getLast]
  exact ⟨rfl, rfl, rfl, rfl, rfl, rfl, rfl, rfl⟩

/-- A recovery that frees the lines leaves the bus IDLE for the arbiter. -/
theorem recoveryEnds_freed (h : s.bus.state = .recovering) : ∃ u : State, s.recoveryEnds pulses true = u.arbitrate ∧
    u.bus.state = .idle ∧ u.bus.pulses = pulses ∧ u.bus.owed = none ∧ u.faults = s.faults ∧ u.points = s.points ∧
    u.bus.transfer = s.bus.transfer := by
  obtain ⟨link, n, hreply⟩ := replyRecovery_frame
    (s.modBus fun b => { b with state := .idle, pulses := pulses, clockLow := none, dataLow := none })
  refine ⟨(s.modBus fun b =>
    { b with state := .idle, pulses := pulses, clockLow := none, dataLow := none }).replyRecovery, ?_, ?_⟩
  · rw [State.recoveryEnds, if_neg (not_not.2 h), if_pos rfl]
  · rw [hreply]
    exact ⟨rfl, rfl, rfl, rfl, rfl, rfl⟩

theorem recoveryEnds_held (h : s.bus.state = .recovering) : s.recoveryEnds pulses false = s.failRecovery pulses := by
  rw [State.recoveryEnds, if_neg (not_not.2 h), if_neg Bool.false_ne_true]

end

/-- Settles O44: a guard timer in a transaction, a recovery that fails or frees the lines, and the states in which
neither is under way. -/
theorem hungTransactionsAreRecovered : Obligations.HungTransactionsAreRecovered := by
  intro s bytes pulses
  refine ⟨fun x hmgmt hx => ⟨⟨_, rfl, ?_⟩, ⟨_, rfl, ?_⟩⟩, fun x i hscan hx hentry hkept => ⟨⟨_, rfl, ?_⟩, ⟨_, rfl, ?_⟩⟩,
    fun hrecovering => ⟨⟨_, rfl, ?_⟩, ⟨_, rfl, ?_⟩, ?_⟩,
    fun hother freed => congrArg Host.Outcome.next (if_pos hother), fun hquiet => ?_⟩
  · rw [expireClockLow_hangs s bytes pulses (.inr hmgmt)]
    exact hang_transfer hx 1 bytes hmgmt
  · rw [expireDataLow_hangs s bytes (.inr hmgmt)]
    exact hang_transfer hx 2 bytes hmgmt
  · rw [expireClockLow_hangs s bytes pulses (.inl hscan)]
    exact hang_scan hx 1 bytes hscan hentry hkept
  · rw [expireDataLow_hangs s bytes (.inl hscan)]
    exact hang_scan hx 2 bytes hscan hentry hkept
  · rw [recoveryEnds_held s pulses hrecovering]
    exact failRecovery_failed s pulses
  · rw [expireClockLow_recovering s bytes pulses hrecovering]
    exact failRecovery_failed s pulses
  · obtain ⟨u, hu, hrest⟩ := recoveryEnds_freed s pulses hrecovering
    exact ⟨u, congrArg Host.Outcome.next hu, hrest⟩
  · obtain ⟨hclock, hdata⟩ := guards_stand s bytes pulses hquiet
    exact ⟨congrArg Host.Outcome.next hclock, congrArg Host.Outcome.next hdata⟩

end Sys2Proof.Machine
end

section
/-! PROOF. BUS_RECOVER and BUS_TRANSFER by bus state (O45). -/

namespace Sys2Proof.Machine

/-! ### The data words of a WRITE (R166, R179) -/

/-- The last item of a data field. -/
def lastField (fs : List Field) (k : Nat) : Option Field := fs.reverse.find? fun f => f.number.toNat == k

/-- The bytes of one more data field after those of the fields before it. -/
def nextWord (fs : List Field) (acc : Option (List Byte)) (k : Nat) : Option (List Byte) :=
  acc.bind fun l => (lastField fs k).map fun f => l ++ wordBytes f.value

/-- The items of a WRITE are exactly those of its data fields. -/
def wholeData (count : Nat) (fs : List Field) : Prop :=
  (∀ f ∈ fs, f.number.toNat < (count + 3) / 4) ∧ ∀ k < (count + 3) / 4, ∃ f ∈ fs, f.number.toNat = k

/-- The later of two items of one field stands. -/
theorem lastField_split {before after : List Field} {f : Field} (h : ∀ g ∈ after, g.number ≠ f.number) :
    lastField (before ++ f :: after) f.number.toNat = some f := by
  have hafter : after.reverse.find? (fun g => g.number.toNat == f.number.toNat) = none := by
    rw [List.find?_eq_none]
    intro g hg hsame
    exact h g (List.mem_reverse.1 hg) (BitVec.eq_of_toNat_eq (beq_iff_eq.1 hsame))
  simp [lastField, List.find?_append, hafter]

theorem lastField_isSome {fs : List Field} {k : Nat} :
    (lastField fs k).isSome = true ↔ ∃ f ∈ fs, f.number.toNat = k := by
  simp [lastField]

theorem transferData_eq (count : Nat) (fs : List Field) : transferData count fs =
    if fs.any fun f => decide ((count + 3) / 4 ≤ f.number.toNat) then none
    else ((List.range ((count + 3) / 4)).foldl (nextWord fs) (some [])).map fun l => l.take count := by
  unfold transferData
  dsimp only
  congr 3
  funext acc k
  unfold nextWord lastField
  cases acc with
  | none => rfl
  | some l => cases List.find? (fun f => f.number.toNat == k) fs.reverse <;> rfl

/-- The words of the first `n` data fields, one after another. -/
theorem words_given {fs : List Field} {n : Nat} (h : ∀ k < n, (lastField fs k).isSome = true) :
    ∃ l, (List.range n).foldl (nextWord fs) (some []) = some l ∧ l.length = 4 * n ∧
      ∀ (k : Nat) (f : Field), k < 4 * n → lastField fs (k / 4) = some f →
        l[k]? = some ((wordBytes f.value).getD (k % 4) 0) := by
  induction n with
  | zero => exact ⟨[], rfl, rfl, fun k f hk => absurd hk (Nat.not_lt_zero k)⟩
  | succ n ih =>
    obtain ⟨l, hl, hlength, hbytes⟩ := ih fun k hk => h k (Nat.lt_succ_of_lt hk)
    obtain ⟨g, hg⟩ := Option.isSome_iff_exists.1 (h n (Nat.lt_succ_self n))
    have hword : (wordBytes g.value).length = 4 := rfl
    refine ⟨l ++ wordBytes g.value, ?_, by rw [List.length_append, hlength, hword]; omega, fun k f hk hf => ?_⟩
    · rw [List.range_succ, List.foldl_append, hl]
      simp [nextWord, hg]
    · by_cases hold : k < 4 * n
      · rw [List.getElem?_append_left (by omega), hbytes k f hold hf]
      · have hquot : k / 4 = n := by omega
        have hrem : k - l.length = k % 4 := by omega
        obtain rfl : g = f := Option.some.inj (hg.symm.trans (hquot ▸ hf))
        rw [List.getElem?_append_right (by omega), hrem, List.getD_eq_getElem?_getD,
          List.getElem?_eq_getElem (by rw [hword]; omega), Option.getD_some]

/-- A missing data field leaves no words. -/
theorem words_missing {fs : List Field} {k n : Nat} (hk : k < n) (h : lastField fs k = none) :
    (List.range n).foldl (nextWord fs) (some []) = none := by
  induction n with
  | zero => exact absurd hk (Nat.not_lt_zero k)
  | succ n ih =>
    rw [List.range_succ, List.foldl_append, List.foldl_cons, List.foldl_nil]
    rcases Nat.lt_succ_iff_lt_or_eq.1 hk with hlt | rfl
    · rw [ih hlt]
      rfl
    · rw [nextWord, h]
      cases (List.range k).foldl (nextWord fs) (some []) <;> rfl

theorem anyBeyond_iff (count : Nat) (fs : List Field) :
    (fs.any fun f => decide ((count + 3) / 4 ≤ f.number.toNat)) = true ↔
      ¬ ∀ f ∈ fs, f.number.toNat < (count + 3) / 4 := by
  simp

theorem transferData_partial {count : Nat} {fs : List Field} (h : ¬ wholeData count fs) :
    transferData count fs = none := by
  rw [transferData_eq]
  split
  next => rfl
  next hwithin =>
    have hmissing : ∃ k < (count + 3) / 4, ¬ ∃ f ∈ fs, f.number.toNat = k := by
      by_contra hall
      push Not at hall
      exact h ⟨not_not.1 (mt (anyBeyond_iff count fs).2 hwithin), hall⟩
    obtain ⟨k, hk, hnone⟩ := hmissing
    rw [words_missing hk (Option.not_isSome_iff_eq_none.1 (mt lastField_isSome.1 hnone))]
    rfl

/-- The bytes of a WRITE's data fields as the buffer takes them. -/
theorem transferData_whole {count : Nat} {fs : List Field} (h : wholeData count fs) :
    ∃ bytes, transferData count fs = some bytes ∧
      ∀ (k : Nat) (f : Field), k < count → lastField fs (k / 4) = some f →
        bytes[k]? = some ((wordBytes f.value).getD (k % 4) 0) := by
  obtain ⟨hwithin, hall⟩ := h
  obtain ⟨l, hl, hlength, hbytes⟩ := words_given fun k hk => lastField_isSome.2 (hall k hk)
  refine ⟨l.take count, ?_, fun k f hk hf => ?_⟩
  · rw [transferData_eq, if_neg (mt (anyBeyond_iff count fs).1 (not_not.2 hwithin)), hl]
    rfl
  · rw [List.getElem?_take_of_lt hk, hbytes k f (by omega) hf]

/-! ### BUS_TRANSFER (R166) -/

theorem transferArguments_iff (a o n : Nat) :
    transferArguments a o n = true ↔ a ≤ 127 ∧ o ≤ 255 ∧ 1 ≤ n ∧ n ≤ 32 := by
  simp [transferArguments, and_assoc]

theorem busy_iff (b : Bus) : b.busy = true ↔ b.state = .recovering ∨ b.state = .failed ∨ b.transfer ≠ none := by
  simp [Bus.busy, Option.isSome_iff_ne_none, or_assoc]

/-- The bytes a transfer lays over the buffer as it is accepted: zeros for a READ. -/
def openingBytes (count : Nat) : Option (List Field) → Option (List Byte)
  | none => some (List.replicate 32 0)
  | some fs => transferData count fs

/-- A transfer as it is accepted. -/
def acceptedTransfer (m : Manager) (a o n : Nat) (write : Bool) : Transfer :=
  { write := write, address := BitVec.ofNat 7 a, register := BitVec.ofNat 8 o, count := n, active := false,
    dst := m.dst, seq := m.seq }

section
variable (s : State) (m : Manager) (a o n : Nat) (data : Option (List Field))

/-- The bus with an accepted transfer held. -/
def State.holdTransfer (bytes : List Byte) : State :=
  s.modBus fun b =>
    { b with buffer := overwrite b.buffer bytes, transfer := some (acceptedTransfer m a o n data.isSome) }

theorem busTransfer_badData (h : openingBytes n data = none) :
    s.busTransfer m a o n data = s.refuseManage m { cause := .badValue } := by
  cases data with
  | none => cases h
  | some fs =>
    have hdata : transferData n fs = none := h
    simp only [State.busTransfer, hdata]
    rfl

section
variable {bytes : List Byte} (hbytes : openingBytes n data = some bytes)
include hbytes

theorem busTransfer_judged : s.busTransfer m a o n data =
    if !transferArguments a o n then s.refuseManage m { cause := .badValue }
    else if s.bus.busy then s.refuseManage m { cause := .busBusy }
    else (s.holdTransfer m a o n data bytes).arbitrate := by
  cases data with
  | none =>
    obtain rfl : List.replicate 32 0 = bytes := Option.some.inj hbytes
    rfl
  | some fs =>
    have hdata : transferData n fs = some bytes := hbytes
    simp only [State.busTransfer, hdata]
    rfl

end

theorem busTransfer_badArguments (h : ¬ transferArguments a o n = true) :
    s.busTransfer m a o n data = s.refuseManage m { cause := .badValue } := by
  cases hbytes : openingBytes n data with
  | none => exact busTransfer_badData s m a o n data hbytes
  | some bytes => rw [busTransfer_judged s m a o n data hbytes, if_pos (by simpa using h)]

section
variable {bytes : List Byte} (hbytes : openingBytes n data = some bytes) (hfits : transferArguments a o n = true)
include hbytes hfits

theorem busTransfer_busy (h : s.bus.busy = true) :
    s.busTransfer m a o n data = s.refuseManage m { cause := .busBusy } := by
  rw [busTransfer_judged s m a o n data hbytes, hfits, if_neg (by decide), if_pos h]

variable (hfree : ¬ s.bus.busy = true)
include hfree

theorem busTransfer_accepted : s.busTransfer m a o n data = (s.holdTransfer m a o n data bytes).arbitrate := by
  rw [busTransfer_judged s m a o n data hbytes, hfits, if_neg (by decide), if_neg hfree]

/-- A scan transaction in progress goes on; the transfer waits for its end. -/
theorem busTransfer_waits (h : s.bus.state = .scanActive) :
    s.busTransfer m a o n data = s.holdTransfer m a o n data bytes := by
  rw [busTransfer_accepted s m a o n data hbytes hfits hfree]
  exact arbitrate_of_busy _ (by rw [State.holdTransfer, State.modBus_bus, h]; decide)

theorem busTransfer_runs (h : s.bus.state = .idle) :
    (s.busTransfer m a o n data).bus.state = .mgmtActive ∧ (s.busTransfer m a o n data).bus.attempt = 1 ∧
      (s.busTransfer m a o n data).bus.transfer =
        some { acceptedTransfer m a o n data.isSome with active := true } ∧
      (s.busTransfer m a o n data).bus.buffer = overwrite s.bus.buffer bytes := by
  rw [busTransfer_accepted s m a o n data hbytes hfits hfree]
  exact arbitrate_transfer (s.holdTransfer m a o n data bytes) h rfl

end

end

theorem overwrite_zeros (buf : Vector Byte 32) : overwrite buf (List.replicate 32 0) = Vector.replicate 32 0 := by
  refine vector_ext_get fun k => ?_
  rw [overwrite_get, List.getElem?_replicate_of_lt k.isLt, Option.getD_some]
  exact (Vector.getElem_replicate k.isLt).symm

/-! ### BUS_RECOVER (R162) -/

section
variable (s : State) (m : Manager)

theorem busRecover_starts (h : s.bus.state = .idle ∨ s.bus.state = .failed) :
    s.busRecover m = s.modBus fun b => { b.startRecovery with owed := some (m.dst, m.seq) } := by
  rcases h with h | h <;> simp only [State.busRecover, h]

theorem busRecover_busy (h : s.bus.state ≠ .idle) (h' : s.bus.state ≠ .failed) :
    s.busRecover m = s.refuseManage m { cause := .busBusy } := by
  unfold State.busRecover
  split
  next hidle => exact absurd hidle h
  next hfailed => exact absurd hfailed h'
  next => rfl

variable (bytes : List Byte)

/-- A scan transaction ended by an abort tells no point. -/
theorem busAbort_scan (h : s.bus.state = .scanActive) :
    s.busAbort m bytes = ((s.modBus Bus.release).replyWith m .done []).arbitrate := by
  simp [State.busAbort, State.abort, h]

theorem busAbort_transfer (h : s.bus.state = .mgmtActive) : ∃ v : State, s.busAbort m bytes = v.arbitrate ∧
    v.bus.state = .idle ∧ v.bus.txn = none ∧ v.bus.transfer = none ∧ v.points = s.points ∧ v.faults = s.faults := by
  obtain ⟨buf, hbus⟩ := endTransfer_bus s .aborted (s.bus.moved bytes).length (s.bus.moved bytes)
  refine ⟨((s.abort bytes).modBus Bus.release).replyWith m .done [], by simp only [State.busAbort, h], ?_⟩
  rw [State.abort, if_pos h, State.replyWith, replyDone_bus, replyDone_points, replyDone_faults, State.modBus_bus, hbus,
    State.modBus_points, State.modBus_faults, endTransfer_points, endTransfer_faults]
  exact ⟨rfl, rfl, rfl, rfl, rfl⟩

end

/-! ### The requests taken (R177) -/

section
variable {h : Header} {s : State} {m : Manager} (hm : s.managerOf h = some m) (hl : m.level ≤ 1)
include hm hl

theorem exec_busRecover : exec (.busRecover h) s = .next (s.busRecover m) :=
  congrArg Host.Outcome.next (arriveManage_accepted hm (le_refl 1) (by omega) nofun hl)

theorem exec_busRecoverAbort (bytes : List Byte) : exec (.busRecoverAbort h bytes) s = .next (s.busAbort m bytes) :=
  congrArg Host.Outcome.next (arriveManage_accepted hm (le_refl 1) (by omega) nofun hl)

theorem exec_busTransferRead (a : HWord) (o n : Word) :
    exec (.busTransferRead h a o n) s = .next (s.busTransfer m a.toNat o.toNat n.toNat none) :=
  congrArg Host.Outcome.next (arriveManage_accepted hm (le_refl 1) (by omega) nofun hl)

theorem exec_busTransferWrite (a : HWord) (o n : Word) {fs : List Field} (hfs : fs.length ≤ 15) :
    exec (.busTransferWrite h a o n fs) s = .next (s.busTransfer m a.toNat o.toNat n.toNat (some fs)) :=
  congrArg Host.Outcome.next (arriveManage_accepted hm (by omega) (by omega) nofun hl)

end

/-- Settles O45: BUS_RECOVER with and without ABORT by bus state, then the tests of BUS_TRANSFER in their order. -/
theorem busRequests : Obligations.BusRequests := by
  refine ⟨fun h moved s m hm hl => ?_, fun h address offset count fs s m hm hl hfs => ?_⟩
  · intro plain abort busy recovering
    have hplain : plain = .next (s.busRecover m) := exec_busRecover hm hl
    have habort : abort = .next (s.busAbort m moved) := exec_busRecoverAbort hm hl moved
    rw [hplain, habort]
    refine ⟨fun hs => ⟨?_, ?_⟩, fun hs => ⟨?_, ?_⟩, fun hs => ⟨?_, ?_⟩, fun hs => ⟨?_, ?_⟩, fun hs => ⟨?_, ?_⟩⟩
    · exact congrArg Host.Outcome.next (busRecover_starts s m (.inl hs))
    · simp only [State.busAbort, hs]
    · exact congrArg Host.Outcome.next (busRecover_starts s m (.inr hs))
    · rw [show s.busAbort m moved = s.busRecover m by simp only [State.busAbort, hs]]
      exact congrArg Host.Outcome.next (busRecover_starts s m (.inr hs))
    · exact congrArg Host.Outcome.next (busRecover_busy s m (by simp [hs]) (by simp [hs]))
    · simp only [State.busAbort, hs]
      rfl
    · exact congrArg Host.Outcome.next (busRecover_busy s m (by simp [hs]) (by simp [hs]))
    · exact ⟨_, congrArg Host.Outcome.next (busAbort_scan s m moved hs), rfl⟩
    · exact congrArg Host.Outcome.next (busRecover_busy s m (by simp [hs]) (by simp [hs]))
    · obtain ⟨v, hv, hrest⟩ := busAbort_transfer s m moved hs
      exact ⟨v, congrArg Host.Outcome.next hv, hrest⟩
  · intro read write fits n whole busy bad waiting given
    have hread : read = .next (s.busTransfer m address.toNat offset.toNat count.toNat none) :=
      exec_busTransferRead hm hl address offset count
    have hwrite : write = .next (s.busTransfer m address.toNat offset.toNat count.toNat (some fs)) :=
      exec_busTransferWrite hm hl address offset count hfs
    have hfits : transferArguments address.toNat offset.toNat count.toNat = true ↔ fits := transferArguments_iff _ _ _
    have hbusy : s.bus.busy = true ↔ busy := busy_iff s.bus
    have hzeros : openingBytes count.toNat none = some (List.replicate 32 0) := rfl
    have hdata (hw : whole) : ∃ bytes, openingBytes count.toNat (some fs) = some bytes ∧
        given (overwrite s.bus.buffer bytes) := by
      obtain ⟨bytes, hbytes, hplace⟩ := transferData_whole hw
      refine ⟨bytes, hbytes, fun before after f k hsplit hlast hk hfield => ?_⟩
      rw [overwrite_get, hplace k.val f hk (by rw [hfield, hsplit]; exact lastField_split hlast), Option.getD_some]
    rw [hread, hwrite]
    refine ⟨fun hf => ⟨?_, ?_⟩, fun hw => ?_, fun hf hb => ?_, fun hf hw hb => ?_, fun hf hb hs => ?_,
      fun hf hw hb hs => ?_, fun hf hw hb hs => ?_, fun hf hb hs => ?_⟩
    · exact congrArg Host.Outcome.next (busTransfer_badArguments s m _ _ _ _ (mt hfits.1 hf))
    · exact congrArg Host.Outcome.next (busTransfer_badArguments s m _ _ _ _ (mt hfits.1 hf))
    · exact congrArg Host.Outcome.next (busTransfer_badData s m _ _ _ _ (transferData_partial hw))
    · exact congrArg Host.Outcome.next (busTransfer_busy s m _ _ _ _ hzeros (hfits.2 hf) (hbusy.2 hb))
    · obtain ⟨bytes, hbytes, -⟩ := hdata hw
      exact congrArg Host.Outcome.next (busTransfer_busy s m _ _ _ _ hbytes (hfits.2 hf) (hbusy.2 hb))
    · rw [busTransfer_waits s m _ _ _ _ hzeros (hfits.2 hf) (mt hbusy.1 hb) hs, State.holdTransfer, State.modBus,
        overwrite_zeros]
      rfl
    · obtain ⟨bytes, hbytes, hgiven⟩ := hdata hw
      exact ⟨_, hgiven, congrArg Host.Outcome.next
        (busTransfer_waits s m _ _ _ _ hbytes (hfits.2 hf) (mt hbusy.1 hb) hs)⟩
    · obtain ⟨bytes, hbytes, hgiven⟩ := hdata hw
      obtain ⟨hstate, hattempt, htransfer, hbuffer⟩ :=
        busTransfer_runs s m _ _ _ _ hbytes (hfits.2 hf) (mt hbusy.1 hb) hs
      exact ⟨_, rfl, hstate, hattempt, htransfer, hbuffer ▸ hgiven⟩
    · obtain ⟨hstate, hattempt, htransfer, hbuffer⟩ :=
        busTransfer_runs s m _ _ _ _ hzeros (hfits.2 hf) (mt hbusy.1 hb) hs
      exact ⟨_, rfl, hstate, hattempt, htransfer, hbuffer.trans (overwrite_zeros _)⟩

end Sys2Proof.Machine
end

section
/-! PROOF. What a recomputation of one cavern leaves of the configurations and of the other cavern, and the usable
transmitters that stand after several recomputations (O51). -/

namespace Sys2Proof.Machine

/-! ### One cavern recomputed (R92, R102) -/

/-- What a recomputation of cavern `c` leaves: every configuration, and of another cavern all but its direction and its
holders, which a trip at a hard limit may take. -/
structure OthersStand (s : State) (c : CavernId) (u : State) : Prop where
  cfg    : ∀ d, (u.cavern d).cfg = (s.cavern d).cfg
  other  : ∀ d, d ≠ c → (s.cavern d).run.sameBut (u.cavern d).run
  trains : ∀ t, u.cfg t = s.cfg t

theorem othersStand_refl (s : State) (c : CavernId) : OthersStand s c s :=
  ⟨fun _ => rfl, fun _ _ => sameBut_refl _, fun _ => rfl⟩

theorem unclaimed_cfg (v : Vector Cavern 2) (d e : CavernId) (t : TrainId) :
    ((unclaimed v e t).get d).cfg = (v.get d).cfg := by
  unfold unclaimed
  split
  · rw [modAt_get]
    split
    next h => rw [h]
    next => rfl
  · rfl

theorem tripEnvelope_cavern_cfg (s : State) (t : TrainId) (p : Int) (d : CavernId) :
    ((s.tripEnvelope t p).cavern d).cfg = (s.cavern d).cfg := by
  unfold State.tripEnvelope
  split
  · rw [State.tripBySequencer, State.cavern, State.cavern, seqRaise_caverns, takeDown_caverns, sendTrip_frame]
    split
    · exact unclaimed_cfg _ _ _ _
    · rfl
  · rfl

section
variable {s u : State} {c : CavernId} (h : OthersStand s c u)
include h

theorem OthersStand.modCavern (f : CavernRun → CavernRun) : OthersStand s c (u.modCavern c f) := by
  refine ⟨fun d => ?_, fun d hd => ?_, h.trains⟩
  · rw [State.cavern_modCavern]
    split
    next hd => rw [hd]; exact h.cfg c
    next => exact h.cfg d
  · rw [State.cavern_modCavern, if_neg hd]
    exact h.other d hd

theorem OthersStand.raise (f : FaultInfo) : OthersStand s c (u.raise f) :=
  ⟨fun d => by rw [raise_cavern]; exact h.cfg d, fun d hd => by rw [raise_cavern]; exact h.other d hd,
    fun t => by rw [raise_cfg]; exact h.trains t⟩

theorem OthersStand.tripEnvelope (t : TrainId) (p : Int) : OthersStand s c (u.tripEnvelope t p) :=
  ⟨fun d => (tripEnvelope_cavern_cfg u t p d).trans (h.cfg d),
    fun d hd => (h.other d hd).trans (tripEnvelope_sameBut u d t p),
    fun v => (cfg_of_trainsMod (tripEnvelope_trains u t p) v).trans (h.trains v)⟩

theorem OthersStand.tripHolders (p : Int) : OthersStand s c (u.tripHolders c p) :=
  foldl_keeps (P := OthersStand s c) (f := fun u t => u.tripEnvelope t p)
    (fun _ _ hx => OthersStand.tripEnvelope hx _ _) _ u h

theorem OthersStand.testHardLimits (high low : Int) : OthersStand s c (u.testHardLimits c high low) := by
  by_cases hlimit : (u.cavern c).atLimit high low
  · obtain ⟨p, e⟩ := testHardLimits_trips u c high low hlimit
    rw [e]
    exact h.tripHolders p
  · rw [testHardLimits_stands u c high low hlimit]
    exact h

theorem OthersStand.conditionChange (old new : Condition) (d : Nat) :
    OthersStand s c (u.conditionChange c old new d) := by
  have idle : OthersStand s c (if old = .blind then u.modCavern c fun r => { r with blindTimer := .idle } else u) := by
    split
    · exact h.modCavern _
    · exact h
  unfold State.conditionChange
  split
  · exact h
  · split
    · exact (h.modCavern _).raise _
    · dsimp only
      split
      · exact idle.raise _
      · exact idle

theorem OthersStand.compareHold (old new : Bool) (rate : Nat) : OthersStand s c (u.compareHold c old new rate) := by
  unfold State.compareHold
  split
  · exact h
  · exact h.raise _

theorem OthersStand.updateHolds : OthersStand s c (u.updateHolds c) :=
  ((h.modCavern _).compareHold _ _ _).compareHold _ _ _

theorem OthersStand.updateRates (high low : Int) (changed : Bool) :
    OthersStand s c (u.updateRates c high low changed) := by
  unfold State.updateRates
  dsimp only
  split
  · split
    · exact h.modCavern _
    · split
      · exact h
      · exact (h.modCavern _).updateHolds
  · exact h.modCavern _

end

theorem recomputed_othersStand (s : State) (c : CavernId) : OthersStand s c (s.recomputed c) := by
  have hs := othersStand_refl s c
  by_cases hcfg : (s.cavern c).cfg.configured = true
  · rcases selectPressure_cases (s.cavern c).cfg.tolerance (s.usablePressure c .a) (s.usablePressure c .b) with
      ⟨ha, hb⟩ | ⟨cond, high, low, -, hsel⟩
    · rw [recomputed_blind s c hcfg ha hb]
      exact ((hs.modCavern _).conditionChange _ _ _).modCavern _
    · rw [recomputed_seen s c cond high low hcfg hsel]
      exact ((((hs.modCavern _).conditionChange _ _ _).modCavern _).updateRates _ _ _).testHardLimits _ _
  · rw [recomputed_unconfigured s c (Bool.eq_false_iff.2 hcfg)]
    exact hs

/-! ### Usable transmitters recomputed (R91, R92) -/

/-- A cavern's record shows its transmitters usable as its points now make them. -/
def State.usableShown (u : State) (c : CavernId) : Prop :=
  (u.cavern c).run.usableA = (u.usablePressure c .a).isSome ∧ (u.cavern c).run.usableB = (u.usablePressure c .b).isSome

theorem usablePressure_congr {s u : State} (hu : pointsKept s u) {c : CavernId}
    (hcfg : (u.cavern c).cfg = (s.cavern c).cfg) (x : Transmitter) : u.usablePressure c x = s.usablePressure c x := by
  obtain ⟨hpoints, -, hscan, -⟩ := hu
  simp [State.usablePressure, State.cavernPoint, State.pointFor, hpoints, hscan, hcfg]

theorem recomputed_kept (s : State) (c : CavernId) : pointsKept s (s.recomputed c) :=
  (pointsFrame s).recomputed (pointsKept_refl s) c

/-- What a recomputation writes of the usable transmitters, before it could change what makes them usable. -/
theorem recomputed_usable (s : State) (c : CavernId) (hcfg : (s.cavern c).cfg.configured = true) :
    ((s.recomputed c).cavern c).run.usableA = (s.usablePressure c .a).isSome ∧
      ((s.recomputed c).cavern c).run.usableB = (s.usablePressure c .b).isSome := by
  rcases selectPressure_cases (s.cavern c).cfg.tolerance (s.usablePressure c .a) (s.usablePressure c .b) with
    ⟨ha, hb⟩ | ⟨cond, high, low, hcond, hsel⟩
  · rw [(recomputed_blind_reworked s c hcfg ha hb).run, ha, hb, CavernRun.blinded]
    dsimp only
    split <;> exact ⟨rfl, rfl⟩
  · have hrun := recomputeCavern_seen_run s c cond high low hcfg hcond hsel
    obtain ⟨_, _, _, _, _, _, _, hrated⟩ := rated_frame (s.seenRun c cond high low)
      (seconds (s.cavern c).cfg.rateWindow) (s.riseLimit c (s.seenRun c cond high low))
      (s.fallLimit c (s.seenRun c cond high low)) high low (s.usableChanged c)
    rw [cavern_of_caverns (recomputeCavern_caverns s c) c, State.ratedRun, hrated] at hrun
    obtain ⟨_, _, e⟩ := hrun
    rw [e]
    exact ⟨rfl, rfl⟩

section
variable {s : State} {c : CavernId}

theorem recomputed_usableShown (hcfg : (s.cavern c).cfg.configured = true) : (s.recomputed c).usableShown c := by
  have hpressure := usablePressure_congr (recomputed_kept s c) ((recomputed_othersStand s c).cfg c)
  rw [State.usableShown, hpressure, hpressure]
  exact recomputed_usable s c hcfg

/-- What a cavern shows stands through the recomputation of any cavern. -/
theorem State.usableShown.recomputed (h : s.usableShown c) (hcfg : (s.cavern c).cfg.configured = true) (d : CavernId) :
    (s.recomputed d).usableShown c := by
  by_cases hd : c = d
  · subst hd
    exact recomputed_usableShown hcfg
  · have hstand := recomputed_othersStand s d
    have hpressure := usablePressure_congr (recomputed_kept s d) (hstand.cfg c)
    obtain ⟨_, _, hrun⟩ := hstand.other c hd
    rw [State.usableShown, hpressure, hpressure, hrun]
    exact h

theorem usableShown_of_caverns {u : State} (h : s.usableShown c) (hu : pointsKept s u) (hc : u.caverns = s.caverns) :
    u.usableShown c := by
  have hcavern := cavern_of_caverns hc c
  have hpressure := usablePressure_congr hu (congrArg Cavern.cfg hcavern)
  rw [State.usableShown, hpressure, hpressure, hcavern]
  exact h

end

/-! ### Several caverns and stores recomputed (R163) -/

theorem foldl_recomputed_kept (l : List CavernId) (s : State) : pointsKept s (l.foldl State.recomputed s) :=
  foldl_keeps (P := pointsKept s) (fun _ c hu => (pointsFrame s).recomputed hu c) l s (pointsKept_refl s)

/-- The configurations of caverns and trains. -/
def configsKept (s u : State) : Prop :=
  (∀ d, (u.cavern d).cfg = (s.cavern d).cfg) ∧ ∀ t, u.cfg t = s.cfg t

theorem foldl_recomputed_configs (l : List CavernId) (s : State) : configsKept s (l.foldl State.recomputed s) := by
  refine foldl_keeps (P := configsKept s) (fun u c hu => ?_) l s ⟨fun _ => rfl, fun _ => rfl⟩
  have hstand := recomputed_othersStand u c
  exact ⟨fun d => (hstand.cfg d).trans (hu.1 d), fun t => (hstand.trains t).trans (hu.2 t)⟩

/-- Every configured cavern among those recomputed shows its usable transmitters at the end. -/
theorem foldl_recomputed_shown {l : List CavernId} {c : CavernId} (hc : c ∈ l) {s : State}
    (hcfg : (s.cavern c).cfg.configured = true) : (l.foldl State.recomputed s).usableShown c := by
  induction l generalizing s with
  | nil => nomatch hc
  | cons d l ih =>
    have hcfg' : ((s.recomputed d).cavern c).cfg.configured = true := by
      rw [(recomputed_othersStand s d).cfg c]
      exact hcfg
    rw [List.foldl_cons]
    by_cases hl : c ∈ l
    · exact ih hl hcfg'
    · obtain rfl : c = d := (List.mem_cons.1 hc).resolve_right hl
      refine And.left (foldl_keeps (P := fun u : State => u.usableShown c ∧ (u.cavern c).cfg.configured = true)
        (fun u d hu => ⟨hu.1.recomputed hu.2 d, ?_⟩) l _ ⟨recomputed_usableShown hcfg, hcfg'⟩)
      rw [(recomputed_othersStand u d).cfg c]
      exact hu.2

/-- The caverns stand through the recomputation of a store. -/
theorem recomputeStore_caverns (s : State) (k : StoreId) : (s.recomputeStore k).caverns = s.caverns := by
  have htrim : KeepsTrim fun u => u.caverns = s.caverns :=
    { link := fun _ _ _ h => h, faults := fun _ _ _ h => h, tiers := fun _ _ _ h => h, reservations := fun _ _ h => h
      stopRequests := fun _ _ h => h }
  have haccount : (s.account k).caverns = s.caverns :=
    foldl_keeps (P := fun u : State => u.caverns = s.caverns)
      (f := fun u i => u.modLayer i fun l => { l with contribution := l.heat }) (fun _ _ h => h) _ s rfl
  unfold State.recomputeStore
  split
  · exact htrim.trim haccount k
  · rfl

/-- What the recomputation of stores leaves: points, bus and table, the caverns, the trains. -/
structure StoresReworked (s u : State) : Prop where
  kept    : pointsKept s u
  caverns : u.caverns = s.caverns
  trains  : u.trains = s.trains

theorem foldl_recomputeStore_reworked (l : List StoreId) (s : State) :
    StoresReworked s (l.foldl State.recomputeStore s) := by
  refine foldl_keeps (P := StoresReworked s) (fun u k hu => ?_) l s ⟨pointsKept_refl s, rfl, rfl⟩
  exact ⟨hu.kept.recomputeStore k, (recomputeStore_caverns u k).trans hu.caverns,
    ((layersStand_refl u).recomputeStore k).trains.trans hu.trains⟩

end Sys2Proof.Machine
end

section
/-! PROOF. Writes of SCAN and PART (O51). -/

namespace Sys2Proof.Machine

/-! ### Items judged (R179) -/

section
variable {n : Nat} {α : Type} {T : Table n α} {v w : Vector α n} {fs : List Field} {l : List Item}
  (hj : T.judge v fs = .ok (w, l))
include hj

/-- Every item of an accepted write names an entry. -/
theorem judge_index_lt {f : Field} (hf : f ∈ fs) : f.index.toNat < n := by
  by_contra hbeyond
  obtain ⟨-, -, hrefused, -⟩ := judge_of_every_table T v fs
  obtain ⟨r, hr⟩ := hrefused ⟨f, hf, .inl (Nat.not_lt.1 hbeyond)⟩
  rw [hj] at hr
  nomatch hr

end

theorem putScan_inUse {n : Nat} {w : Word} {e e' : ScanEntry} (hn : n ≠ 0) (h : putScan n w e = some e') :
    e'.inUse = e.inUse := by
  unfold putScan at h
  split at h
  case h_1 => exact absurd rfl hn
  case h_2 | h_4 | h_7 =>
    obtain ⟨_, _, rfl⟩ := Option.map_eq_some_iff.1 h
    rfl
  case h_3 | h_5 | h_6 | h_8 | h_9 =>
    obtain rfl := Option.some.inj h
    rfl
  case h_10 => nomatch h

/-- An item that does not write field 0 of an entry leaves its use. -/
theorem scanStore_inUse {v : Vector ScanEntry 48} {f : Field} {i : ScanId}
    (h : f.index.toNat = i.val → f.number.toNat ≠ 0) : ((scanTable.store v f).get i).inUse = (v.get i).inUse := by
  by_cases hi : f.index.toNat = i.val
  · simp only [Table.store, entry_eq_some hi]
    split
    next e he =>
      rw [upd_get_same]
      exact putScan_inUse (h hi) he
    next => rfl
  · rw [store_get_other scanTable hi]

theorem scanStored_inUse {fs : List Field} {v : Vector ScanEntry 48} {i : ScanId}
    (h : ∀ f ∈ fs, f.index.toNat = i.val → f.number.toNat ≠ 0) :
    ((fs.foldl scanTable.store v).get i).inUse = (v.get i).inUse := by
  induction fs generalizing v with
  | nil => rfl
  | cons f fs ih =>
    rw [List.foldl_cons, ih fun g hg => h g (List.mem_cons_of_mem _ hg), scanStore_inUse (h f List.mem_cons_self)]

/-- An accepted SCAN write that does not write field 0 of an entry leaves its use. -/
theorem judge_scan_inUse {v w : Vector ScanEntry 48} {fs : List Field} {l : List Item}
    (hj : scanTable.judge v fs = .ok (w, l)) {i : ScanId} (h : ∀ f ∈ fs, f.index.toNat = i.val → f.number.toNat ≠ 0) :
    (w.get i).inUse = (v.get i).inUse := by
  have hstored := scanStored_inUse (v := v) fun f hf => h f (mem_of_mem_lastWrites hf)
  rw [Table.judge_ok scanTable v w fs l hj, ← hstored]
  refine foldl_keeps (P := fun u : Vector ScanEntry 48 =>
    (u.get i).inUse = (((lastWrites fs).foldl scanTable.store v).get i).inUse) (fun u j hu => ?_) _ _ rfl
  rw [modAt_get]
  split
  next hij => exact hij ▸ hu
  next => exact hu

/-! ### What a SCAN write resets and recomputes (R163) -/

/-- A SCAN write puts entry `i` into or out of use, or writes one of its fields 1 to 7. -/
def scanRewritten (v w : Vector ScanEntry 48) (fs : List Field) (i : ScanId) : Prop :=
  (v.get i).inUse ≠ (w.get i).inUse ∨ ∃ f ∈ fs, f.index.toNat = i.val ∧ 1 ≤ f.number.toNat ∧ f.number.toNat ≤ 7

/-- The entries whose points a SCAN write resets, in index order. -/
def resetEntries (v w : Vector ScanEntry 48) (fs : List Field) : List ScanId :=
  (writtenEntries 48 fs).filter (scanReset v w fs)

theorem scanReset_iff (v w : Vector ScanEntry 48) (fs : List Field) (i : ScanId) : scanReset v w fs i = true ↔
    ((∃ f ∈ fs, f.index.toNat = i.val ∧ f.number.toNat = 0) ∧ (v.get i).inUse ≠ (w.get i).inUse) ∨
      ∃ f ∈ fs, f.index.toNat = i.val ∧ 1 ≤ f.number.toNat ∧ f.number.toNat ≤ 7 := by
  simp only [scanReset, Bool.or_eq_true, Bool.and_eq_true, List.contains_iff_mem, mem_writtenFields, bne_iff_ne, ne_eq,
    List.any_eq_true, decide_eq_true_eq]
  refine or_congr_right ⟨?_, ?_⟩
  · rintro ⟨_, ⟨f, hf, hi, rfl⟩, hn⟩
    exact ⟨f, hf, hi, hn⟩
  · rintro ⟨f, hf, hi, hn⟩
    exact ⟨_, ⟨f, hf, hi, rfl⟩, hn⟩

theorem mem_resetEntries {v w : Vector ScanEntry 48} {fs : List Field} {l : List Item}
    (hj : scanTable.judge v fs = .ok (w, l)) (i : ScanId) : i ∈ resetEntries v w fs ↔ scanRewritten v w fs i := by
  rw [resetEntries, List.mem_filter, mem_writtenEntries, scanReset_iff]
  constructor
  · rintro ⟨-, ⟨-, huse⟩ | hfield⟩
    · exact .inl huse
    · exact .inr hfield
  · rintro (huse | hfield)
    · have hzero : ∃ f ∈ fs, f.index.toNat = i.val ∧ f.number.toNat = 0 := by
        by_contra hnone
        push Not at hnone
        exact huse (judge_scan_inUse hj hnone).symm
      obtain ⟨f, hf, hi, hn⟩ := hzero
      exact ⟨⟨f, hf, hi⟩, .inl ⟨⟨f, hf, hi, hn⟩, huse⟩⟩
    · obtain ⟨f, hf, hi, hn⟩ := hfield
      exact ⟨⟨f, hf, hi⟩, .inr ⟨f, hf, hi, hn⟩⟩

theorem any_cavern_iff (o : Option (CavernId × Transmitter)) (c : CavernId) :
    (o.any fun x => x.1 == c) = true ↔ o.map (·.1) = some c := by
  cases o <;> simp

theorem mem_changedCaverns {v w : Vector ScanEntry 48} {changed : List ScanId} {c : CavernId} :
    c ∈ changedCaverns v w changed ↔
      ∃ i ∈ changed, (v.get i).cavern.map (·.1) = some c ∨ (w.get i).cavern.map (·.1) = some c := by
  simp only [changedCaverns, List.mem_filter, mem_fins, true_and, List.any_eq_true, Bool.or_eq_true, any_cavern_iff]

/-- The points of some entries at their values after power-on. -/
def State.resetPoints (s : State) (l : List ScanId) : State := l.foldl (fun s i => s.modPoint i fun _ => {}) s

theorem resetPoints_frame (l : List ScanId) (s : State) :
    s.resetPoints l = { s with points := (s.resetPoints l).points } := by
  refine foldl_keeps (P := fun u => u = { s with points := u.points }) (fun u i hu => ?_) l s rfl
  exact congrArg (fun v : State => { v with points := (u.modPoint i fun _ => {}).points }) hu

theorem resetPoints_get (l : List ScanId) (s : State) (i : ScanId) :
    (s.resetPoints l).points.get i = if i ∈ l then {} else s.points.get i := by
  induction l generalizing s with
  | nil => rfl
  | cons j l ih =>
    rw [State.resetPoints, List.foldl_cons]
    refine (ih _).trans ?_
    rw [State.modPoint_points, modAt_get]
    by_cases hij : i = j <;> simp [hij]

/-- The table stored and the points reset, before anything is recomputed. -/
def State.scanStored (s : State) (fs : List Field) (w : Vector ScanEntry 48) : State :=
  (State.modBus { s with scan := w } fun b => b.discardFor w).resetPoints (resetEntries s.scan w fs)

/-- The state an accepted SCAN write makes: caverns and stores recomputed, and the end of the event. -/
def State.scanWritten (s : State) (fs : List Field) (w : Vector ScanEntry 48) : State :=
  ((changedStores s s.scan w (resetEntries s.scan w fs)).foldl State.recomputeStore
    ((changedCaverns s.scan w (resetEntries s.scan w fs)).foldl State.recomputed (s.scanStored fs w))).settleSince s

section
variable (s : State) (fs : List Field) (w : Vector ScanEntry 48)

theorem scanStored_frame : s.scanStored fs w =
    { s with scan := w, bus := s.bus.discardFor w, points := (s.scanStored fs w).points } :=
  resetPoints_frame _ _

/-- The points and the table stand through the recomputations of a SCAN write. -/
theorem scanWritten_kept : pointsKept (s.scanStored fs w) (s.scanWritten fs w) :=
  (pointsFrame _).settleSince ((foldl_recomputed_kept _ _).trans (foldl_recomputeStore_reworked _ _).kept) s

theorem scanWritten_cfg (t : TrainId) : (s.scanWritten fs w).cfg t = s.cfg t := by
  obtain ⟨-, hcfg⟩ := foldl_recomputed_configs (changedCaverns s.scan w (resetEntries s.scan w fs)) (s.scanStored fs w)
  have hstored : (s.scanStored fs w).cfg t = s.cfg t := by rw [scanStored_frame]; rfl
  rw [State.scanWritten, settleSince_frame, ← hstored, ← hcfg t]
  exact congrArg (fun v : Vector Train 6 => (v.get t).cfg) (foldl_recomputeStore_reworked _ _).trains

/-- A configured cavern that a rewritten entry names before or after shows its usable transmitters. -/
theorem scanWritten_shown {c : CavernId} (hcfg : (s.cavern c).cfg.configured = true)
    (hc : c ∈ changedCaverns s.scan w (resetEntries s.scan w fs)) : (s.scanWritten fs w).usableShown c := by
  have hstored : ((s.scanStored fs w).cavern c).cfg.configured = true := by rw [scanStored_frame]; exact hcfg
  have hstores := foldl_recomputeStore_reworked (changedStores s s.scan w (resetEntries s.scan w fs))
    ((changedCaverns s.scan w (resetEntries s.scan w fs)).foldl State.recomputed (s.scanStored fs w))
  refine usableShown_of_caverns
    (usableShown_of_caverns (foldl_recomputed_shown hc hstored) hstores.kept hstores.caverns)
    ((pointsFrame _).settleSince (pointsKept_refl _) s) ?_
  rw [State.scanWritten, settleSince_frame]

theorem scanWritten_point (i : ScanId) : (s.scanWritten fs w).points.get i =
    if i ∈ resetEntries s.scan w fs then {} else s.points.get i := by
  obtain ⟨hpoints, -⟩ := scanWritten_kept s fs w
  rw [hpoints]
  exact resetPoints_get _ _ i

/-- Items of field 8 alone reset and recompute nothing. -/
theorem scanWritten_periods (hfields : ∀ f ∈ fs, f.number = 8) (hentry : s.bus.entry = none) :
    s.scanWritten fs w = { s with scan := w } := by
  have hnone : resetEntries s.scan w fs = [] := by
    refine List.filter_eq_nil_iff.2 fun i _ => ?_
    rw [scanReset_iff]
    rintro (⟨⟨f, hf, -, hn⟩, -⟩ | ⟨f, hf, -, -, hn⟩) <;> rw [hfields f hf] at hn <;> exact absurd hn (by decide)
  have hcaverns : changedCaverns s.scan w [] = [] := by simp [changedCaverns]
  have hstores : changedStores s s.scan w [] = [] := by simp [changedStores]
  rw [State.scanWritten, State.scanStored, hnone, hcaverns, hstores, State.modBus, Bus.discardFor, hentry]
  exact settleSince_of_queue rfl

end

/-! ### Writes of SCAN (R163) -/

section
variable {h : Header} {fs : List Field} {s : State} {m : Manager} (hm : s.managerOf h = some m) (hfs : fs.length ≤ 15)
include hm hfs

section
variable (hl : m.level ≤ 1)
include hl

theorem exec_writeScan : exec (.writeScan h fs) s = .next (s.finishWrite m (s.writeScan fs)) :=
  congrArg Host.Outcome.next (arriveManage_accepted hm (by omega) (by omega) nofun hl)

theorem exec_writeScan_refused {r : MRefusal} (hj : scanTable.judge s.scan fs = .error r) :
    exec (.writeScan h fs) s = .next (s.refuseManage m r) := by
  rw [exec_writeScan hm hfs hl, State.writeScan, judged_error _ _ hj]
  rfl

theorem exec_writeScan_accepted {w : Vector ScanEntry 48} {l : List Item}
    (hj : scanTable.judge s.scan fs = .ok (w, l)) :
    exec (.writeScan h fs) s = .next ((s.scanWritten fs w).replyWrite m l) := by
  rw [exec_writeScan hm hfs hl, State.writeScan, judged_accepted _ hj rfl]
  rfl

end

/-! ### Writes of PART (R181) -/

section
variable (hl : m.level = 0)
include hl

theorem exec_writePart : exec (.writePart h fs) s = .next (s.writePart m fs) :=
  congrArg Host.Outcome.next (arriveManage_accepted hm (by omega) (by omega) nofun (Nat.le_of_eq hl))

theorem exec_writePart_refused {r : MRefusal} (hj : partTable.judge (Vector.replicate 1 s.part) fs = .error r) :
    exec (.writePart h fs) s = .next (s.refuseManage m r) := by
  rw [exec_writePart hm hfs hl, State.writePart, hj]

section
variable {w : Vector Part 1} {l : List Item} (hj : partTable.judge (Vector.replicate 1 s.part) fs = .ok (w, l))
include hj

theorem exec_writePart_whole {r : MRefusal} (hw : partWhole s fs w = some r) :
    exec (.writePart h fs) s = .next (s.refuseManage m r) := by
  rw [exec_writePart hm hfs hl, State.writePart, hj]
  simp only [hw]

theorem exec_writePart_stored (hw : partWhole s fs w = none) :
    exec (.writePart h fs) s = .next { s.replyWrite m l with part := w.get 0 } := by
  rw [exec_writePart hm hfs hl, State.writePart, hj]
  simp only [hw]

end

end

end

/-- An accepted PART write names its fields in entry 0. -/
theorem partField_written {v w : Vector Part 1} {fs : List Field} {l : List Item}
    (hj : partTable.judge v fs = .ok (w, l)) (k : Nat) :
    (writtenFields fs (0 : Fin 1)).contains k = true ↔ ∃ f ∈ fs, f.number.toNat = k := by
  refine writtenFields_one (List.all_eq_true.2 fun f hf => beq_iff_eq.2 ?_) k
  exact Nat.lt_one_iff.1 (judge_index_lt hj hf)

/-- An in-use station holds an address. -/
def State.addressHeld (s : State) (a : HWord) : Prop := ∃ i, (s.station i).inUse = true ∧ (s.station i).address = a

section
variable {s : State} {fs : List Field} {w : Vector Part 1} {l : List Item}
  (hj : partTable.judge (Vector.replicate 1 s.part) fs = .ok (w, l))
include hj

theorem partWhole_duplicate_test : ((writtenFields fs (0 : Fin 1)).contains 0 &&
    (fins 32).any fun i => (s.station i).inUse && (s.station i).address == (w.get 0).address) = true ↔
      (∃ f ∈ fs, f.number.toNat = 0) ∧ s.addressHeld (w.get 0).address := by
  rw [Bool.and_eq_true, partField_written hj]
  simp [State.addressHeld, mem_fins]

theorem partWhole_inUse_test : ((writtenFields fs (0 : Fin 1)).contains 9 && s.engine.active.isSome) = true ↔
    (∃ f ∈ fs, f.number.toNat = 9) ∧ s.engine.active.isSome = true := by
  rw [Bool.and_eq_true, partField_written hj]

theorem partWhole_duplicate (h : (∃ f ∈ fs, f.number.toNat = 0) ∧ s.addressHeld (w.get 0).address) :
    partWhole s fs w = some { cause := .duplicate } := if_pos ((partWhole_duplicate_test hj).2 h)

section
variable (hfree : ¬ ((∃ f ∈ fs, f.number.toNat = 0) ∧ s.addressHeld (w.get 0).address))
include hfree

theorem partWhole_inUse (h : (∃ f ∈ fs, f.number.toNat = 9) ∧ s.engine.active.isSome = true) :
    partWhole s fs w = some { cause := .inUse } :=
  (if_neg (mt (partWhole_duplicate_test hj).1 hfree)).trans (if_pos ((partWhole_inUse_test hj).2 h))

theorem partWhole_accepted (h : ¬ ((∃ f ∈ fs, f.number.toNat = 9) ∧ s.engine.active.isSome = true)) :
    partWhole s fs w = none :=
  (if_neg (mt (partWhole_duplicate_test hj).1 hfree)).trans (if_neg (mt (partWhole_inUse_test hj).1 h))

end

end

/-- Settles O51: a SCAN write by what it resets and recomputes, a PART write by its whole-table tests in their order. -/
theorem scanAndPartWrites : Obligations.ScanAndPartWrites := by
  intro h fs s m hm hfs
  refine ⟨fun hl => ⟨fun r hj => exec_writeScan_refused hm hfs hl hj, fun w l hj => ⟨fun hfields hentry => ?_, ?_⟩⟩,
    fun hl => ⟨fun r hj => exec_writePart_refused hm hfs hl hj, fun w l hj => ?_⟩⟩
  · rw [exec_writeScan_accepted hm hfs hl hj, scanWritten_periods s fs w hfields hentry]
  · have hkept := scanWritten_kept s fs w
    rw [scanStored_frame] at hkept
    obtain ⟨-, -, hscan, hpart, hgate, hstations⟩ := hkept
    refine ⟨_, exec_writeScan_accepted hm hfs hl hj, hscan, hpart, hgate, hstations, scanWritten_cfg s fs w,
      fun i => ?_⟩
    intro reset
    have hreset : i ∈ resetEntries s.scan w fs ↔ reset := mem_resetEntries hj i
    rw [scanWritten_point]
    refine ⟨fun hi => if_pos (hreset.2 hi), fun hi => if_neg (mt hreset.1 hi), fun c hi hcfg hnames => ?_⟩
    exact scanWritten_shown s fs w hcfg (mem_changedCaverns.2 ⟨i, hreset.2 hi, hnames⟩)
  · intro named held
    exact ⟨fun hnamed hheld => exec_writePart_whole hm hfs hl hj (partWhole_duplicate hj ⟨hnamed, hheld⟩),
      fun hnamed hfree hactive => exec_writePart_whole hm hfs hl hj (partWhole_inUse hj hfree ⟨hnamed, hactive⟩),
      fun hfree hinactive => exec_writePart_stored hm hfs hl hj (partWhole_accepted hj hfree hinactive)⟩

end Sys2Proof.Machine
end

section
/-! PROOF. The hard-wired settings of the fault unit and the ranges of PART at every step (O56). -/

namespace Sys2Proof.Machine

theorem State.hardwired_iff (s : State) : s.hardwired = true ↔
    routesFixed s.routes = true ∧ (s.tiers.get tierSafety).mask &&& fixedSafetySet = 0 := by
  simp [State.hardwired, State.safetyUnmasked]

/-! ### The two resets (R184, R185) -/

theorem powerOn_hardwired (s : State) (x : BitVec 4) : (s.powerOn x).hardwired = true := by
  have hroutes : routesFixed routesPowerOn = true := by decide
  have hmask : (({} : Tier).mask &&& fixedSafetySet) = 0 := by decide
  exact (State.hardwired_iff _).2 ⟨hroutes, hmask⟩

theorem warmRestart_tier (s : State) (k : TierId) : s.warmRestart.tiers.get k = (s.tiers.get k).restarted :=
  tabMap_get _ _ _

theorem warmRestart_hardwired (s : State) (h : s.hardwired = true) : s.warmRestart.hardwired = true := by
  rw [State.hardwired_iff] at h ⊢
  rw [warmRestart_tier]
  exact h

theorem powerOnPart_inRange (x : BitVec 4) : (powerOnPart x).inRange := by
  simp [Part.inRange, powerOnPart]

/-! ### Every change -/

/-- Of what the units change, the tiers alone are read, and a fault leaves their masks. -/
theorem hardwiredKeepsSchedule : KeepsSchedule fun s => s.hardwired = true where
  link := fun _ _ _ h => h
  faults := fun _ _ _ h => h
  tiers := fun s v hmask h => by
    rw [State.hardwired_iff] at h ⊢
    exact ⟨h.1, (hmask tierSafety).symm ▸ h.2⟩
  queue := fun _ _ _ _ _ _ h => h
  trains := fun _ _ h => h
  caverns := fun _ _ _ h => h
  reservations := fun _ _ _ h => h
  slots := fun _ _ _ h => h
  stopRequests := fun _ _ h => h
  cache := fun _ _ _ h => h
  lru := fun _ _ h => h
  free := fun _ _ h => h
  engine := fun _ _ h => h
  act := fun _ _ h => h
  shares := fun _ _ h => h
  history := fun _ _ _ h => h

/-- ROUTES writes refuse a fixed route and SET_MASK leaves its causes unmasked; nothing else writes a route or a mask. -/
theorem hardwiredKeepsAll : KeepsAll fun s => s.hardwired = true where
  toKeepsSchedule := hardwiredKeepsSchedule
  stations := fun _ _ h => h
  roll := fun _ _ h => h
  stores := fun _ _ h => h
  layers := fun _ _ h => h
  points := fun _ _ h => h
  bus := fun _ _ h => h
  part := fun _ _ _ h => h
  openGate := fun _ h => h
  shutGate := hardwiredKeepsSchedule.shutGate fun _ _ h => h
  ptrip := fun _ _ h => h
  permissions := fun _ _ h => h
  positions := fun _ _ h => h
  duties := fun _ _ h => h
  bands := fun _ _ h => h
  scan := fun _ _ h => h
  routes := fun s v hv h => by
    rw [State.hardwired_iff] at h ⊢
    exact ⟨hv h.1, h.2⟩
  masks := fun s v hv h => by
    rw [State.hardwired_iff] at h ⊢
    exact ⟨h.1, hv h.2⟩
  pending := fun _ _ h => h
  powerOn := fun s x _ => powerOn_hardwired s x
  warmRestart := warmRestart_hardwired

theorem partInRangeKeepsSchedule : KeepsSchedule fun s => s.part.inRange where
  link := fun _ _ _ h => h
  faults := fun _ _ _ h => h
  tiers := fun _ _ _ h => h
  queue := fun _ _ _ _ _ _ h => h
  trains := fun _ _ h => h
  caverns := fun _ _ _ h => h
  reservations := fun _ _ _ h => h
  slots := fun _ _ _ h => h
  stopRequests := fun _ _ h => h
  cache := fun _ _ _ h => h
  lru := fun _ _ h => h
  free := fun _ _ h => h
  engine := fun _ _ h => h
  act := fun _ _ h => h
  shares := fun _ _ h => h
  history := fun _ _ _ h => h

/-- A PART write legalises into the ranges, power-on takes values within them, and nothing else writes PART. -/
theorem partInRangeKeepsAll : KeepsAll fun s => s.part.inRange where
  toKeepsSchedule := partInRangeKeepsSchedule
  stations := fun _ _ h => h
  roll := fun _ _ h => h
  stores := fun _ _ h => h
  layers := fun _ _ h => h
  points := fun _ _ h => h
  bus := fun _ _ h => h
  part := fun _ _ hx h => hx h
  openGate := fun _ h => h
  shutGate := partInRangeKeepsSchedule.shutGate fun _ _ h => h
  ptrip := fun _ _ h => h
  permissions := fun _ _ h => h
  positions := fun _ _ h => h
  duties := fun _ _ h => h
  bands := fun _ _ h => h
  scan := fun _ _ h => h
  routes := fun _ _ _ h => h
  masks := fun _ _ _ h => h
  pending := fun _ _ h => h
  powerOn := fun _ x _ => powerOnPart_inRange x
  warmRestart := fun _ h => h

/-- Settles O56: the hard-wired settings and the ranges of PART both survive every change the laws of KeepsAll name. -/
theorem stepKeepsFixedAndRangedSettings : Obligations.StepKeepsFixedAndRangedSettings :=
  ⟨fun _ _ h e => hardwiredKeepsAll.step h e, fun _ _ h e => partInRangeKeepsAll.step h e⟩

end Sys2Proof.Machine
end

section
/-! PROOF. A fault raised: its record and the ring it joins, what it does to its cause on its tier, and the NOTICE it sends
(O11, O12). -/

namespace Sys2Proof.Machine

/-! ### The ring (R170) -/

theorem add_ring_room {l : FaultLog} (r : FaultRecord) (h : l.ring.length < 32) :
    l.add r = { l with ring := l.ring ++ [r], counter := l.counter + 1 } := if_pos h

theorem add_ring_full {l : FaultLog} (r : FaultRecord) (h : 32 ≤ l.ring.length) :
    l.add r = { ring := l.ring.tail ++ [r], overwrites := min (l.overwrites + 1) 65535, counter := l.counter + 1 } := by
  have hcount : (if l.overwrites < 65535 then l.overwrites + 1 else 65535) = min (l.overwrites + 1) 65535 := by
    split <;> omega
  rw [← hcount]
  exact if_neg (Nat.not_lt.2 h)

/-! ### The record (R169) -/

section
variable (s : State) (f : FaultInfo)

theorem faultRecord_category_given {x : Category} (h : f.category = some x) : (faultRecord s f).category = x := by
  simp [faultRecord, h]

theorem faultRecord_category_none (h : f.category = none) : (faultRecord s f).category = categoryOf f.cause := by
  simp [faultRecord, h]

theorem faultRecord_slot_given {n : Word} (h : f.slot = some n) : (faultRecord s f).slot = some n := by
  simp [faultRecord, h]

theorem faultRecord_slot_none (h : f.slot = none) : (faultRecord s f).slot = s.engine.active := by
  simp [faultRecord, h]

theorem faultRecord_offset_unsynchronised (h : s.engine.active = none) : (faultRecord s f).offset = none := by
  simp [faultRecord, h]

theorem faultRecord_offset {a : Word} {b : Nat} (ha : s.engine.active = some a) (hb : s.engine.boundary = some b) :
    (faultRecord s f).offset = some ((s.part.slotLength * 1000 - b) / 1000) := by
  simp [faultRecord, State.slotOffset, seconds, ha, hb]

end

/-- The bounds of the categories' code ranges, as section 10.1 lists them. -/
theorem categoryOf_ranges (c : Cause) :
    (c.val ≤ 2 → categoryOf c = .form) ∧ (3 ≤ c.val → c.val ≤ 22 → categoryOf c = .admission) ∧
    (23 ≤ c.val → c.val ≤ 33 → categoryOf c = .sequence) ∧ (34 ≤ c.val → c.val ≤ 38 → categoryOf c = .envelope) ∧
    (39 ≤ c.val → c.val ≤ 41 → categoryOf c = .heat) ∧ (42 ≤ c.val → c.val ≤ 46 → categoryOf c = .schedule) ∧
    (47 ≤ c.val → c.val ≤ 48 → categoryOf c = .time) ∧ (49 ≤ c.val → c.val ≤ 50 → categoryOf c = .reserve) ∧
    (51 ≤ c.val → c.val ≤ 56 → categoryOf c = .bus) ∧ (57 ≤ c.val → categoryOf c = .station) := by
  revert c
  decide

/-- Settles O11: the frame of a fault, then the ring by its room, then the record field by field. -/
theorem raisedFaultIsRecorded : Obligations.RaisedFaultIsRecorded := by
  intro s f
  dsimp only
  rw [raise_faults]
  refine ⟨?_, fun hroom => ?_, fun hfull => ?_, add_counter _ _, rfl, rfl,
    ⟨rfl, rfl, rfl, rfl, rfl, rfl, rfl, rfl, rfl, rfl⟩, fun _ => faultRecord_category_given s f, fun hnone => ?_,
    fun _ => faultRecord_slot_given s f, faultRecord_slot_none s f, faultRecord_offset_unsynchronised s f,
    fun _ _ => faultRecord_offset s f⟩
  · rw [← raise_faults]
    exact raise_frame_u s f
  · rw [add_ring_room _ hroom]
    exact ⟨rfl, rfl⟩
  · rw [add_ring_full _ hfull]
    exact ⟨rfl, rfl⟩
  · rw [faultRecord_category_none s f hnone]
    exact categoryOf_ranges f.cause

/-! ### The cause on its tier (R173) -/

/-- One more suppressed, at most 255. -/
def Tier.suppress (x : Tier) (c : Cause) : Tier :=
  { x with suppressed := upd x.suppressed c (min (x.suppressed.get c + 1) 255) }

/-- The cause becomes pending. -/
def Tier.await (x : Tier) (c : Cause) : Tier := { x with pending := x.pending ||| BitVec.twoPow 61 c.val }

/-- The cause becomes pending with its carried count told and cleared. -/
def Tier.told (x : Tier) (c : Cause) : Tier := { x.await c with carried := upd x.carried c 0 }

section
variable {s : State} {k : TierId} {r : FaultRecord}

theorem notify_pending (hp : (s.tiers.get k).pending.getLsbD r.cause.val = true) :
    s.notify k r = { s with tiers := upd s.tiers k ((s.tiers.get k).suppress r.cause) } := by
  have hcount := count255_eq ((s.tiers.get k).suppressed.get r.cause + 1)
  rw [Tier.suppress, ← hcount]
  exact if_pos hp

variable (hp : (s.tiers.get k).pending.getLsbD r.cause.val = false)
include hp

theorem notify_silent (h : (s.tiers.get k).mask.getLsbD r.cause.val = true ∨ s.noticeDest k r = none) :
    s.notify k r = { s with tiers := upd s.tiers k ((s.tiers.get k).await r.cause) } := by
  unfold State.notify
  simp only [hp, Bool.false_eq_true, if_false]
  rcases h with hmask | hdest
  · rw [if_pos hmask]
    rfl
  · rw [hdest, ite_self]
    rfl

theorem notify_sent (hm : (s.tiers.get k).mask.getLsbD r.cause.val = false) {dst : HWord}
    (hd : s.noticeDest k r = some dst) :
    s.notify k r = State.emit { s with tiers := upd s.tiers k ((s.tiers.get k).told r.cause) } .u cNotice dst
      (noticeItems k ((s.tiers.get k).carried.get r.cause) r) := by
  have htold : modAt (modAt s.tiers k fun x => { x with pending := addBit x.pending r.cause.val }) k
      (fun x => { x with carried := upd x.carried r.cause 0 }) = upd s.tiers k ((s.tiers.get k).told r.cause) := by
    rw [modAt, modAt_get_same]
    exact upd_upd _ _ _ _
  unfold State.notify
  simp only [hp, hm, hd, Bool.false_eq_true, if_false, State.modTier, htold]

end

theorem notify_tiers (s : State) (k : TierId) (r : FaultRecord) : ∃ x, (s.notify k r).tiers = upd s.tiers k x := by
  by_cases hp : (s.tiers.get k).pending.getLsbD r.cause.val = true
  · exact ⟨_, by rw [notify_pending hp]⟩
  by_cases h : (s.tiers.get k).mask.getLsbD r.cause.val = true ∨ s.noticeDest k r = none
  · exact ⟨_, by rw [notify_silent (Bool.eq_false_iff.2 hp) h]⟩
  obtain ⟨hm, hd⟩ := not_or.1 h
  obtain ⟨dst, hd⟩ := Option.ne_none_iff_exists'.1 hd
  exact ⟨_, by rw [notify_sent (Bool.eq_false_iff.2 hp) (Bool.eq_false_iff.2 hm) hd, emit_frame]⟩

/-! ### Where a NOTICE goes (R172) -/

theorem referenceWord_kind (kind : Byte) (id : HWord) :
    (referenceWord kind id).extractLsb' 16 16 = kind.setWidth 16 := by
  unfold referenceWord
  exact BitVec.extractLsb'_append_eq_left

theorem referenceWord_id (kind : Byte) (id : HWord) : (referenceWord kind id).extractLsb' 0 16 = id := by
  unfold referenceWord
  exact BitVec.extractLsb'_append_eq_right

/-- A POSITION reference names its entry's desk. -/
theorem positionDesk_position (s : State) (p : Fin 128) :
    s.positionDesk (some (referenceWord 3 (BitVec.ofNat 16 p.val))) = (s.positions.get p).desk.bind s.deskAddress := by
  have hid : ((referenceWord 3 (BitVec.ofNat 16 p.val)).extractLsb' 0 16).toNat = p.val := by
    rw [referenceWord_id, BitVec.toNat_ofNat]
    omega
  have hkind : (referenceWord 3 (BitVec.ofNat 16 p.val)).extractLsb' 16 16 = 3 := referenceWord_kind _ _
  simp only [State.positionDesk, Option.bind_some, hkind, hid, if_true, p.isLt, dite_true]

theorem deskAddress_desk {s : State} {d : StationId} (hu : (s.station d).inUse = true)
    (hr : (s.station d).role = .desk) : s.deskAddress d = some (s.station d).address := by
  simp [State.deskAddress, hu, hr]

/-! ### The NOTICE's items (R174) -/

/-- The FIELD items of the fields a record has. -/
def FaultRecord.present (r : FaultRecord) : List Item := r.fields.filterMap fun f => f.2.map fun v => fieldItem 0 f.1 v

theorem noticeItems_eq (k : TierId) (n : Nat) (r : FaultRecord) :
    noticeItems k n r = fieldItem 0 16 (nat k.val) :: fieldItem 0 17 (nat n) :: r.present.take 14 := rfl

/-- Settles O12: the fault's tier by the state of its cause, the destinations of the tiers, then the items. -/
theorem noticesFollowPendingAndMask : Obligations.NoticesFollowPendingAndMask := by
  refine ⟨fun s f => ?_, fun k n r => ?_⟩
  · intro t r w k x c
    refine ⟨fun j hj => ?_, fun hp => ?_, fun hp hquiet => ?_, fun dst hp hm hd => ?_, fun hk => ?_, fun hk => ?_,
      fun hk hnone => ?_, fun p d hk href hdesk hu hr => ?_⟩
    · obtain ⟨y, hy⟩ := notify_tiers { s with faults := s.faults.add r } k r
      exact (congrArg (fun v => v.get j) hy).trans (upd_get_ne _ _ _ _ hj)
    · have ht : t = _ := notify_pending (s := { s with faults := s.faults.add r }) hp
      rw [ht]
      exact ⟨upd_get_same _ _ _, rfl⟩
    · have ht : t = _ := notify_silent (s := { s with faults := s.faults.add r }) hp hquiet
      rw [ht]
      exact ⟨upd_get_same _ _ _, rfl⟩
    · have ht : t = _ := notify_sent (s := { s with faults := s.faults.add r }) hp hm hd
      rw [ht]
      refine ⟨?_, rfl⟩
      rw [emit_frame]
      exact upd_get_same _ _ _
    · rw [hk]
      rfl
    · rw [hk]
      rfl
    · rw [hk]
      show (s.positionDesk r.reference).or s.part.deskDest = s.part.deskDest
      rw [hnone, Option.none_or]
    · rw [hk]
      show (s.positionDesk r.reference).or s.part.deskDest = some (s.station d).address
      rw [href, positionDesk_position, hdesk, Option.bind_some, deskAddress_desk hu hr, Option.some_or]
  · refine ⟨?_, rfl, rfl, rfl, rfl⟩
    rw [noticeItems_eq, List.length_cons, List.length_cons, List.length_take]
    show min 14 r.present.length + 1 + 1 = min 16 (2 + r.present.length)
    omega

end Sys2Proof.Machine
end

section
/-! PROOF. The requests on the notice tiers (O13). -/

namespace Sys2Proof.Machine

/-! ### The requests taken (R177) -/

theorem readTier_of_val {w : Word} {k : TierId} (h : w.toNat = k.val) : readTier w = some k := by
  have hlt : w.toNat < 3 := by omega
  rw [readTier, readIndex, dif_pos hlt]
  exact congrArg some (Fin.ext h)

section
variable {h : Header} {s : State} {m : Manager} {tier : Word} {k : TierId} (hm : s.managerOf h = some m)
  (hl : m.level ≤ 1) (hk : tier.toNat = k.val) (low high : Word)
include hm hl hk

theorem exec_clearNotices : exec (.clearNotices h tier low high) s = .next (s.clearNotices m k (causeSet low high)) := by
  have hq : reqClear tier low high = .clearNotices k (causeSet low high) := by rw [reqClear, readTier_of_val hk]
  have hexec : exec (.clearNotices h tier low high) s = .next (s.arriveManage h 1 (reqClear tier low high)) := rfl
  rw [hexec, hq]
  exact congrArg Host.Outcome.next (arriveManage_accepted hm (le_refl 1) (by omega) nofun hl)

theorem exec_setMask : exec (.setMask h tier low high) s = .next (s.setMask m k (causeSet low high)) := by
  have hq : reqMask tier low high = .setMask k (causeSet low high) := by rw [reqMask, readTier_of_val hk]
  have hexec : exec (.setMask h tier low high) s = .next (s.arriveManage h 1 (reqMask tier low high)) := rfl
  rw [hexec, hq]
  exact congrArg Host.Outcome.next (arriveManage_accepted hm (le_refl 1) (by omega) nofun hl)

end

/-! ### Sets of causes (section 10.1) -/

/-- A cause is named by the bit of its code in the low word, or past it in the high word. -/
theorem causeSet_getLsbD (low high : Word) (c : Cause) : (causeSet low high).getLsbD c.val =
    if c.val < 32 then low.getLsbD c.val else high.getLsbD (c.val - 32) := by
  have hlast : c.val - 32 < 29 := by omega
  simp only [causeSet, BitVec.getLsbD_append, BitVec.getLsbD_setWidth, hlast, decide_true, Bool.true_and]

theorem causeSet_ext {a b : BitVec 61} : (∀ c : Cause, a.getLsbD c.val = b.getLsbD c.val) ↔ a = b :=
  ⟨fun h => BitVec.eq_of_getLsbD_eq fun i hi => h ⟨i, hi⟩, fun h _ => h ▸ rfl⟩

/-- The two words a set travels as tell it whole. -/
theorem causeSet_words (l : BitVec 61) : causeSet (causeLow l) (causeHigh l) = l := by
  refine causeSet_ext.1 fun c => ?_
  rw [causeSet_getLsbD, causeLow, causeHigh]
  split
  next hlow => simp [hlow]
  next hhigh =>
    have hlast : c.val - 32 < 29 := by omega
    have hback : 32 + (c.val - 32) = c.val := by omega
    simp [hlast, hback]
    omega

theorem dropBit_getLsbD (l : BitVec 61) (c d : Cause) :
    (dropBit l d.val).getLsbD c.val = (l.getLsbD c.val && decide (d ≠ c)) := by
  rw [dropBit, BitVec.getLsbD_and, BitVec.getLsbD_not, BitVec.getLsbD_twoPow]
  simp [Fin.ext_iff]

/-! ### CLEAR_NOTICES (R175) -/

/-- What a tier holds of one cause beside the mask: whether it is pending, its suppressed and its carried count. -/
def Tier.reading (x : Tier) (c : Cause) : Bool × Nat × Nat :=
  (x.pending.getLsbD c.val, x.suppressed.get c, x.carried.get c)

theorem clear_reading_same {x : Tier} {c : Cause} (hp : x.pending.getLsbD c.val = true) :
    (x.clear c).reading c = (false, 0, min (x.carried.get c + x.suppressed.get c) 255) := by
  rw [Tier.clear, if_pos hp]
  simp only [Tier.reading, dropBit_getLsbD, upd_get_same, ne_eq, not_true_eq_false, decide_false, Bool.and_false]

theorem clear_of_idle {x : Tier} {c : Cause} (hp : x.pending.getLsbD c.val = false) : x.clear c = x :=
  if_neg (by rw [hp]; exact Bool.false_ne_true)

theorem clear_reading_other (x : Tier) {c d : Cause} (hne : c ≠ d) : (x.clear d).reading c = x.reading c := by
  unfold Tier.clear
  split
  · simp only [Tier.reading, dropBit_getLsbD, upd_get_ne _ _ _ _ hne, ne_eq, hne.symm, not_false_eq_true, decide_true,
      Bool.and_true]
  · rfl

/-- A cause not named, or not pending, stands through the clearing of a list of causes. -/
theorem foldl_clear_reading_stands {c : Cause} (l : List Cause) : ∀ x : Tier, c ∉ l ∨ x.pending.getLsbD c.val = false →
    (l.foldl Tier.clear x).reading c = x.reading c := by
  induction l with
  | nil => exact fun _ _ => rfl
  | cons d l ih =>
    intro x h
    have hfirst : (x.clear d).reading c = x.reading c := by
      by_cases hd : c = d
      · rw [← hd, clear_of_idle (h.resolve_left fun hout => hout (hd ▸ List.mem_cons_self))]
      · exact clear_reading_other x hd
    have hpending : (x.clear d).pending.getLsbD c.val = x.pending.getLsbD c.val := congrArg Prod.fst hfirst
    exact (ih _ (h.imp (mt (List.mem_cons_of_mem d)) hpending.trans)).trans hfirst

/-- A named pending cause is cleared, once. -/
theorem foldl_clear_reading_named {c : Cause} (l : List Cause) : ∀ x : Tier, c ∈ l → x.pending.getLsbD c.val = true →
    (l.foldl Tier.clear x).reading c = (false, 0, min (x.carried.get c + x.suppressed.get c) 255) := by
  induction l with
  | nil => exact fun _ h => absurd h List.not_mem_nil
  | cons d l ih =>
    intro x hmem hp
    by_cases hd : c = d
    · have hcleared := clear_reading_same hp
      rw [List.foldl_cons, ← hd, foldl_clear_reading_stands l _ (.inr (congrArg Prod.fst hcleared)), hcleared]
    · have hother := clear_reading_other x hd
      simp only [Tier.reading, Prod.mk.injEq] at hother
      obtain ⟨hpending, hsuppressed, hcarried⟩ := hother
      rw [List.foldl_cons, ih _ ((List.mem_cons.1 hmem).resolve_left hd) (hpending.trans hp), hcarried, hsuppressed]

theorem foldl_clear_mask (l : List Cause) (x : Tier) : (l.foldl Tier.clear x).mask = x.mask :=
  foldl_keeps (P := fun u : Tier => u.mask = x.mask) (fun u c hu => (Tier.clear_mask u c).trans hu) l x rfl

theorem mem_causesOf (l : BitVec 61) (c : Cause) : c ∈ causesOf l ↔ l.getLsbD c.val = true := by
  simp [causesOf, mem_fins]

theorem clearNotices_eq (s : State) (m : Manager) (k : TierId) (l : BitVec 61) :
    s.clearNotices m k l =
      State.replyWith { s with tiers := upd s.tiers k ((causesOf l).foldl Tier.clear (s.tiers.get k)) } m .done
        ((causesOf l).map fun c =>
          fieldItem (k.val * 64 + c.val) 1 (nat (((causesOf l).foldl Tier.clear (s.tiers.get k)).carried.get c))) := by
  simp only [State.clearNotices, State.modTier, modAt_get_same]
  rfl

/-! ### SET_MASK (R176) -/

theorem fixedSafetySet_getLsbD : ∀ c : Cause, fixedSafetySet.getLsbD c.val =
    (c.val == 30 || c.val == 31 || c.val == 34 || c.val == 37 || c.val == 54) := by decide

theorem maskFor_getLsbD (k : TierId) (l : BitVec 61) (c : Cause) :
    (maskFor k l).getLsbD c.val = (l.getLsbD c.val && !(k == 0 && fixedSafetySet.getLsbD c.val)) := by
  unfold maskFor
  split
  next hk => simp [hk]
  next hk => simp [hk]

/-- The mask a tier takes is another than the named set where SAFETY is to mask a cause of fixed route SAFETY. -/
theorem maskFor_ne_iff (k : TierId) (l : BitVec 61) :
    maskFor k l ≠ l ↔ k = 0 ∧ ∃ c : Cause, fixedSafetySet.getLsbD c.val = true ∧ l.getLsbD c.val = true := by
  rw [ne_eq, ← causeSet_ext, not_forall]
  constructor
  · rintro ⟨c, hc⟩
    rw [maskFor_getLsbD] at hc
    grind
  · rintro ⟨hk, c, hfixed, hnamed⟩
    refine ⟨c, ?_⟩
    rw [maskFor_getLsbD, hk, hfixed, hnamed]
    decide

theorem causeSet_words_iff {a b : BitVec 61} : causeLow a = causeLow b ∧ causeHigh a = causeHigh b ↔ a = b := by
  constructor
  · rintro ⟨hlow, hhigh⟩
    rw [← causeSet_words a, hlow, hhigh, causeSet_words]
  · rintro rfl
    exact ⟨rfl, rfl⟩

/-- The answer is LEGALISED where a word of the mask taken differs from the named one. -/
theorem setMask_eq (s : State) (m : Manager) (k : TierId) (l : BitVec 61) : ∃ fields : List Item,
    s.setMask m k l = State.replyWith { s with tiers := upd s.tiers k { s.tiers.get k with mask := maskFor k l } } m
      (if maskFor k l = l then .done else .legalised) fields := by
  refine ⟨_, congrArg (fun a => State.replyWith _ m a _) (if_congr ?_ rfl rfl)⟩
  rw [List.isEmpty_iff, List.append_eq_nil_iff, ← causeSet_words_iff]
  simp

/-- Settles O13: the clearing of the named causes read cause by cause, then the mask bit by bit. -/
theorem noticesAreClearedAndMasked : Obligations.NoticesAreClearedAndMasked := by
  refine ⟨fun h tier low high s m k hm hl hk => ?_, fun h tier low high s m k hm hl hk => ?_⟩
  · intro named x
    have hnamed (c : Cause) : named c = (causeSet low high).getLsbD c.val := (causeSet_getLsbD low high c).symm
    have hcauses : (fins 61).filter named = causesOf (causeSet low high) := List.filter_congr fun c _ => hnamed c
    have hmem (c : Cause) : c ∈ causesOf (causeSet low high) ↔ named c = true := by rw [mem_causesOf, hnamed]
    refine ⟨(causesOf (causeSet low high)).foldl Tier.clear x, ?_, foldl_clear_mask _ x, fun c => ⟨fun hc hp => ?_,
      fun hout => ?_⟩⟩
    · rw [exec_clearNotices hm hl hk, clearNotices_eq, hcauses]
    · have hread := foldl_clear_reading_named _ x ((hmem c).2 hc) hp
      simpa [Tier.reading] using hread
    · have hread := foldl_clear_reading_stands _ x (hout.imp_left fun hc => mt (hmem c).1 (ne_true_of_eq_false hc))
      simpa [Tier.reading] using hread
  · intro named fixed x
    have hnamed (c : Cause) : named c = (causeSet low high).getLsbD c.val := (causeSet_getLsbD low high c).symm
    have hfixed (c : Cause) : fixed c = fixedSafetySet.getLsbD c.val := (fixedSafetySet_getLsbD c).symm
    obtain ⟨fields, hset⟩ := setMask_eq s m k (causeSet low high)
    refine ⟨_, _, fields, (exec_setMask hm hl hk low high).trans (congrArg Host.Outcome.next hset), fun c => ?_, ?_⟩
    · rw [hnamed, hfixed]
      exact maskFor_getLsbD k _ c
    · simp only [hnamed, hfixed, ← maskFor_ne_iff]
      split
      next hsame => simp [hsame]
      next hother => simp [hother]

end Sys2Proof.Machine
end

section
/-! PROOF. Start-up: the state after reset, POWER_ON and RESTART (O3, O60, O54). -/

namespace Sys2Proof.Machine

/-! ### The state after reset (R185) -/

theorem replicate_get {α : Type} {n : Nat} (x : α) (i : Fin n) : (Vector.replicate n x).get i = x := by
  show (Vector.replicate n x)[i.val] = x
  simp

theorem routesPowerOn_get (c : Cause) : routesPowerOn.get c = routePowerOn c := by
  show ((fins 61).map routePowerOn).toArray[c.val] = routePowerOn c
  simp [fins_eq_finRange]

/-- The state after reset is what POWER_ON with straps 0 makes of it. -/
theorem reset_powerOn : State.reset.powerOn 0 = State.reset := rfl

/-- What POWER_ON takes from the straps and leaves of the state before; all else stands as after reset. -/
theorem powerOn_eq (s : State) (x : BitVec 4) : s.powerOn x =
    { State.reset with
      pending := s.pending
      free := s.free
      ptrip := s.ptrip
      link := { u := { up := s.link.u.up }, d := { up := s.link.d.up } }
      part := { address := 0x7F00 + x.setWidth 16, ethLow := x.setWidth 32 }
      trains := Vector.replicate 6 { run := { tripLine := s.ptrip } } } := by
  have hroll : restartedRoll (powerOnPart x) = { period := some 5000 } := by
    simp [restartedRoll, seconds, powerOnPart]
  rw [State.powerOn, hroll]
  rfl

theorem reset_stations (i : StationId) : State.reset.station i = {} := replicate_get _ i

/-- No station in use has the manage flag, so a manager is accepted from any source. -/
theorem reset_commissioning : State.reset.commissioning = true :=
  (commissioning_iff _).2 fun i hi => by
    rw [reset_stations] at hi
    cases hi

/-- Settles O3: the tables after reset are copies of one unused entry, and POWER_ON's state is written out field by
field. -/
theorem resetAndPowerOnValues : Obligations.ResetAndPowerOnValues := by
  unfold Obligations.ResetAndPowerOnValues
  refine ⟨⟨fun i => ?_, fun i => ?_, fun i => ?_, fun t => ?_, fun c => ?_, fun k => ?_, fun i => ?_, fun t => ?_,
    routesPowerOn_get, fun k => ?_, rfl, reset_commissioning, rfl, rfl, fun c => ?_, rfl, rfl, rfl⟩,
    fun s x => ⟨s.powerOn x, rfl, powerOn_eq s x⟩⟩
  · rw [reset_stations]
  · exact congrArg Position.state (replicate_get _ i)
  · exact congrArg Duty.mapped (replicate_get _ i)
  · exact congrArg (fun x : Train => x.cfg.configured) (replicate_get _ t)
  · exact congrArg (fun x : Cavern => x.cfg.configured) (replicate_get _ c)
  · exact congrArg (fun x : Store => x.cfg.configured) (replicate_get _ k)
  · exact congrArg ScanEntry.inUse (replicate_get _ i)
  · exact congrArg Train.run (replicate_get _ t)
  · exact congrArg Tier.mask (replicate_get _ k)
  · exact congrArg (fun x : Cavern => x.run.blindTimer) (replicate_get _ c)

/-- Settles O60: each property holds after every POWER_ON, and the state after reset is one. -/
theorem resetHasTheInvariants : Obligations.ResetHasTheInvariants := by
  unfold Obligations.ResetHasTheInvariants
  rw [← reset_powerOn]
  exact ⟨powerOn_bounded _ 0, powerOn_hardwired _ 0, (State.directed_iff _).2 (powerOn_directed _ 0),
    gateQuiet_of_empty rfl, cacheUnique_empty, powerOnPart_inRange 0⟩

/-! ### Warm restart (R184) -/

section
variable (s : State)

theorem warmRestart_train (t : TrainId) :
    s.warmRestart.train t = { s.train t with run := restartedRun (s.cfg t).kind s.ptrip } := tabMap_get _ _ _

theorem warmRestart_station (i : StationId) :
    s.warmRestart.station i = { s.station i with enrolment := .unenrolled, misses := 0 } := tabMap_get _ _ _

theorem warmRestart_cavern (c : CavernId) : s.warmRestart.cavern c = (s.cavern c).restarted := tabMap_get _ _ _

theorem warmRestart_store (k : StoreId) : s.warmRestart.store k = (s.store k).restarted := tabMap_get _ _ _

theorem warmRestart_layer (l : LayerId) : s.warmRestart.layer l = (s.layer l).restarted := tabMap_get _ _ _

theorem warmRestart_slot (p : Fin 48) : s.warmRestart.slots.get p = (s.slots.get p).restarted := tabMap_get _ _ _

theorem warmRestart_cfg (t : TrainId) : s.warmRestart.cfg t = s.cfg t := by
  rw [State.cfg, warmRestart_train]
  rfl

theorem warmRestart_run (t : TrainId) : s.warmRestart.run t = restartedRun (s.cfg t).kind s.ptrip := by
  rw [State.run, warmRestart_train]

end

/-- An ACTIVE slot is FIRM after a warm restart, for its number, with its commitments and its gate as they stood. -/
theorem Slot.restarted_active {x : Slot} (h : x.state = .active) : x.restarted =
    { number := x.number, state := .firm, desk := x.desk, gatePassed := x.gatePassed, commits := x.commits } := if_pos h

theorem Slot.restarted_other {x : Slot} (h : x.state ≠ .active) : x.restarted = x := if_neg h

theorem exec_restart {h : Header} {s : State} {m : Manager} (hm : s.managerOf h = some m) (hl : m.level = 0) :
    exec (.restart h) s = .next (s.warmRestart.replyWith m .done []) :=
  congrArg Host.Outcome.next (arriveManage_accepted hm (le_refl 1) (by omega) nofun (Nat.le_of_eq hl))

/-- Settles O54: each table after the restart entry by entry, all else as R184 writes it. -/
theorem restartTakesWarmValues : Obligations.RestartTakesWarmValues := by
  intro h s m hm hl
  refine ⟨s.warmRestart, exec_restart hm hl, rfl, rfl, rfl, rfl, rfl, rfl, rfl, rfl, rfl, rfl, rfl, rfl, rfl, rfl,
    fun i => ?_, replicate_get _, replicate_get _, warmRestart_tier s, fun t => ⟨warmRestart_cfg s t, ?_⟩,
    warmRestart_station s, fun c => ?_, fun k => ?_, warmRestart_layer s,
    fun p => ⟨fun hactive => ?_, fun hother => ?_⟩, rfl, rfl, rfl, rfl, rfl, rfl, rfl, rfl, rfl⟩
  · exact congrArg CacheEntry.valid (replicate_get _ i)
  · rw [warmRestart_run]
    cases (s.cfg t).kind <;> rfl
  · rw [warmRestart_cavern]
    exact ⟨rfl, rfl⟩
  · rw [warmRestart_store]
    exact ⟨rfl, rfl⟩
  · rw [warmRestart_slot, Slot.restarted_active hactive]
    exact ⟨rfl, rfl, rfl, rfl⟩
  · rw [warmRestart_slot, Slot.restarted_other hother]

end Sys2Proof.Machine
end

section
/-! PROOF. The gate: OPEN_GATE's checks and CLOSE_GATE's flushes (O52, O53). -/

namespace Sys2Proof.Machine

/-! ### Searches for the first entry that fails a check -/

/-- A check over a table: it refuses naming the least entry without the property, and passes where every entry has
it. -/
structure Checks {n : Nat} (r : Option MRefusal) (table : Nat) (good : Fin n → Prop) : Prop where
  first : ∀ {k : Fin n}, leastIndex (fun i => ¬ good i) k → r = some (inconsistent table k.val)
  none  : (∀ i, good i) → r = none

theorem checks_of_search {n : Nat} {bad : Fin n → Bool} {good : Fin n → Prop}
    (hbad : ∀ i, bad i = true ↔ ¬ good i) (table : Nat) : Checks (((fins n).find? bad).map fun i => inconsistent table i.val) table good where
  first := fun {k} h => by
    have hfind : (fins n).find? bad = some k :=
      find_fins_of_least ⟨(hbad k).2 h.1, fun j hj => mt (hbad j).1 (h.2 j hj)⟩
    rw [hfind]
    rfl
  none := fun h => by
    have hfind : (fins n).find? bad = none := find_fins_none fun i => mt (hbad i).1 (not_not.2 (h i))
    rw [hfind]
    rfl

/-- A test of the entries in use fails where one in use does not have the property. -/
theorem usedTest_iff {used holds : Bool} {p : Prop} (h : holds = true ↔ p) :
    (used && !holds) = true ↔ ¬ (used = true → p) := by
  simp [← h]

theorem find_configured (s : State) (p : TrainId → Bool) :
    s.configuredTrains.find? p = (fins 6).find? fun t => (s.cfg t).configured && p t := by
  simp [State.configuredTrains, List.find?_filter]

/-! ### The five checks (R182) -/

section
variable (s : State)

/-- Check 1: a mapped duty's train is configured. -/
def State.dutyHolds (u : DutyId) : Prop :=
  (s.duties.get u).mapped = true → (s.cfg (s.duties.get u).train).configured = true

/-- Check 2: a configured train's controller is an in-use TRAIN station of Port D. -/
def State.controllerHolds (t : TrainId) : Prop :=
  (s.cfg t).configured = true →
    (s.controller t).inUse = true ∧ (s.controller t).port = .d ∧ (s.controller t).role = .train

/-- Check 3: a configured train's cavern and store are configured. -/
def State.plantHolds (t : TrainId) : Prop :=
  (s.cfg t).configured = true →
    (s.cavern (s.cfg t).cavern).cfg.configured = true ∧ (s.store (s.cfg t).store).cfg.configured = true

/-- Check 4: a band's bound is at or above that of the band before it in its cavern. -/
def State.bandHolds (j : Fin 16) : Prop :=
  ∀ i : Fin 16, j.val = i.val + 1 → j.val ≠ 8 → (s.bands.get i).bound ≤ (s.bands.get j).bound

/-- Check 5: an in-use scan entry's destination is in range. -/
def State.scanHolds (i : ScanId) : Prop :=
  (s.scan.get i).inUse = true →
    (s.scan.get i).destKind = .none ∨
    (((s.scan.get i).destKind = .cavernA ∨ (s.scan.get i).destKind = .cavernB) ∧ (s.scan.get i).destIndex ≤ 1) ∨
    ((s.scan.get i).destKind = .layer ∧ (s.scan.get i).destIndex ≤ 63)

theorem dutyTest_iff (u : DutyId) :
    ((s.duties.get u).mapped && !(s.cfg (s.duties.get u).train).configured) = true ↔ ¬ s.dutyHolds u :=
  usedTest_iff Iff.rfl

theorem controllerTest_iff (t : TrainId) : ((s.cfg t).configured &&
      !((s.controller t).inUse && (s.controller t).port == .d && (s.controller t).role == .train)) = true ↔
    ¬ s.controllerHolds t :=
  usedTest_iff (by simp [and_assoc])

theorem plantTest_iff (t : TrainId) : ((s.cfg t).configured &&
      !((s.cavern (s.cfg t).cavern).cfg.configured && (s.store (s.cfg t).store).cfg.configured)) = true ↔
    ¬ s.plantHolds t :=
  usedTest_iff (Bool.and_eq_true _ _).to_iff

theorem descends_iff (j : Fin 16) : descends s.bands j ↔ ¬ s.bandHolds j := by
  simp [descends, State.bandHolds]

theorem ScanEntry.inRange_iff (e : ScanEntry) : e.inRange = true ↔
    e.destKind = .none ∨ ((e.destKind = .cavernA ∨ e.destKind = .cavernB) ∧ e.destIndex ≤ 1) ∨
      (e.destKind = .layer ∧ e.destIndex ≤ 63) := by
  unfold ScanEntry.inRange
  cases e.destKind <;> simp

theorem scanTest_iff (i : ScanId) :
    ((s.scan.get i).inUse && !(s.scan.get i).inRange) = true ↔ ¬ s.scanHolds i :=
  usedTest_iff (ScanEntry.inRange_iff _)

/-! ### What each check refuses (R182) -/

theorem badDuty_checks : Checks s.badDuty 3 s.dutyHolds := checks_of_search (dutyTest_iff s) 3

theorem badController_checks : Checks s.badController 4 s.controllerHolds := by
  rw [State.badController, find_configured]
  exact checks_of_search (controllerTest_iff s) 4

theorem badPlant_checks : Checks s.badPlant 4 s.plantHolds := by
  rw [State.badPlant, find_configured]
  exact checks_of_search (plantTest_iff s) 4

theorem badBands_checks : Checks s.badBands 6 s.bandHolds :=
  checks_of_search (fun j => (descendingBand_test s.bands j).trans (descends_iff s j)) 6

theorem badScan_checks : Checks s.badScan 9 s.scanHolds := checks_of_search (scanTest_iff s) 9

end

/-! ### OPEN_GATE (R182) -/

section
variable {h : Header} {s : State} {m : Manager} (hm : s.managerOf h = some m) (hl : m.level ≤ 1)
include hm hl

theorem exec_openGate : exec (.openGate h) s = .next (s.openGate m) :=
  congrArg Host.Outcome.next (arriveManage_accepted hm (le_refl 1) (by omega) nofun hl)

theorem exec_closeGate : exec (.closeGate h) s = .next (s.closeGate m) :=
  congrArg Host.Outcome.next (arriveManage_accepted hm (le_refl 1) (by omega) nofun hl)

theorem exec_openGate_open (hg : s.gateOpen = true) : exec (.openGate h) s = .next (s.replyWith m .done []) := by
  rw [exec_openGate hm hl, State.openGate, if_pos hg]

theorem exec_openGate_refused (hg : s.gateOpen = false) {r : MRefusal} (hr : s.gateRefusal = some r) :
    exec (.openGate h) s = .next (s.refuseManage m r) := by
  rw [exec_openGate hm hl, State.openGate, if_neg (ne_true_of_eq_false hg), hr]

theorem exec_openGate_passed (hg : s.gateOpen = false) (hr : s.gateRefusal = none) :
    exec (.openGate h) s = .next (State.replyWith { s with gateOpen := true } m .done []) := by
  rw [exec_openGate hm hl, State.openGate, if_neg (ne_true_of_eq_false hg), hr]

end

/-- Settles O52: the refusal is the first failing check's, each check's the first failing entry's. -/
theorem openGateChecksInOrder : Obligations.OpenGateChecksInOrder := by
  intro h s m hm hl here refuse duty controller plant band entry
  refine ⟨exec_openGate_open hm hl, fun hg => ?_⟩
  have refused {r : MRefusal} (hr : s.gateRefusal = some r) : here = .next (s.refuseManage m r) :=
    exec_openGate_refused hm hl hg hr
  unfold State.gateRefusal at refused
  refine ⟨fun u hu => refused ?_, fun hduty => ?_⟩
  · rw [(badDuty_checks s).first hu, Option.some_or]
    rfl
  rw [(badDuty_checks s).none hduty, Option.none_or] at refused
  refine ⟨fun t ht => refused ?_, fun hcontroller => ?_⟩
  · rw [(badController_checks s).first ht, Option.some_or]
    rfl
  rw [(badController_checks s).none hcontroller, Option.none_or] at refused
  refine ⟨fun t ht => refused ?_, fun hplant => ?_⟩
  · rw [(badPlant_checks s).first ht, Option.some_or]
    rfl
  rw [(badPlant_checks s).none hplant, Option.none_or] at refused
  refine ⟨fun j hj => refused ?_, fun hband => ?_⟩
  · rw [(badBands_checks s).first hj, Option.some_or]
    rfl
  rw [(badBands_checks s).none hband, Option.none_or] at refused
  refine ⟨fun i hi => refused ((badScan_checks s).first hi), fun hentry => exec_openGate_passed hm hl hg ?_⟩
  rw [State.gateRefusal, (badDuty_checks s).none hduty, (badController_checks s).none hcontroller,
    (badPlant_checks s).none hplant, (badBands_checks s).none hband, (badScan_checks s).none hentry]
  rfl

/-! ### The held polls at the end of an event (R86) -/

theorem departOne_polls {s u : State} (h : s.departOne = some u) : u.queue.polls = s.queue.polls := by
  unfold State.departOne at h
  split at h
  · cases h
  · cases h
    rw [sendDrive_queue]
    rfl

theorem drain_polls (n : Nat) (s : State) : (s.drain n).queue.polls = s.queue.polls := by
  induction n generalizing s with
  | zero => rfl
  | succ n ih =>
    have hrefill : (s.modQueue Queue.refill).queue.polls = s.queue.polls := refill_polls s.queue
    unfold State.drain
    dsimp only
    split
    · exact hrefill
    next u hu => rw [ih, departOne_polls hu, hrefill]

/-- Where no poll is held none is held at the end. -/
theorem settle_no_polls {s : State} (h : s.queue.polls = []) : s.settle.queue.polls = [] := by
  have released : (s.releasePolls.drain 7).queue.polls = [] := by
    rw [drain_polls, releasePolls_queue]
    simp [h]
  rw [State.settle, releasePolls_queue]
  simp [released]

/-! ### CLOSE_GATE (R183) -/

section
variable (s : State)

/-- R84: every held poll is handed over. -/
theorem flushGate_polls : s.flushGate.queue.polls = [] := by
  unfold State.flushGate
  apply settle_no_polls
  rw [handPolls_queue]
  rfl

/-- R84: the flush changes the ports and the queue. -/
theorem flushGate_frame : s.flushGate = { s with link := s.flushGate.link, queue := s.flushGate.queue } :=
  (driveFrame s).flushGate rfl

/-- R155: the activation cleared changes the activation, the shares and, by the energy added last, the active slot. -/
theorem clearActivation_frame : s.clearActivation =
    { s with slots := s.clearActivation.slots, act := s.clearActivation.act, shares := s.clearActivation.shares } := by
  unfold State.clearActivation
  rw [accumulate_frame]
  rfl

theorem clearActivation_act : ∃ n, s.clearActivation.act =
    { s.act with active := false, hold := none, requested := 0, limited := 0, applied := 0, since := n } := by
  obtain ⟨n, hn⟩ := accumulate_act s
  refine ⟨n, ?_⟩
  show { s.accumulate.act with active := false, hold := none, requested := 0, limited := 0, applied := 0 } = _
  rw [hn]

theorem clearActivation_share (t : TrainId) : s.clearActivation.shares.get t =
    { s.shares.get t with share := 0, carrier := false, unfinished := false } := by
  have hshares : s.accumulate.shares = s.shares := by rw [accumulate_frame]
  show (tabMap _ s.accumulate.shares).get t = _
  rw [tabMap_get, hshares]

/-- R183: what the gate's closing can change. -/
theorem shutGate_frame : ∃ slots link queue cache, s.shutGate =
    { s with gateOpen := false
             slots := slots
             act := (State.clearActivation { s with gateOpen := false }).act
             shares := (State.clearActivation { s with gateOpen := false }).shares
             link := link
             queue := queue
             cache := cache } := by
  obtain ⟨link, queue, hflush⟩ : ∃ link queue, (State.clearActivation { s with gateOpen := false }).flushGate =
      { State.clearActivation { s with gateOpen := false } with link := link, queue := queue } :=
    ⟨_, _, flushGate_frame _⟩
  obtain ⟨cache, hfence⟩ : ∃ cache, s.shutGate =
      { (State.clearActivation { s with gateOpen := false }).flushGate with cache := cache } := ⟨_, rfl⟩
  refine ⟨(State.clearActivation { s with gateOpen := false }).slots, link, queue, cache, ?_⟩
  rw [hfence, hflush, clearActivation_frame]

theorem fenceAll_queue : s.fenceAll.queue = s.queue := rfl

theorem fenceAll_valid (i : Fin 16) : (s.fenceAll.cache.get i).valid = false := by
  have htest (e : CacheEntry) : (if (e.valid && true) = true then { e with valid := false } else e).valid = false := by
    split
    · rfl
    next hv => simpa using hv
  rw [State.fenceAll, State.invalidate, tabMap_get]
  exact htest _

/-- R84: every held poll is handed over as the gate closes. -/
theorem shutGate_polls : s.shutGate.queue.polls = [] := by
  rw [State.shutGate, fenceAll_queue]
  exact flushGate_polls _

/-- R183: no cache entry stays valid. -/
theorem shutGate_valid (i : Fin 16) : (s.shutGate.cache.get i).valid = false := by
  unfold State.shutGate
  exact fenceAll_valid _ i

end

/-- Settles O53: the activation and the shares by their clearing, the queue by its flush, the cache by the fence. -/
theorem closeGateFlushes : Obligations.CloseGateFlushes := by
  intro h s m hm hl
  obtain ⟨n, hact⟩ := clearActivation_act { s with gateOpen := false }
  have hshare := clearActivation_share { s with gateOpen := false }
  obtain ⟨slots, link, queue, cache, hshut⟩ := shutGate_frame s
  have hgate : s.shutGate.gateOpen = false := by rw [hshut]
  have hquiet (hq : s.queue.holdsCommands) : s.shutGate.queue.quiet := (shutGate_gateQuiet hq).2 hgate
  have hpolls := shutGate_polls s
  have hvalid := shutGate_valid s
  refine ⟨s.shutGate, exec_closeGate hm hl, ?_⟩
  rw [hshut] at hquiet hpolls hvalid ⊢
  simp only [hact, hshare, true_and, and_self, implies_true]
  exact ⟨hquiet, hpolls, hvalid, tablesKept_refl { s with gateOpen := false }⟩

end Sys2Proof.Machine
end

section
/-! PROOF. Management requests: levels, replies and reads (O9, O46). -/

namespace Sys2Proof.Machine

/-! ### Levels (R177) -/

theorem reqReadEntries_maxLevel (w : Word) (i : HWord) (n f : Word) : (reqReadEntries w i n f).maxLevel = 3 := by
  unfold reqReadEntries
  split <;> rfl

theorem reqReadState_maxLevel (w : Word) (i : HWord) (f : Word) : (reqReadState w i f).maxLevel = 3 := by
  unfold reqReadState
  split <;> rfl

theorem reqClear_maxLevel {k l u : Word} (h : reqClear k l u ≠ .bad) : (reqClear k l u).maxLevel = 1 := by
  unfold reqClear at h ⊢
  split
  · rfl
  next hk => simp [hk] at h

theorem reqMask_maxLevel {k l u : Word} (h : reqMask k l u ≠ .bad) : (reqMask k l u).maxLevel = 1 := by
  unfold reqMask at h ⊢
  split
  · rfl
  next hk => simp [hk] at h

/-- The request a row spells accepts the level R177 lists for the row. -/
theorem maxLevel_of_request {c : Instr} {h : Header} {q : ManageReq} (hq : requestOfCommand c = some (h, q))
    (hbad : q ≠ .bad) : q.maxLevel = highestLevel c := by
  cases c <;> simp only [requestOfCommand, Option.some.injEq, Prod.mk.injEq, reduceCtorEq] at hq <;>
    obtain ⟨rfl, rfl⟩ := hq
  case readEntries => exact reqReadEntries_maxLevel _ _ _ _
  case readState => exact reqReadState_maxLevel _ _ _
  case clearNotices => exact reqClear_maxLevel hbad
  case setMask => exact reqMask_maxLevel hbad
  all_goals rfl

section
variable {s : State} {m : Manager} {q : ManageReq}

theorem takeManage_bad : s.takeManage m .bad = s.refuseManage m { cause := .badValue } := if_pos rfl

theorem takeManage_above (hq : q ≠ .bad) (hl : q.maxLevel < m.level) :
    s.takeManage m q = s.refuseManage m { cause := .level } := by
  rw [State.takeManage, if_neg hq, if_pos hl]
  rfl

end

/-- Settles O9: the row's request is judged by its operands, then by its level, and the replies are frames of the part's
own. -/
theorem requestsByLevelAndReply : Obligations.RequestsByLevelAndReply := by
  refine ⟨fun c h q s m hq hw hm => ?_, fun s m r x fields => ?_⟩
  · obtain ⟨n, h1, hn, hexec⟩ := exec_request s hq hw
    rw [hexec]
    refine ⟨fun hbad => ?_, fun hbad hl => ?_, fun hbad hl => ?_⟩
    · rw [arriveManage_taken s h q h1 hn hm, hbad, takeManage_bad]
    · rw [← maxLevel_of_request hq hbad] at hl
      rw [arriveManage_taken s h q h1 hn hm, takeManage_above hbad hl]
    · rw [← maxLevel_of_request hq hbad] at hl
      rw [arriveManage_accepted hm h1 hn hbad hl]
  · intro frame status
    exact ⟨rfl, Config.statusCauseWord s.free, rfl⟩

/-! ### Reads (R180) -/

section
variable {s : State} {m : Manager}

/-- The reply of a read carries the first 15 fields and names the one that follows. -/
theorem replyRead_eq (l : ReadItems) : s.replyRead m l =
    s.replyDone m.dst m.seq .done ((l[15]?.map fun f => nat f.1).getD absent)
      ((l[15]?.map fun f => nat f.2.1).getD absent) ((l.take 15).map fun f => fieldItem f.1 f.2.1 f.2.2) := by
  have hnext : l[15]? = (l.drop 15).head? := by rw [List.head?_drop]
  rw [State.replyRead, hnext]
  cases l.drop 15 <;> rfl

theorem readItems_succ (table first count field : Nat) : s.readItems table first (count + 1) field =
    (s.readItems table first count field).bind fun l => (s.tableFields table (first + count)).map fun fs =>
      l ++ entryItems (first + count) (if count = 0 then field else 0) fs := by
  rcases hl : s.readItems table first count field with _ | l <;> rw [State.readItems] at hl ⊢ <;>
    rw [List.range_succ, List.foldl_append, hl]
  · rfl
  · rcases hfs : s.tableFields table (first + count) with _ | fs <;> simp [hfs]

/-- An entry beyond the table makes the whole read none. -/
theorem readItems_beyond {table first k : Nat} (field : Nat) (h : s.tableFields table (first + k) = none) {count : Nat}
    (hk : k < count) : s.readItems table first count field = none := by
  induction count with
  | zero => omega
  | succ n ih =>
    rw [readItems_succ]
    rcases Nat.lt_succ_iff_lt_or_eq.1 hk with hlt | rfl
    · rw [ih hlt, Option.bind_none]
    · rw [h]
      cases s.readItems table first k field <;> rfl

theorem readItems_one {table first : Nat} (field : Nat) {fs : Fields} (h : s.tableFields table first = some fs) :
    s.readItems table first 1 field = some (entryItems first field fs) := by
  rw [readItems_succ, Nat.add_zero, h]
  rfl

/-- From the second entry on, every field is read. -/
theorem entryItems_zero (i : Nat) (fs : Fields) : entryItems i 0 fs = fs.map fun f => (i, f.1, f.2) := by
  simp [entryItems]

theorem readItems_two {table first : Nat} (field : Nat) {fs gs : Fields} (h : s.tableFields table first = some fs)
    (hnext : s.tableFields table (first + 1) = some gs) : s.readItems table first 2 field =
      some (entryItems first field fs ++ gs.map fun f => (first + 1, f.1, f.2)) := by
  rw [readItems_succ, readItems_one field h, hnext, ← entryItems_zero]
  rfl

theorem readEntries_miscounted (table first field : Nat) {count : Nat} (h : count = 0 ∨ 8 < count) :
    s.readEntries m table first count field = s.refuseManage m { cause := .badIndex } := if_pos h

theorem readEntries_beyond {table first count field : Nat} (hpos : 1 ≤ count) (hmax : count ≤ 8)
    (h : s.readItems table first count field = none) :
    s.readEntries m table first count field = s.refuseManage m { cause := .badIndex } := by
  rw [State.readEntries, if_neg (by omega), h]
  rfl

theorem readEntries_answered {table first count field : Nat} (hpos : 1 ≤ count) (hmax : count ≤ 8) {l : ReadItems}
    (h : s.readItems table first count field = some l) :
    s.readEntries m table first count field = s.replyRead m l := by
  rw [State.readEntries, if_neg (by omega), h]

theorem readState_beyond {block index : Nat} (field : Nat) (h : s.blockFields block index = none) :
    s.readState m block index field = s.refuseManage m { cause := .badIndex } := by
  rw [State.readState, h]
  rfl

theorem readState_answered {block index : Nat} (field : Nat) {fs : Fields} (h : s.blockFields block index = some fs) :
    s.readState m block index field = s.replyRead m (entryItems index field fs) := by
  rw [State.readState, h]

variable {h : Header} (hm : s.managerOf h = some m) (hl : m.level ≤ 3)
include hm hl

theorem exec_readEntries {table : Word} (ht : table.toNat < 12) (first : HWord) (count field : Word) :
    exec (.readEntries h table first count field) s =
      .next (s.readEntries m table.toNat first.toNat count.toNat field.toNat) := by
  have hq : reqReadEntries table first count field =
      .readEntries table.toNat first.toNat count.toNat field.toNat := if_pos ht
  have hexec : exec (.readEntries h table first count field) s =
      .next (s.arriveManage h 1 (reqReadEntries table first count field)) := rfl
  rw [hexec, hq]
  exact congrArg Host.Outcome.next (arriveManage_accepted hm (le_refl 1) (by omega) nofun hl)

theorem exec_readState {block : Word} (hb : block.toNat < 17) (index : HWord) (field : Word) :
    exec (.readState h block index field) s = .next (s.readState m block.toNat index.toNat field.toNat) := by
  have hq : reqReadState block index field = .readState block.toNat index.toNat field.toNat := if_pos hb
  have hexec : exec (.readState h block index field) s =
      .next (s.arriveManage h 1 (reqReadState block index field)) := rfl
  rw [hexec, hq]
  exact congrArg Host.Outcome.next (arriveManage_accepted hm (le_refl 1) (by omega) nofun hl)

end

/-- Settles O46: the fields of the entries in order, or none where one lies beyond the table, and the reply of each. -/
theorem readsChangeNothing : Obligations.ReadsChangeNothing := by
  intro h code_ index count field s m hm hl entries block bad answered
  have hentries (ht : code_.toNat < 12) :
      entries = .next (s.readEntries m code_.toNat index.toNat count.toNat field.toNat) :=
    exec_readEntries hm hl ht index count field
  have hblock (hb : code_.toNat < 17) : block = .next (s.readState m code_.toNat index.toNat field.toNat) :=
    exec_readState hm hl hb index field
  refine ⟨fun ht hcount => ?_, fun k ht hpos hmax hk hnone => ?_, fun fs ht hcount hfs => ?_,
    fun fs gs ht hcount hfs hgs => ?_, fun hb hnone => ?_, fun fs hb hfs => ?_⟩
  · rw [hentries ht, readEntries_miscounted _ _ _ hcount]
  · rw [hentries ht, readEntries_beyond hpos hmax (readItems_beyond _ hnone hk)]
  · rw [hentries ht, hcount, readEntries_answered (le_refl 1) (by omega) (readItems_one _ hfs), replyRead_eq]
    rfl
  · rw [hentries ht, hcount, readEntries_answered (by omega) (by omega) (readItems_two _ hfs hgs), replyRead_eq]
    rfl
  · rw [hblock hb, readState_beyond _ hnone]
  · rw [hblock hb, readState_answered _ hfs, replyRead_eq]
    rfl

end Sys2Proof.Machine
end

section
/-! PROOF. A step: the command at the front of the queue (O1), or, on an empty queue, what stands due, else one
millisecond (O2). -/

namespace Sys2Proof.Machine

variable {s : State}

/-! ### The three ways of a step (log entry 1) -/

theorem step_front {c : Instr} {rest : List Instr} (h : s.pending = c :: rest) :
    step s = exec c { s with pending := rest } := by
  rw [step, h]

theorem step_idle (h : s.pending = []) : step s = idleStep s := by
  rw [step, h]

theorem step_due (h : s.pending = []) {c : Instr} (hc : s.idleEvent = some c) : step s = exec c s := by
  rw [step_idle h, idleStep, hc]

theorem step_tick (h : s.pending = []) (hnone : s.idleEvent = none) : step s = .next s.tick := by
  rw [step_idle h, idleStep, hnone]

/-! ### One millisecond, table by table -/

theorem tick_train (t : TrainId) : s.tick.train t = (s.train t).tick := tabMap_get _ _ t

theorem tick_cfg (t : TrainId) : s.tick.cfg t = s.cfg t := by
  rw [State.cfg, tick_train]
  rfl

theorem tick_run (t : TrainId) : s.tick.run t =
    { s.run t with timer := (s.run t).timer.map fun (k, n) => (k, n - 1), age := (s.run t).age.map aged } :=
  congrArg Train.run (tick_train t)

theorem tick_pacing (t : TrainId) : s.tick.queue.pacing.get t = dec (s.queue.pacing.get t) := tabMap_get _ _ t

theorem tick_cavern (c : CavernId) : s.tick.cavern c = { s.cavern c with run := (s.cavern c).run.tick } :=
  tabMap_get _ _ c

theorem tick_layer (l : LayerId) : s.tick.layer l = { s.layer l with stale := dec (s.layer l).stale } :=
  tabMap_get _ _ l

theorem tick_point (i : ScanId) :
    s.tick.points.get i = { s.points.get i with age := (s.points.get i).age.map aged } := tabMap_get _ _ i

theorem CavernRun.tick_blind {r : CavernRun} {n : Nat} (h : r.blindTimer = .running n) :
    r.tick.blindTimer = .running (n - 1) := by
  rw [CavernRun.tick, h]

theorem Engine.tick_pre {e : Engine} {n : Nat} (h : e.pre = .running n) : e.tick.pre = .running (n - 1) := by
  rw [Engine.tick, h]

/-! ### The two statements -/

/-- A list differs from the empty one exactly when it is not empty, as the statement and the model spell it. -/
theorem bne_nil_eq {α : Type} [BEq α] (l : List α) : (l != []) = !l.isEmpty := by
  cases l <;> rfl

/-- Settles O1: the queue's front decides the branch of the step. -/
theorem stepTakesFront : Obligations.StepTakesFront := fun _ _ _ h => step_front h

/-- Settles O2: the list of the statement is the model's own order of due events; without one the step is the tick,
read off table by table. -/
theorem emptyQueueLetsTimePass : Obligations.EmptyQueueLetsTimePass := by
  intro s hq at_ train cavern waits due
  have hdue : due.findSome? id = s.idleEvent := by
    rw [State.idleEvent, ← bne_nil_eq]
    rfl
  rw [hdue]
  refine ⟨fun c hc => step_due hq hc, fun hnone => ⟨s.tick, step_tick hq hnone, ?_⟩⟩
  refine ⟨rfl, rfl, rfl, rfl, rfl, rfl, rfl, rfl, rfl, rfl, rfl, rfl, rfl, rfl, fun _ => Engine.tick_pre, rfl, rfl,
    fun u => ?trains, fun c => ?caverns, fun l => ?layers, fun i => ?points⟩
  case trains =>
    rw [tick_run]
    exact ⟨tick_cfg u, rfl, rfl, rfl, tick_pacing u⟩
  case caverns =>
    rw [tick_cavern]
    exact ⟨rfl, rfl, fun _ => CavernRun.tick_blind⟩
  case layers =>
    rw [tick_layer]
    rfl
  case points =>
    rw [tick_point]
    rfl

end Sys2Proof.Machine
end
